-- ==== Sys2Proof/Word.lean ====
section
/-! DEFINITION. Word types and their plainest arithmetic (R2, R3, R4). -/

namespace Sys2Proof

/-- One byte of memory (R4). -/
abbrev Byte := BitVec 8

/-- One 32-bit register or instruction word (R60). -/
abbrev Word := BitVec 32

/-- One bit for each of a flock's 32 threads; bit t stands for thread t (R8, R253). -/
abbrev Mask := BitVec 32

/-- Bits hi..lo of x as an unsigned number (the helper Bits of R79). -/
def bits (x hi lo : Nat) : Nat := x / 2 ^ lo % 2 ^ (hi + 1 - lo)

/-- One bit of x as a Boolean. -/
def bitAt (x i : Nat) : Bool := x / 2 ^ i % 2 == 1

end Sys2Proof
end

