-- ==== Sys2Proof/Syntax.lean ====
section
/-! DEFINITION. The instruction set as syntax: one constructor for each row of spec/opcode_table.json. An instruction's
arguments are the fields of its words, under the names of the table (R53, R54); a device event's arguments name
what it happens to. -/

namespace Sys2Proof

/-- The two ports of the module (R20, R21). -/
inductive Port where
  | portA
  | portB
  deriving DecidableEq, Repr

/-- Where the drover puts one flock at an admission or a restore: flock slot of the core, octet, first register block (R248, R387). -/
structure Place where
  slot : Nat
  octet : Nat
  block : Nat
  deriving DecidableEq, Repr

/-- What a port's write brings: its bytes, and whether it comes with poison set (R22, R370). -/
structure BusData where
  bytes : List Byte
  poisoned : Bool
  deriving DecidableEq, Repr

/-- Every row of the opcode table. g is the guard field, d, a, b and cc the register fields, c the operand class,
t the type, r, m and p buffer records, f the completion-flag bit, and n a negate or count field, as each rule says. -/
inductive Instr where
  /-- IADD (R104): Adds A and B per element, modulo 2^w. -/
  | iadd (g d a b c t : Nat)
  /-- ISUB (R104): Subtracts B from A per element, modulo 2^w. -/
  | isub (g d a b c t : Nat)
  /-- IMUL (R104): Writes the low w bits of A times B per element. -/
  | imul (g d a b c t : Nat)
  /-- AND (R104): Bitwise AND of A and B. -/
  | andB (g d a b c t : Nat)
  /-- OR (R104): Bitwise OR of A and B. -/
  | orB (g d a b c t : Nat)
  /-- XOR (R104): Bitwise XOR of A and B. -/
  | xorB (g d a b c t : Nat)
  /-- SHL (R104): Shifts A left by B mod w. -/
  | shl (g d a b c t : Nat)
  /-- SHR (R104): Shifts A right by B mod w, logically or arithmetically as the type says. -/
  | shr (g d a b c t : Nat)
  /-- IMIN (R105): Writes the smaller of A and B, compared as the type says. -/
  | imin (g d a b c t : Nat)
  /-- IMAX (R105): Writes the larger of A and B, compared as the type says. -/
  | imax (g d a b c t : Nat)
  /-- IABSD (R104): Writes the absolute difference of A and B per element. -/
  | iabsd (g d a b c t : Nat)
  /-- BITCOUNT (R106): Counts set bits, leading zeros or trailing zeros per element, as the B field selects. -/
  | bitcount (g d a b c t : Nat)
  /-- BFE (R107): Extracts a bit field of A at the position and width given by B. -/
  | bfe (g d a b c t : Nat)
  /-- MOV (R111): Copies 32 bits between v and s registers in the selected form. -/
  | mov (g d a f n : Nat)
  /-- SEL (R112): Writes A where the named predicate is true and B where it is false. -/
  | sel (p d a b c : Nat)
  /-- MAX2SEL (R113): Packed 16-bit add-compare-select step that writes the maxima and the decision predicates. -/
  | max2sel (g d a b q t u : Nat)
  /-- SREG (R63): Reads a special value and, with .clr, clears the sticky status flags. -/
  | sreg (g d sx u c : Nat)
  /-- FADD (R114): Float addition per element, rounded to nearest even. -/
  | fadd (g d a b c t : Nat)
  /-- FSUB (R114): Float subtraction per element, rounded to nearest even. -/
  | fsub (g d a b c t : Nat)
  /-- FMUL (R114): Float multiplication per element, rounded to nearest even. -/
  | fmul (g d a b c t : Nat)
  /-- FMIN (R115): Float minimum per element, with -0 below +0 and NaN rules. -/
  | fmin (g d a b c t : Nat)
  /-- FMAX (R115): Float maximum per element, with -0 below +0 and NaN rules. -/
  | fmax (g d a b c t : Nat)
  /-- FCMP (R116): Compares FP32 operands and writes the condition to a predicate. -/
  | fcmp (g k p a b c t : Nat)
  /-- FRCP (R117): Correctly rounded reciprocal per element. -/
  | frcp (g d a f c t : Nat)
  /-- FRSQ (R117): Correctly rounded reciprocal square root per element. -/
  | frsq (g d a f c t : Nat)
  /-- FEX2 (R117): Correctly rounded 2^x per element. -/
  | fex2 (g d a f c t : Nat)
  /-- FLG2 (R117): Correctly rounded base-2 logarithm per element. -/
  | flg2 (g d a f c t : Nat)
  /-- FSIN (R117): Correctly rounded sine per element (class D). -/
  | fsin (g d a f c t : Nat)
  /-- FCOS (R117): Correctly rounded cosine per element (class D). -/
  | fcos (g d a f c t : Nat)
  /-- FCLASS (R118): Writes a one-hot class mask for each float element. -/
  | fclass (g d a c t : Nat)
  /-- FSCALE (R119): Multiplies each element by 2^n and rounds. -/
  | fscale (g d a b c t : Nat)
  /-- FROUND (R120): Rounds each element to an integral value in its own format. -/
  | fround (g d a f r c t : Nat)
  /-- CVT (R122): Converts FP32 to a narrower float format under a rounding mode. -/
  | cvt (g d a f sx r : Nat)
  /-- CVTI (R123): Converts between FP32 and integer types, clamping out-of-range values. -/
  | cvti (g d a f r : Nat)
  /-- PACK (R124): Packs 16-bit or 8-bit elements of A and B into D. -/
  | pack (g d a b c t : Nat)
  /-- UNPACK (R124): Selects element i of A and widens it to 32 bits. -/
  | unpack (g d a t u ix : Nat)
  /-- CBDEC (R125): Decodes two CB4 codes through a codebook slot into a BF16 pair. -/
  | cbdec (g d a sx u ix : Nat)
  /-- CBLOAD (R126): Fills a codebook slot with 16 BF16 entries read from memory. -/
  | cbload (g sx r b : Nat)
  /-- MXSCALE (R127): Quantises a block of 32 FP32 values to an MX element format with a shared scale. -/
  | mxscale (g d a e : Nat)
  /-- ICMP (R128): Compares integers and writes the condition to a predicate. -/
  | icmp (g k p a b c t : Nat)
  /-- POP (R129): Combines two predicates with and, or, xor or andn. -/
  | pop (g d a b o : Nat)
  /-- BALLOT (R130): Forms a 32-bit mask of the active threads whose predicate is true. -/
  | ballot (g d p u : Nat)
  /-- AGREE (R131): Tests whether the active threads agree on a predicate. -/
  | agree (g d a t : Nat)
  /-- MATCH (R132): Writes for each thread the mask of active threads holding an equal key. -/
  | matchK (g d a w : Nat)
  /-- XPICK (R133): Gives each active thread the A value of a source thread it names. -/
  | xpick (g d a b sx m : Nat)
  /-- XFOLD (R134): Folds A over the active threads with one operation and delivers the result. -/
  | xfold (g d a t u o : Nat)
  /-- LEAD (R135): Marks the lowest active thread, or the lowest of each thread's mask. -/
  | lead (g p a m : Nat)
  /-- LD (R181): Loads one element per active thread through a memory buffer record. -/
  | ld (g d a r f sx z c : Nat)
  /-- ST (R182): Stores one element per active thread through a memory buffer record. -/
  | st (g d a r f sx z c : Nat)
  /-- LDSP (R181): Loads one element per active thread from the scratchpad window. -/
  | ldsp (g d a r f sx z c : Nat)
  /-- STSP (R182): Stores one element per active thread to the scratchpad window. -/
  | stsp (g d a r f sx z c : Nat)
  /-- ATOM (R185): Performs an atomic read-modify-write per active thread at the place its scope names. -/
  | atom (g d a r f n o : Nat)
  /-- RED (R186): Performs a no-return reduction per active thread. -/
  | red (g d a r f o : Nat)
  /-- ATOMSP (R185): Performs an atomic per active thread on the scratchpad window. -/
  | atomsp (g d a r f n o : Nat)
  /-- LDFE (R187): Sends full-empty load requests, optionally taking the word empty. -/
  | ldfe (g d a r f t c : Nat)
  /-- STFE (R187): Sends full-empty store requests that fill empty words; strict form decides all or none. -/
  | stfe (g d a r f t c : Nat)
  /-- FENCE (R189): Orders the path's accesses at a scope as acquire, release or both. -/
  | fence (sx o : Nat)
  /-- LDB (R190): Loads a 256-bit buffer record from memory into a b register. -/
  | ldb (g d sx r f : Nat)
  /-- CACHE (R191): Writes back and/or invalidates the lines covering a range of a record. -/
  | cache (g n sx r f o : Nat)
  /-- PREFETCH (R192): Prefetches a range into the L1 path or the caching paddock's shares. -/
  | prefetch (g n sx r f o : Nat)
  /-- TICK (R193): Advances the core's program timestamp by n. -/
  | tick (g a u : Nat)
  /-- ACC_TAKE (R138): Claims an accumulator tile for the flock, waiting if it is held or published. -/
  | accTake (g t : Nat)
  /-- ACC_FREE (R138): Releases a held tile, or publishes it on a non-normaliser core. -/
  | accFree (g t : Nat)
  /-- ACC_ZERO (R139): Sets every segment of a tile to its reset state and clears merged. -/
  | accZero (g t : Nat)
  /-- ACC_RD (R146): Merges region partials if due, normalises a segment in place and reads a 4-column group. -/
  | accRd (g d t f c : Nat)
  /-- REGION (R147): Sets a tile's region descriptor from an s register. -/
  | region (g t sx : Nat)
  /-- COMPRESS (R150): Keeps the N largest of every M elements and writes them with position metadata. -/
  | compress (g d a m k mlo p x : Nat)
  /-- CP (R196): Copies a block from memory into scratchpad behind a handle. -/
  | cp (g h sx m f p : Nat)
  /-- CP_COLL (R199): Supplies this flock's slice of a collective copy; the engine starts when all slices arrive. -/
  | cpColl (g h sx m f p : Nat)
  /-- CPWAIT (R205): Waits for a handle to become full or free, raising copy-fault if its fault bit is set. -/
  | cpwait (g h w : Nat)
  /-- CPFREE (R205): Frees a handle and clears its fault bit, waiting for a transfer in flight. -/
  | cpfree (g h : Nat)
  /-- GATHER (R201): Copies one memory row per active thread into scratchpad. -/
  | gather (g h a m f c p : Nat)
  /-- SCATTER (R201): Copies one scratchpad row per active thread out to memory. -/
  | scatter (g h a m f c p : Nat)
  /-- MCAST (R202): Reads a block once and delivers it to every core of the cluster. -/
  | mcast (g h sx m f p : Nat)
  /-- COLL (R203): Joins a cross-core reduction of scratchpad buffers over the cluster. -/
  | coll (g h sx p f o : Nat)
  /-- HSTAT (R206): Reads a handle's state and fault fields without waiting (class E). -/
  | hstat (g d h : Nat)
  /-- BRA (R266): Branches the active threads to a word-offset target, splitting paths as needed. -/
  | bra (g o h n : Nat)
  /-- BRX (R269): Branches each thread through an indexed entry of a target set. -/
  | brx (g ix sx h n u : Nat)
  /-- CALL (R271): Calls a function entry, writing each caller's link register. -/
  | callI (g l o n : Nat)
  /-- CALLX (R272): Calls each thread's indexed entry of a target set. -/
  | callx (g l ix sx n u : Nat)
  /-- RET (R273): Returns each active thread to the address in its link register. -/
  | ret (g l n : Nat)
  /-- EXIT (R274): Marks the active threads of the path exited. -/
  | exitI (g n : Nat)
  /-- FAB_ENTER (R287): Reads and checks a fabric image and commits the core to spatial mode. -/
  | fabEnter (g r : Nat)
  /-- FAB_LEAVE (R289): Waits for accepted stream commands, then returns the core to SIMT mode. -/
  | fabLeave (g : Nat)
  /-- BAR (R276): Marks the path arrived at workgroup barrier n and waits. -/
  | bar (n : Nat)
  /-- YIELD (R277): Swaps in a stacked path or gives the flock's issue turn away. -/
  | yield (g : Nat)
  /-- NAP (R278): Holds the issuing path for at least 16 times n clocks. -/
  | nap (g n u : Nat)
  /-- TRAP (R279): Raises software or breakpoint and stops the workgroup. -/
  | trapI (g n : Nat)
  /-- ICINV (R280): Drops the core's cached instruction words over a range. -/
  | icinv (g c sx r : Nat)
  /-- FETCHB (R281): Discards the path's prefetched words so later fetches follow earlier icinv. -/
  | fetchb
  /-- STRM (R305): Issues a stream command from four s registers to a source or sink lane. -/
  | strm (g d sx f w : Nat)
  /-- SYSOP_HARVEST (R283): Privileged: sets dirty bits of pages in a range from the home directory records. -/
  | sysopHarvest (g c sx r : Nat)
  /-- SYSOP_UNPOISON (R283): Privileged: writes zeros over poisoned lines in a range, clearing the poison. -/
  | sysopUnpoison (g c sx r : Nat)
  /-- IMAD (R108): Integer multiply-add, modular, saturating or widening. -/
  | imad (g d a b c t cc fm : Nat)
  /-- BFI (R109): Inserts the low bits of B into A at a position and width. -/
  | bfi (g d a b c t cc fm : Nat)
  /-- FFMA (R121): Fused multiply-add with a single rounding. -/
  | ffma (g d a b c t cc fm : Nat)
  /-- MOV_I (R111): Writes a 32-bit immediate to D. -/
  | movI (g d c t imm : Nat)
  /-- IADD_I (R110): Adds a 32-bit immediate to A. -/
  | iaddI (g d a c t imm : Nat)
  /-- FCMP_I (R116): Compares A with an FP32 immediate into a predicate. -/
  | fcmpI (g k p a c t imm : Nat)
  /-- ICMP_I (R128): Compares A with an integer immediate into a predicate. -/
  | icmpI (g k p a c t imm : Nat)
  /-- LDO (R181): Long-form load with order, scope, displacement and uniform index. -/
  | ldo (g d a r ord sc z f u cl disp : Nat)
  /-- STO (R182): Long-form store with order, scope, displacement and uniform index. -/
  | sto (g d a r ord sc z f u cl disp : Nat)
  /-- ATOMO (R185): Long-form atomic including .cas and 64-bit data. -/
  | atomo (g d a r n o cc ord sc z f u cl disp : Nat)
  /-- REDO (R186): Long-form reduction with order and scope. -/
  | redo (g a r o cc ord sc z f u cl disp : Nat)
  /-- MMA (R143): Adds A times B exactly into an accumulator tile. -/
  | mma (g ti a b ru src cc fm f : Nat)
  /-- MMA_SP (R151): Multiplies an N:M-compressed A by a dense B into a tile. -/
  | mmaSp (g ti a b ru pat src cc fm f : Nat)
  /-- MMA_DEC (R152): Decomposes a sparse B into N:M terms and a residual and adds the products. -/
  | mmaDec (g ti a b ru pat src cc lossy fm f : Nat)
  /-- CPX (R196): Long-form copy: copy in, copy out, multicast or collective copy in. -/
  | cpx (g h a m k p cc ord sc f u cl disp : Nat)
  /-- PADDOCK (R207): Installs a paddock definition record read from memory. -/
  | paddock (g a r cc f : Nat)
  /-- BRA_L (R266): Long-form branch with a byte offset. -/
  | braL (g h n off : Nat)
  /-- CALL_L (R271): Long-form call with a byte offset. -/
  | callL (g l n off : Nat)
  /-- STRM_L (R305): Issues a stream command read from the code object. -/
  | strmL (g d w offhi f offlo : Nat)
  /-- RESERVED_MAJOR (R69): Execution of a reserved or permanently illegal major raises illegal-opcode. -/
  | reservedMajor (w w2 : Nat)
  /-- CLAUSE_START (R48): A clause starts once every flag in its wait mask reads zero, after header decode. -/
  | clauseStart
  /-- LONG_LATENCY_COMPLETION (R49): A long-latency instruction reaches its completion point, writes results and decrements its flag. -/
  | longLatencyCompletion (core slot uid : Nat)
  /-- SWAP_COUNT_EXPIRY (R255): The flock's 4,096-clock count without merge, exit, spill or swap is reached. -/
  | swapCountExpiry (core slot : Nat) (second : Bool)
  /-- NAP_END (R278): A napping path's time expires and it may issue again. -/
  | napEnd (core slot : Nat) (second : Bool)
  /-- FLOCK_RETIREMENT (R275): A flock whose threads have all exited and whose long-latency work completed retires, freeing tiles. -/
  | flockRetirement (core slot : Nat)
  /-- WORKGROUP_COMPLETION (R275): All flocks retired and handles settled; window and handles are released and completion reported. -/
  | workgroupCompletion (launch wg : Nat)
  /-- DOORBELL_WRITE (R235): A doorbell write records a new write index and lets the drover read the queue's slots. -/
  | doorbellWrite (port : Port) (queue offset value : Nat)
  /-- QUEUE_SYNC_WRITE (R234): Makes the device re-read a queue descriptor, restarting a stopped queue when enable rises. -/
  | queueSyncWrite (port : Port) (value : Nat)
  /-- QUEUE_TABLE_WRITE (R234): Sets the queue table base, discarding a misaligned base. -/
  | queueTableWrite (port : Port) (value : Nat)
  /-- PACKET_DISPATCH (R245): The drover dispatches the highest-ranked dispatchable queue, or an aged override. -/
  | packetDispatch
  /-- LAUNCH_PACKET (R239): A launch packet is checked, its record block read, and its workgroups made ready for admission. -/
  | launchPacket (queue : Nat)
  /-- COPY_PACKET (R242): A device engine copies bytes between two VAs and signals. -/
  | copyPacket (queue : Nat)
  /-- BARRIER_AND_PACKET (R242): Completes when every named signal reads zero. -/
  | barrierAndPacket (queue : Nat)
  /-- SIGNAL_PACKET (R242): Sets or subtracts a signal value as a .sy atomic. -/
  | signalPacket (queue : Nat)
  /-- PADDOCK_PACKET (R243): Applies a paddock definition record for its owner domain. -/
  | paddockPacket (queue : Nat)
  /-- HOME_CHANGE_PACKET (R229): Starts moving a page to a new frame or pin. -/
  | homeChangePacket (queue : Nat)
  /-- HOME_CHANGE_COMPLETE (R229): The final pass, replay and completion signal of a home change. -/
  | homeChangeComplete (dom va : Nat)
  /-- SLOT_IDLE_UNMAP (R244): A hardware queue slot idle for 2 ms is unmapped. -/
  | slotIdleUnmap (hwSlot : Nat)
  /-- WORKGROUP_ADMISSION (R248): A workgroup is placed whole on a core with slots, blocks and window. -/
  | workgroupAdmission (launch core : Nat) (place : List Place)
  /-- QUANTUM_BOUNDARY (R256): At each 100 microsecond boundary the drover decides whether to pre-empt. -/
  | quantumBoundary
  /-- WORKGROUP_SAVE (R361): A workgroup stops, lets outstanding work complete and writes its frame. -/
  | workgroupSave (launch wg : Nat)
  /-- WORKGROUP_RESTORE (R362): A saved workgroup is read back from its frame onto its core. -/
  | workgroupRestore (launch wg : Nat) (place : List Place)
  /-- FAULT_RESUME_WRITE (R257): Resumes, fails or releases a held workgroup or copy named by a fault tag. -/
  | faultResumeWrite (port : Port) (value : Nat)
  /-- FAULT_RING_WRITE (R258): Sets the fault ring base, releasing fault entries held back. -/
  | faultRingWrite (port : Port) (value : Nat)
  /-- FAULT_ENTRY_DEFERRED_WRITE (R258): A held-back fault entry is written once ring space or a base exists. -/
  | faultEntryDeferredWrite
  /-- COPY_LAST_BYTE_LANDED (R194): A copy's last byte lands and its handle becomes full or free. -/
  | copyLastByteLanded (core handle : Nat)
  /-- COPY_PAGE_FAILURE (R200): A copy's page fails, ending the copy and setting the handle's fault bit. -/
  | copyPageFailure (core handle : Nat)
  /-- MCAST_DELIVERY (R202): Multicast data is delivered into a destination core once a workgroup and a free handle are there. -/
  | mcastDelivery (uid core : Nat)
  /-- FULL_EMPTY_REISSUE (R165): A request that found no deferred token is issued again later. -/
  | fullEmptyReissue (uid : Nat)
  /-- UPDATE_SHARER_ACK (R221): The last sharer acknowledgement completes an update-mode write. -/
  | updateSharerAck (pad base : Nat)
  /-- PADDOCK_LINE_EVICTION (R221): A line leaves its paddock; sharers drop copies and dirty data is written back. -/
  | paddockLineEviction (pad base : Nat)
  /-- PADDOCK_LINE_MOVE (R173): A line of a departing share moves as one step according to the paddock's mode. -/
  | paddockLineMove (pad base : Nat)
  /-- PADDOCK_SHARE_ARRIVAL (R174): An arriving core bank arrives once no resident window lies in it. -/
  | paddockShareArrival (pad share : Nat)
  /-- PADDOCK_RESIZE_COMPLETE (R175): All departing shares released and arriving shares arrived; status 0x00 reported. -/
  | paddockResizeComplete (pad : Nat)
  /-- AUTO_TICK (R225): Every 1,024 island clocks a core adds 1 to its pts under auto tick. -/
  | autoTick (core : Nat)
  /-- TILE_RELEASE_EFFECTIVE (R138): A freed tile becomes free or published once its issued matrix instructions complete. -/
  | tileReleaseEffective (core tile : Nat)
  /-- OPERATOR_FIRING (R297): An operator with all input heads and destination room takes inputs and appends its output. -/
  | operatorFiring (core lane : Nat)
  /-- SOURCE_START (R306): A source begins its command after the previous completes and any needed token. -/
  | sourceStart (core lane : Nat)
  /-- SOURCE_APPEND (R306): A returned element read is appended as a data entry, then the end marker. -/
  | sourceAppend (core lane : Nat)
  /-- SINK_TAKE (R307): A sink takes a queue entry and writes, skips or drops it. -/
  | sinkTake (core lane : Nat)
  /-- STREAM_COMMAND_COMPLETION (R308): A command's completion event writes status, sends a token and may trap. -/
  | streamCommandCompletion (core lane : Nat)
  /-- CONTROL_TOKEN_ARRIVAL (R303): A last-beat control token reaches its target lane and is counted. -/
  | controlTokenArrival (core lane : Nat)
  /-- SPATIAL_DRAIN_END (R364): The drain ends when nothing can fire or after 65,536 fabric clocks, and the spatial state is saved. -/
  | spatialDrainEnd (core : Nat)
  /-- SPATIAL_RESTORE (R367): A saved fabric is reloaded on a SIMT core with its recorded depths. -/
  | spatialRestore (launch wg : Nat) (place : List Place)
  /-- CFG_OWN_READ (R36): A read of CFG_OWN is an acquire attempt. -/
  | cfgOwnRead (port : Port)
  /-- CFG_OWN_TICK_DECISION (R36): At the end of a timebase tick pending acquire reads are decided and completed. -/
  | cfgOwnTickDecision
  /-- CFG_OWN_WRITE (R36): A write of zero by the owner releases configuration ownership. -/
  | cfgOwnWrite (port : Port) (value : Nat)
  /-- PORT_LINK_LOSS (R36): The owning port's link goes down or it undergoes function-level reset. -/
  | portLinkLoss (port : Port)
  /-- OWNERSHIP_LAPSE (R36): Ownership is released within 1 ms of the owning port's loss. -/
  | ownershipLapse
  /-- PWR_MODE_WRITE (R32): Sets the package speed mode and Narrow, discarding a reserved speed. -/
  | pwrModeWrite (port : Port) (value : Nat)
  /-- ISLAND_LIMIT_WRITE (R33): Sets the speed limit of 32 islands, leaving 0b11 fields unchanged. -/
  | islandLimitWrite (port : Port) (upper : Bool) (value : Nat)
  /-- CONFIG_REGISTER_WRITE (R21): Write to a management register without a row of its own, discarded if the port lacks ownership. -/
  | configRegisterWrite (port : Port) (offset value : Nat)
  /-- APERTURE_READ (R22): A port read through the device-memory aperture, translated under domain 0. -/
  | apertureRead (port : Port) (offset size : Nat)
  /-- APERTURE_WRITE (R22, R370): A port write through the device-memory aperture, translated under domain 0; its data may come with poison
  set. -/
  | apertureWrite (port : Port) (offset : Nat) (data : BusData)
  /-- TLB_INV_GO_WRITE (R335): Starts an invalidation of a domain's cached translations over a range. -/
  | tlbInvGoWrite (port : Port) (value : Nat)
  /-- TLB_INVALIDATION_DONE (R335): Accesses using dropped translations complete and TLB_INV_DONE increments. -/
  | tlbInvalidationDone (port : Port)
  /-- SET_DOMAIN (R328): Mailbox command 0x10 writes a domain descriptor. -/
  | setDomain (port : Port) (cmd : Nat)
  /-- TEAR_DOWN_DOMAIN (R331): Mailbox command 0x11 stops, withdraws, erases and unloads everything of a domain. -/
  | tearDownDomain (port : Port) (cmd : Nat)
  /-- ASSIGN_FRAMES (R337): Mailbox command 0x12 assigns granules in the frame owner map. -/
  | assignFrames (port : Port) (cmd : Nat)
  /-- LOAD_KEY (R338): Mailbox command 0x13 loads a memory-encryption key for a domain. -/
  | loadKey (port : Port) (cmd : Nat)
  /-- ERASE_KEY (R341): Mailbox command 0x14 erases a key. -/
  | eraseKey (port : Port) (cmd : Nat)
  /-- ATTEST (R345): Mailbox command 0x20 returns a signed attestation report. -/
  | attest (port : Port) (cmd : Nat)
  /-- STAGE_FIRMWARE (R343): Mailbox command 0x30 writes an image chunk to boot flash. -/
  | stageFirmware (port : Port) (cmd : Nat)
  /-- CHECK_STAGED_IMAGE (R344): Mailbox command 0x31 returns the state the staged image would reach. -/
  | checkStagedImage (port : Port) (cmd : Nat)
  /-- LOAD_CODE_OBJECT (R346): Mailbox command 0x40 checks and loads a code object for a domain. -/
  | loadCodeObject (port : Port) (cmd : Nat)
  /-- UNLOAD_CODE_OBJECT (R347): Mailbox command 0x41 marks an object retiring. -/
  | unloadCodeObject (port : Port) (cmd : Nat)
  /-- TRANSLATE_PORTABLE_OBJECT (R350): Mailbox command 0x42 loads a Frazon translation from the cache or via Utsum. -/
  | translatePortableObject (port : Port) (cmd : Nat)
  /-- SET_TRANSLATION_CACHE (R341): Mailbox command 0x43 sets the translation cache base and slot count. -/
  | setTranslationCache (port : Port) (cmd : Nat)
  /-- MBOX_UNKNOWN_COMMAND (R340): A mailbox command with an unknown code ends with status 0x81. -/
  | mboxUnknownCommand (port : Port) (cmd : Nat)
  /-- MODULE_RESET (R37): Module reset puts the device in its start-up state and starts firmware verification. -/
  | moduleReset
  /-- FIRMWARE_VERIFICATION_DONE (R342): The boot ROM finishes checking the image and sets FW_STATUS. -/
  | firmwareVerificationDone
  /-- THERMAL_STEP_DOWN (R26): An island above 100 °C for 1 ms drops one speed mode. -/
  | thermalStepDown (island : Nat)
  /-- THERMAL_STEP_UP (R26): An island below 90 °C for 10 ms rises one speed mode. -/
  | thermalStepUp (island : Nat)
  /-- THERMAL_STOP (R26): An island at Cool above 110 °C stops the module. -/
  | thermalStop (island : Nat)
  /-- ISLAND_CLOCK_SWITCH (R27): An island's effective speed mode change takes effect. -/
  | islandClockSwitch (island : Nat)
  /-- CXL_DEVICE_ENUMERATION (R20): A CXL memory port enumerates a device, disabling unsupported types. -/
  | cxlDeviceEnumeration (cxlPort devType : Nat)
  /-- WATCHDOG_BLOCKED_LIMIT (R378): Blocked time exceeds the limit and the workgroup takes watchdog. -/
  | watchdogBlockedLimit (launch wg : Nat)
  /-- WATCHDOG_RUN_LIMIT (R378): Run time exceeds the limit and the workgroup takes watchdog. -/
  | watchdogRunLimit (launch wg : Nat)
  /-- CORRECTED_ERROR (R373): A single-bit error is corrected and counted. -/
  | correctedError
  /-- UNCORRECTABLE_MEMORY_ERROR (R369): An uncorrectable error poisons the sector and writes an error ring entry. -/
  | uncorrectableMemoryError (loc : Nat) (bank : Option Nat) (tag : Bool)
  /-- UNCORRECTABLE_CORE_STATE_ERROR (R371): An uncorrectable error in core state ends its workgroup with poison. -/
  | uncorrectableCoreStateError (core slot unit : Nat)
  /-- AGENT_LOSS (R231): An agent fails holding the only modified copy, poisoning the line. -/
  | agentLoss (loc : Nat)
  /-- WRITE_ARRIVING_OVER_CXL (R370): A write arriving over CXL into device memory, for example a host writeback or a CXL.mem write on port B, takes a check value and poisons the sectors it writes when it carries poison. -/
  | writeArrivingOverCxl (pa : Nat) (data : List Byte) (poisoned : Bool)
  deriving DecidableEq, Repr

end Sys2Proof
end

