-- ==== Sys2Proof/Decode.lean ====
section
/-! DEFINITION. The decoder from words and bytes to instructions, and the encoder (R46 to R69 and each instruction's own
encoding table). A word whose fixed bits match no row is rejected by name; a field code that an instruction does not
assign is left in the instruction, whose meaning raises illegal-opcode for it (R55). -/

namespace Sys2Proof

/-- Why bytes are not an instruction of the table. -/
inductive DecodeError where
  /-- Fewer bytes than the instruction has. -/
  | truncated
  /-- A bit that the major fixes has another value (R55): illegal-opcode when executed. -/
  | fixedBits (major : Nat)
  deriving DecidableEq, Repr

/-- Majors 0x60 to 0x7E are long forms (R53, R54). -/
def isLongMajor (major : Nat) : Bool := decide (0x60 ≤ major) && decide (major ≤ 0x7E)

/-- The majors of R66 that no row assigns, and the permanently illegal 0x7F (R69). -/
def isReservedMajor (major : Nat) : Bool :=
  [0x1F, 0x27, 0x3E, 0x3F, 0x46, 0x47, 0x6E, 0x6F, 0x75, 0x76, 0x77, 0x78, 0x79, 0x7A, 0x7B, 0x7C, 0x7D, 0x7E,
    0x7F].contains major

/-- The displacement field of the X-layout as a signed number (R54). -/
def dispOf (disp : Nat) : Int := if disp < 1024 then disp else (disp : Int) - 2048

/-- A field of n bits read as a signed number. -/
def signedField (n x : Nat) : Int := if x < 2 ^ (n - 1) then x else (x : Int) - 2 ^ n

/-- Majors 0x00 to 0x0F. -/
def decodeA (major w : Nat) : Option Instr :=
  match major with
  | 0 => some (.iadd (bits w 24 22) (bits w 21 16) (bits w 15 10) (bits w 9 4) (bits w 3 2) (bits w 1 0))
  | 1 => some (.isub (bits w 24 22) (bits w 21 16) (bits w 15 10) (bits w 9 4) (bits w 3 2) (bits w 1 0))
  | 2 => some (.imul (bits w 24 22) (bits w 21 16) (bits w 15 10) (bits w 9 4) (bits w 3 2) (bits w 1 0))
  | 3 => some (.andB (bits w 24 22) (bits w 21 16) (bits w 15 10) (bits w 9 4) (bits w 3 2) (bits w 1 0))
  | 4 => some (.orB (bits w 24 22) (bits w 21 16) (bits w 15 10) (bits w 9 4) (bits w 3 2) (bits w 1 0))
  | 5 => some (.xorB (bits w 24 22) (bits w 21 16) (bits w 15 10) (bits w 9 4) (bits w 3 2) (bits w 1 0))
  | 6 => some (.shl (bits w 24 22) (bits w 21 16) (bits w 15 10) (bits w 9 4) (bits w 3 2) (bits w 1 0))
  | 7 => some (.shr (bits w 24 22) (bits w 21 16) (bits w 15 10) (bits w 9 4) (bits w 3 2) (bits w 1 0))
  | 8 => if bits w 1 1 = 0 then some (.imin (bits w 24 22) (bits w 21 16) (bits w 15 10) (bits w 9 4) (bits w 3 2) (bits w 0 0)) else if bits w 1 1 = 1 then some (.imax (bits w 24 22) (bits w 21 16) (bits w 15 10) (bits w 9 4) (bits w 3 2) (bits w 0 0)) else none
  | 9 => some (.iabsd (bits w 24 22) (bits w 21 16) (bits w 15 10) (bits w 9 4) (bits w 3 2) (bits w 1 0))
  | 10 => some (.bitcount (bits w 24 22) (bits w 21 16) (bits w 15 10) (bits w 9 4) (bits w 3 2) (bits w 1 0))
  | 11 => some (.bfe (bits w 24 22) (bits w 21 16) (bits w 15 10) (bits w 9 4) (bits w 3 2) (bits w 1 0))
  | 12 => if bits w 9 4 = 0 ∧ bits w 0 0 = 0 then some (.mov (bits w 24 22) (bits w 21 16) (bits w 15 10) (bits w 3 2) (bits w 1 1)) else none
  | 13 => if bits w 1 0 = 0 then some (.sel (bits w 24 22) (bits w 21 16) (bits w 15 10) (bits w 9 4) (bits w 3 2)) else none
  | 14 => some (.max2sel (bits w 24 22) (bits w 21 16) (bits w 15 10) (bits w 9 4) (bits w 3 2) (bits w 1 1) (bits w 0 0))
  | 15 => if bits w 9 4 = 0 ∧ bits w 2 1 = 0 then some (.sreg (bits w 24 22) (bits w 21 16) (bits w 15 10) (bits w 3 3) (bits w 0 0)) else none
  | _ => none

/-- Majors 0x10 to 0x2F. -/
def decodeB (major w : Nat) : Option Instr :=
  match major with
  | 16 => some (.fadd (bits w 24 22) (bits w 21 16) (bits w 15 10) (bits w 9 4) (bits w 3 2) (bits w 1 0))
  | 17 => some (.fsub (bits w 24 22) (bits w 21 16) (bits w 15 10) (bits w 9 4) (bits w 3 2) (bits w 1 0))
  | 18 => some (.fmul (bits w 24 22) (bits w 21 16) (bits w 15 10) (bits w 9 4) (bits w 3 2) (bits w 1 0))
  | 19 => some (.fmin (bits w 24 22) (bits w 21 16) (bits w 15 10) (bits w 9 4) (bits w 3 2) (bits w 1 0))
  | 20 => some (.fmax (bits w 24 22) (bits w 21 16) (bits w 15 10) (bits w 9 4) (bits w 3 2) (bits w 1 0))
  | 21 => some (.fcmp (bits w 24 22) (bits w 21 19) (bits w 18 16) (bits w 15 10) (bits w 9 4) (bits w 3 2) (bits w 1 0))
  | 22 => if bits w 9 5 = 0 then some (.frcp (bits w 24 22) (bits w 21 16) (bits w 15 10) (bits w 4 4) (bits w 3 2) (bits w 1 0)) else none
  | 23 => if bits w 9 5 = 0 then some (.frsq (bits w 24 22) (bits w 21 16) (bits w 15 10) (bits w 4 4) (bits w 3 2) (bits w 1 0)) else none
  | 24 => if bits w 9 5 = 0 then some (.fex2 (bits w 24 22) (bits w 21 16) (bits w 15 10) (bits w 4 4) (bits w 3 2) (bits w 1 0)) else none
  | 25 => if bits w 9 5 = 0 then some (.flg2 (bits w 24 22) (bits w 21 16) (bits w 15 10) (bits w 4 4) (bits w 3 2) (bits w 1 0)) else none
  | 26 => if bits w 9 5 = 0 then some (.fsin (bits w 24 22) (bits w 21 16) (bits w 15 10) (bits w 4 4) (bits w 3 2) (bits w 1 0)) else none
  | 27 => if bits w 9 5 = 0 then some (.fcos (bits w 24 22) (bits w 21 16) (bits w 15 10) (bits w 4 4) (bits w 3 2) (bits w 1 0)) else none
  | 28 => if bits w 9 4 = 0 then some (.fclass (bits w 24 22) (bits w 21 16) (bits w 15 10) (bits w 3 2) (bits w 1 0)) else none
  | 29 => some (.fscale (bits w 24 22) (bits w 21 16) (bits w 15 10) (bits w 9 4) (bits w 3 2) (bits w 1 0))
  | 30 => if bits w 9 8 = 0 then some (.fround (bits w 24 22) (bits w 21 16) (bits w 15 10) (bits w 7 7) (bits w 6 4) (bits w 3 2) (bits w 1 0)) else none
  | 32 => if bits w 5 4 = 0 ∧ bits w 0 0 = 0 then some (.cvt (bits w 24 22) (bits w 21 16) (bits w 15 10) (bits w 9 7) (bits w 6 6) (bits w 3 1)) else none
  | 33 => if bits w 5 4 = 0 ∧ bits w 0 0 = 0 then some (.cvti (bits w 24 22) (bits w 21 16) (bits w 15 10) (bits w 9 6) (bits w 3 1)) else none
  | 34 => some (.pack (bits w 24 22) (bits w 21 16) (bits w 15 10) (bits w 9 4) (bits w 3 2) (bits w 1 0))
  | 35 => if bits w 5 4 = 0 then some (.unpack (bits w 24 22) (bits w 21 16) (bits w 15 10) (bits w 9 6) (bits w 3 3) (bits w 2 0)) else none
  | 36 => if bits w 9 7 = 0 ∧ bits w 2 2 = 0 then some (.cbdec (bits w 24 22) (bits w 21 16) (bits w 15 10) (bits w 6 4) (bits w 3 3) (bits w 1 0)) else none
  | 37 => if bits w 21 19 = 0 ∧ bits w 5 0 = 0 then some (.cbload (bits w 24 22) (bits w 18 16) (bits w 15 10) (bits w 9 6)) else none
  | 38 => if bits w 9 2 = 0 then some (.mxscale (bits w 24 22) (bits w 21 16) (bits w 15 10) (bits w 1 0)) else none
  | 40 => some (.icmp (bits w 24 22) (bits w 21 19) (bits w 18 16) (bits w 15 10) (bits w 9 4) (bits w 3 2) (bits w 1 0))
  | 41 => if bits w 21 19 = 0 ∧ bits w 15 13 = 0 ∧ bits w 9 7 = 0 ∧ bits w 3 2 = 0 then some (.pop (bits w 24 22) (bits w 18 16) (bits w 12 10) (bits w 6 4) (bits w 1 0)) else none
  | 42 => if bits w 15 13 = 0 ∧ bits w 9 4 = 0 ∧ bits w 2 0 = 0 then some (.ballot (bits w 24 22) (bits w 21 16) (bits w 12 10) (bits w 3 3)) else none
  | 43 => if bits w 21 19 = 0 ∧ bits w 15 13 = 0 ∧ bits w 9 2 = 0 then some (.agree (bits w 24 22) (bits w 18 16) (bits w 12 10) (bits w 1 0)) else none
  | 44 => if bits w 9 2 = 0 then some (.matchK (bits w 24 22) (bits w 21 16) (bits w 15 10) (bits w 1 0)) else none
  | 45 => some (.xpick (bits w 24 22) (bits w 21 16) (bits w 15 10) (bits w 9 4) (bits w 3 2) (bits w 1 0))
  | 46 => if bits w 9 5 = 0 then some (.xfold (bits w 24 22) (bits w 21 16) (bits w 15 10) (bits w 4 4) (bits w 3 3) (bits w 2 0)) else none
  | 47 => if bits w 21 19 = 0 ∧ bits w 9 1 = 0 then some (.lead (bits w 24 22) (bits w 18 16) (bits w 15 10) (bits w 0 0)) else none
  | _ => none

/-- Majors 0x30 to 0x3D. -/
def decodeC (major w : Nat) : Option Instr :=
  match major with
  | 48 => some (.ld (bits w 24 22) (bits w 21 16) (bits w 15 10) (bits w 9 6) (bits w 5 5) (bits w 4 4) (bits w 3 1) (bits w 0 0))
  | 49 => some (.st (bits w 24 22) (bits w 21 16) (bits w 15 10) (bits w 9 6) (bits w 5 5) (bits w 4 4) (bits w 3 1) (bits w 0 0))
  | 50 => some (.ldsp (bits w 24 22) (bits w 21 16) (bits w 15 10) (bits w 9 6) (bits w 5 5) (bits w 4 4) (bits w 3 1) (bits w 0 0))
  | 51 => some (.stsp (bits w 24 22) (bits w 21 16) (bits w 15 10) (bits w 9 6) (bits w 5 5) (bits w 4 4) (bits w 3 1) (bits w 0 0))
  | 52 => some (.atom (bits w 24 22) (bits w 21 16) (bits w 15 10) (bits w 9 6) (bits w 5 5) (bits w 4 4) (bits w 3 0))
  | 53 => if bits w 4 4 = 0 then some (.red (bits w 24 22) (bits w 21 16) (bits w 15 10) (bits w 9 6) (bits w 5 5) (bits w 3 0)) else none
  | 54 => some (.atomsp (bits w 24 22) (bits w 21 16) (bits w 15 10) (bits w 9 6) (bits w 5 5) (bits w 4 4) (bits w 3 0))
  | 55 => if bits w 3 1 = 4 then some (.ldfe (bits w 24 22) (bits w 21 16) (bits w 15 10) (bits w 9 6) (bits w 5 5) (bits w 4 4) (bits w 0 0)) else none
  | 56 => if bits w 3 1 = 4 then some (.stfe (bits w 24 22) (bits w 21 16) (bits w 15 10) (bits w 9 6) (bits w 5 5) (bits w 4 4) (bits w 0 0)) else none
  | 57 => if bits w 24 7 = 229376 ∧ bits w 1 0 = 0 then some (.fence (bits w 6 4) (bits w 3 2)) else none
  | 58 => if bits w 21 20 = 0 ∧ bits w 4 0 = 0 then some (.ldb (bits w 24 22) (bits w 19 16) (bits w 15 10) (bits w 9 6) (bits w 5 5)) else none
  | 59 => if bits w 4 4 = 0 ∧ bits w 1 0 = 0 then some (.cache (bits w 24 22) (bits w 21 16) (bits w 15 10) (bits w 9 6) (bits w 5 5) (bits w 3 2)) else none
  | 60 => if bits w 4 4 = 0 ∧ bits w 1 0 = 0 then some (.prefetch (bits w 24 22) (bits w 21 16) (bits w 15 10) (bits w 9 6) (bits w 5 5) (bits w 3 2)) else none
  | 61 => if bits w 21 16 = 0 ∧ bits w 9 1 = 0 then some (.tick (bits w 24 22) (bits w 15 10) (bits w 0 0)) else none
  | _ => none

/-- Majors 0x40 to 0x4F. -/
def decodeD (major w : Nat) : Option Instr :=
  match major with
  | 64 => if bits w 21 18 = 0 ∧ bits w 15 0 = 0 then some (.accTake (bits w 24 22) (bits w 17 16)) else none
  | 65 => if bits w 21 18 = 0 ∧ bits w 15 0 = 0 then some (.accFree (bits w 24 22) (bits w 17 16)) else none
  | 66 => if bits w 21 18 = 0 ∧ bits w 15 0 = 0 then some (.accZero (bits w 24 22) (bits w 17 16)) else none
  | 67 => if bits w 15 12 = 0 ∧ bits w 9 6 = 0 then some (.accRd (bits w 24 22) (bits w 21 16) (bits w 11 10) (bits w 5 5) (bits w 4 0)) else none
  | 68 => if bits w 21 18 = 0 ∧ bits w 9 0 = 0 then some (.region (bits w 24 22) (bits w 17 16) (bits w 15 10)) else none
  | 69 => some (.compress (bits w 24 22) (bits w 21 16) (bits w 15 10) (bits w 9 6) (bits w 5 5) (bits w 4 4) (bits w 3 2) (bits w 1 0))
  | 72 => if bits w 4 4 = 0 then some (.cp (bits w 24 22) (bits w 21 16) (bits w 15 10) (bits w 9 6) (bits w 5 5) (bits w 3 0)) else if bits w 4 4 = 1 then some (.cpColl (bits w 24 22) (bits w 21 16) (bits w 15 10) (bits w 9 6) (bits w 5 5) (bits w 3 0)) else none
  | 73 => if bits w 15 1 = 0 then some (.cpwait (bits w 24 22) (bits w 21 16) (bits w 0 0)) else none
  | 74 => if bits w 15 0 = 0 then some (.cpfree (bits w 24 22) (bits w 21 16)) else none
  | 75 => some (.gather (bits w 24 22) (bits w 21 16) (bits w 15 10) (bits w 9 6) (bits w 5 5) (bits w 4 4) (bits w 3 0))
  | 76 => some (.scatter (bits w 24 22) (bits w 21 16) (bits w 15 10) (bits w 9 6) (bits w 5 5) (bits w 4 4) (bits w 3 0))
  | 77 => if bits w 4 4 = 0 then some (.mcast (bits w 24 22) (bits w 21 16) (bits w 15 10) (bits w 9 6) (bits w 5 5) (bits w 3 0)) else none
  | 78 => if bits w 4 4 = 0 then some (.coll (bits w 24 22) (bits w 21 16) (bits w 15 10) (bits w 9 6) (bits w 5 5) (bits w 3 0)) else none
  | 79 => if bits w 9 0 = 0 then some (.hstat (bits w 24 22) (bits w 21 16) (bits w 15 10)) else none
  | _ => none

/-- Majors 0x50 to 0x5F. -/
def decodeE (major w : Nat) : Option Instr :=
  match major with
  | 80 => if bits w 0 0 = 0 then some (.bra (bits w 24 22) (bits w 21 4) (bits w 3 2) (bits w 1 1)) else none
  | 81 => if bits w 21 16 = 0 then some (.brx (bits w 24 22) (bits w 15 10) (bits w 9 4) (bits w 3 2) (bits w 1 1) (bits w 0 0)) else none
  | 82 => if bits w 3 2 = 0 ∧ bits w 0 0 = 0 then some (.callI (bits w 24 22) (bits w 21 16) (bits w 15 4) (bits w 1 1)) else none
  | 83 => if bits w 3 2 = 0 then some (.callx (bits w 24 22) (bits w 21 16) (bits w 15 10) (bits w 9 4) (bits w 1 1) (bits w 0 0)) else none
  | 84 => if bits w 21 16 = 0 ∧ bits w 9 2 = 0 ∧ bits w 0 0 = 0 then some (.ret (bits w 24 22) (bits w 15 10) (bits w 1 1)) else none
  | 85 => if bits w 21 2 = 0 ∧ bits w 0 0 = 0 then some (.exitI (bits w 24 22) (bits w 1 1)) else none
  | 86 => if bits w 21 10 = 0 ∧ bits w 5 0 = 0 then some (.fabEnter (bits w 24 22) (bits w 9 6)) else none
  | 87 => if bits w 21 0 = 0 then some (.fabLeave (bits w 24 22)) else none
  | 88 => if bits w 24 10 = 28672 ∧ bits w 3 0 = 0 then some (.bar (bits w 9 4)) else none
  | 89 => if bits w 21 0 = 0 then some (.yield (bits w 24 22)) else none
  | 90 => if bits w 21 16 = 0 ∧ bits w 3 1 = 0 then some (.nap (bits w 24 22) (bits w 15 4) (bits w 0 0)) else none
  | 91 => if bits w 21 16 = 0 ∧ bits w 3 0 = 0 then some (.trapI (bits w 24 22) (bits w 15 4)) else none
  | 92 => if bits w 5 0 = 0 then some (.icinv (bits w 24 22) (bits w 21 16) (bits w 15 10) (bits w 9 6)) else none
  | 93 => if bits w 24 0 = 29360128 then some (.fetchb) else none
  | 94 => if bits w 9 6 = 0 ∧ bits w 3 0 = 0 then some (.strm (bits w 24 22) (bits w 21 16) (bits w 15 10) (bits w 5 5) (bits w 4 4)) else none
  | 95 => if bits w 5 0 = 1 then some (.sysopHarvest (bits w 24 22) (bits w 21 16) (bits w 15 10) (bits w 9 6)) else if bits w 5 0 = 2 then some (.sysopUnpoison (bits w 24 22) (bits w 21 16) (bits w 15 10) (bits w 9 6)) else none
  | _ => none

/-- The long forms, from their two words (R54). -/
def decodeLong (major w x : Nat) : Option Instr :=
  match major with
  | 96 => if bits x 25 21 = 0 ∧ bits x 16 0 = 0 then some (.imad (bits w 24 22) (bits w 21 16) (bits w 15 10) (bits w 9 4) (bits w 3 2) (bits w 1 0) (bits x 31 26) (bits x 20 17)) else none
  | 97 => if bits x 25 21 = 0 ∧ bits x 16 0 = 0 then some (.bfi (bits w 24 22) (bits w 21 16) (bits w 15 10) (bits w 9 4) (bits w 3 2) (bits w 1 0) (bits x 31 26) (bits x 20 17)) else none
  | 98 => if bits x 25 21 = 0 ∧ bits x 16 0 = 0 then some (.ffma (bits w 24 22) (bits w 21 16) (bits w 15 10) (bits w 9 4) (bits w 3 2) (bits w 1 0) (bits x 31 26) (bits x 20 17)) else none
  | 99 => if bits w 15 4 = 0 then some (.movI (bits w 24 22) (bits w 21 16) (bits w 3 2) (bits w 1 0) (bits x 31 0)) else none
  | 100 => if bits w 9 4 = 0 then some (.iaddI (bits w 24 22) (bits w 21 16) (bits w 15 10) (bits w 3 2) (bits w 1 0) (bits x 31 0)) else none
  | 112 => if bits w 9 4 = 0 then some (.fcmpI (bits w 24 22) (bits w 21 19) (bits w 18 16) (bits w 15 10) (bits w 3 2) (bits w 1 0) (bits x 31 0)) else none
  | 113 => if bits w 9 4 = 0 then some (.icmpI (bits w 24 22) (bits w 21 19) (bits w 18 16) (bits w 15 10) (bits w 3 2) (bits w 1 0) (bits x 31 0)) else none
  | 101 => if bits w 5 0 = 0 ∧ bits x 31 26 = 0 ∧ bits x 20 17 = 0 then some (.ldo (bits w 24 22) (bits w 21 16) (bits w 15 10) (bits w 9 6) (bits x 25 24) (bits x 23 21) (bits x 16 14) (bits x 13 13) (bits x 12 12) (bits x 11 11) (bits x 10 0)) else none
  | 102 => if bits w 5 0 = 0 ∧ bits x 31 26 = 0 ∧ bits x 20 17 = 0 then some (.sto (bits w 24 22) (bits w 21 16) (bits w 15 10) (bits w 9 6) (bits x 25 24) (bits x 23 21) (bits x 16 14) (bits x 13 13) (bits x 12 12) (bits x 11 11) (bits x 10 0)) else none
  | 103 => if bits w 4 4 = 0 ∧ bits x 20 17 = 0 then some (.atomo (bits w 24 22) (bits w 21 16) (bits w 15 10) (bits w 9 6) (bits w 5 5) (bits w 3 0) (bits x 31 26) (bits x 25 24) (bits x 23 21) (bits x 16 14) (bits x 13 13) (bits x 12 12) (bits x 11 11) (bits x 10 0)) else none
  | 108 => if bits w 21 16 = 0 ∧ bits w 5 4 = 0 ∧ bits x 20 17 = 0 then some (.redo (bits w 24 22) (bits w 15 10) (bits w 9 6) (bits w 3 0) (bits x 31 26) (bits x 25 24) (bits x 23 21) (bits x 16 14) (bits x 13 13) (bits x 12 12) (bits x 11 11) (bits x 10 0)) else none
  | 104 => if bits w 21 18 = 0 ∧ bits w 2 1 = 0 ∧ bits x 25 21 = 0 ∧ bits x 16 14 = 0 ∧ bits x 12 0 = 0 then some (.mma (bits w 24 22) (bits w 17 16) (bits w 15 10) (bits w 9 4) (bits w 3 3) (bits w 0 0) (bits x 31 26) (bits x 20 17) (bits x 13 13)) else none
  | 105 => if bits w 21 18 = 0 ∧ bits x 25 21 = 0 ∧ bits x 16 14 = 0 ∧ bits x 12 0 = 0 then some (.mmaSp (bits w 24 22) (bits w 17 16) (bits w 15 10) (bits w 9 4) (bits w 3 3) (bits w 2 1) (bits w 0 0) (bits x 31 26) (bits x 20 17) (bits x 13 13)) else none
  | 106 => if bits w 21 18 = 0 ∧ bits x 25 21 = 0 ∧ bits x 16 14 = 0 ∧ bits x 12 0 = 0 then some (.mmaDec (bits w 24 22) (bits w 17 16) (bits w 15 10) (bits w 9 4) (bits w 3 3) (bits w 2 1) (bits w 0 0) (bits x 31 26) (bits x 20 20) (bits x 19 17) (bits x 13 13)) else none
  | 107 => if bits x 20 14 = 0 then some (.cpx (bits w 24 22) (bits w 21 16) (bits w 15 10) (bits w 9 6) (bits w 5 4) (bits w 3 0) (bits x 31 26) (bits x 25 24) (bits x 23 21) (bits x 13 13) (bits x 12 12) (bits x 11 11) (bits x 10 0)) else none
  | 109 => if bits w 21 16 = 0 ∧ bits w 5 0 = 0 ∧ bits x 25 14 = 0 ∧ bits x 12 0 = 0 then some (.paddock (bits w 24 22) (bits w 15 10) (bits w 9 6) (bits x 31 26) (bits x 13 13)) else none
  | 114 => if bits w 21 4 = 0 ∧ bits w 0 0 = 0 then some (.braL (bits w 24 22) (bits w 3 2) (bits w 1 1) (bits x 31 0)) else none
  | 115 => if bits w 15 2 = 0 ∧ bits w 0 0 = 0 then some (.callL (bits w 24 22) (bits w 21 16) (bits w 1 1) (bits x 31 0)) else none
  | 116 => if bits w 15 5 = 0 ∧ bits w 3 0 = 0 then some (.strmL (bits w 24 22) (bits w 21 16) (bits w 4 4) (bits x 31 14) (bits x 13 13) (bits x 12 0)) else none
  | _ => none

/-- The instruction of a first word w and, for a long form, a second word x (R53, R54, R69). -/
def decodeWords (w x : Nat) : Except DecodeError Instr :=
  let major := bits w 31 25
  if isReservedMajor major then .ok (.reservedMajor w (if isLongMajor major then x else 0))
  else
    match (if major < 0x10 then decodeA major w
      else if major < 0x30 then decodeB major w
      else if major < 0x40 then decodeC major w
      else if major < 0x50 then decodeD major w
      else if major < 0x60 then decodeE major w
      else decodeLong major w x) with
    | some i => .ok i
    | none => .error (.fixedBits major)

/-- Four bytes as a little-endian word (R4). -/
def wordOfBytes (b0 b1 b2 b3 : Byte) : Nat := b0.toNat + 256 * b1.toNat + 65536 * b2.toNat + 16777216 * b3.toNat

/-- The instruction at the head of a list of bytes, and the bytes after it (R4, R46). -/
def decode : List Byte → Except DecodeError (Instr × List Byte)
  | b0 :: b1 :: b2 :: b3 :: rest =>
    let w := wordOfBytes b0 b1 b2 b3
    if isLongMajor (bits w 31 25) then
      match rest with
      | c0 :: c1 :: c2 :: c3 :: rest2 =>
        match decodeWords w (wordOfBytes c0 c1 c2 c3) with
        | .ok i => .ok (i, rest2)
        | .error e => .error e
      | _ => .error .truncated
    else
      match decodeWords w 0 with
      | .ok i => .ok (i, rest)
      | .error e => .error e
  | _ => .error .truncated

/-- The four bytes of a word, lowest address first (R4). -/
def bytesOfWord (w : Nat) : List Byte :=
  [BitVec.ofNat 8 w, BitVec.ofNat 8 (w / 256), BitVec.ofNat 8 (w / 65536), BitVec.ofNat 8 (w / 16777216)]

/-- The words of an instruction, from the encoding tables; a device event has none. -/
def encode : Instr → List Nat
  | .iadd g d a b c t => [g * 4194304 + d * 65536 + a * 1024 + b * 16 + c * 4 + t]
  | .isub g d a b c t => [33554432 + g * 4194304 + d * 65536 + a * 1024 + b * 16 + c * 4 + t]
  | .imul g d a b c t => [67108864 + g * 4194304 + d * 65536 + a * 1024 + b * 16 + c * 4 + t]
  | .andB g d a b c t => [100663296 + g * 4194304 + d * 65536 + a * 1024 + b * 16 + c * 4 + t]
  | .orB g d a b c t => [134217728 + g * 4194304 + d * 65536 + a * 1024 + b * 16 + c * 4 + t]
  | .xorB g d a b c t => [167772160 + g * 4194304 + d * 65536 + a * 1024 + b * 16 + c * 4 + t]
  | .shl g d a b c t => [201326592 + g * 4194304 + d * 65536 + a * 1024 + b * 16 + c * 4 + t]
  | .shr g d a b c t => [234881024 + g * 4194304 + d * 65536 + a * 1024 + b * 16 + c * 4 + t]
  | .imin g d a b c t => [268435456 + g * 4194304 + d * 65536 + a * 1024 + b * 16 + c * 4 + t]
  | .imax g d a b c t => [268435458 + g * 4194304 + d * 65536 + a * 1024 + b * 16 + c * 4 + t]
  | .iabsd g d a b c t => [301989888 + g * 4194304 + d * 65536 + a * 1024 + b * 16 + c * 4 + t]
  | .bitcount g d a b c t => [335544320 + g * 4194304 + d * 65536 + a * 1024 + b * 16 + c * 4 + t]
  | .bfe g d a b c t => [369098752 + g * 4194304 + d * 65536 + a * 1024 + b * 16 + c * 4 + t]
  | .mov g d a f n => [402653184 + g * 4194304 + d * 65536 + a * 1024 + f * 4 + n * 2]
  | .sel p d a b c => [436207616 + p * 4194304 + d * 65536 + a * 1024 + b * 16 + c * 4]
  | .max2sel g d a b q t u => [469762048 + g * 4194304 + d * 65536 + a * 1024 + b * 16 + q * 4 + t * 2 + u]
  | .sreg g d sx u c => [503316480 + g * 4194304 + d * 65536 + sx * 1024 + u * 8 + c]
  | .fadd g d a b c t => [536870912 + g * 4194304 + d * 65536 + a * 1024 + b * 16 + c * 4 + t]
  | .fsub g d a b c t => [570425344 + g * 4194304 + d * 65536 + a * 1024 + b * 16 + c * 4 + t]
  | .fmul g d a b c t => [603979776 + g * 4194304 + d * 65536 + a * 1024 + b * 16 + c * 4 + t]
  | .fmin g d a b c t => [637534208 + g * 4194304 + d * 65536 + a * 1024 + b * 16 + c * 4 + t]
  | .fmax g d a b c t => [671088640 + g * 4194304 + d * 65536 + a * 1024 + b * 16 + c * 4 + t]
  | .fcmp g k p a b c t => [704643072 + g * 4194304 + k * 524288 + p * 65536 + a * 1024 + b * 16 + c * 4 + t]
  | .frcp g d a f c t => [738197504 + g * 4194304 + d * 65536 + a * 1024 + f * 16 + c * 4 + t]
  | .frsq g d a f c t => [771751936 + g * 4194304 + d * 65536 + a * 1024 + f * 16 + c * 4 + t]
  | .fex2 g d a f c t => [805306368 + g * 4194304 + d * 65536 + a * 1024 + f * 16 + c * 4 + t]
  | .flg2 g d a f c t => [838860800 + g * 4194304 + d * 65536 + a * 1024 + f * 16 + c * 4 + t]
  | .fsin g d a f c t => [872415232 + g * 4194304 + d * 65536 + a * 1024 + f * 16 + c * 4 + t]
  | .fcos g d a f c t => [905969664 + g * 4194304 + d * 65536 + a * 1024 + f * 16 + c * 4 + t]
  | .fclass g d a c t => [939524096 + g * 4194304 + d * 65536 + a * 1024 + c * 4 + t]
  | .fscale g d a b c t => [973078528 + g * 4194304 + d * 65536 + a * 1024 + b * 16 + c * 4 + t]
  | .fround g d a f r c t => [1006632960 + g * 4194304 + d * 65536 + a * 1024 + f * 128 + r * 16 + c * 4 + t]
  | .cvt g d a f sx r => [1073741824 + g * 4194304 + d * 65536 + a * 1024 + f * 128 + sx * 64 + r * 2]
  | .cvti g d a f r => [1107296256 + g * 4194304 + d * 65536 + a * 1024 + f * 64 + r * 2]
  | .pack g d a b c t => [1140850688 + g * 4194304 + d * 65536 + a * 1024 + b * 16 + c * 4 + t]
  | .unpack g d a t u ix => [1174405120 + g * 4194304 + d * 65536 + a * 1024 + t * 64 + u * 8 + ix]
  | .cbdec g d a sx u ix => [1207959552 + g * 4194304 + d * 65536 + a * 1024 + sx * 16 + u * 8 + ix]
  | .cbload g sx r b => [1241513984 + g * 4194304 + sx * 65536 + r * 1024 + b * 64]
  | .mxscale g d a e => [1275068416 + g * 4194304 + d * 65536 + a * 1024 + e]
  | .icmp g k p a b c t => [1342177280 + g * 4194304 + k * 524288 + p * 65536 + a * 1024 + b * 16 + c * 4 + t]
  | .pop g d a b o => [1375731712 + g * 4194304 + d * 65536 + a * 1024 + b * 16 + o]
  | .ballot g d p u => [1409286144 + g * 4194304 + d * 65536 + p * 1024 + u * 8]
  | .agree g d a t => [1442840576 + g * 4194304 + d * 65536 + a * 1024 + t]
  | .matchK g d a w => [1476395008 + g * 4194304 + d * 65536 + a * 1024 + w]
  | .xpick g d a b sx m => [1509949440 + g * 4194304 + d * 65536 + a * 1024 + b * 16 + sx * 4 + m]
  | .xfold g d a t u o => [1543503872 + g * 4194304 + d * 65536 + a * 1024 + t * 16 + u * 8 + o]
  | .lead g p a m => [1577058304 + g * 4194304 + p * 65536 + a * 1024 + m]
  | .ld g d a r f sx z c => [1610612736 + g * 4194304 + d * 65536 + a * 1024 + r * 64 + f * 32 + sx * 16 + z * 2 + c]
  | .st g d a r f sx z c => [1644167168 + g * 4194304 + d * 65536 + a * 1024 + r * 64 + f * 32 + sx * 16 + z * 2 + c]
  | .ldsp g d a r f sx z c => [1677721600 + g * 4194304 + d * 65536 + a * 1024 + r * 64 + f * 32 + sx * 16 + z * 2 + c]
  | .stsp g d a r f sx z c => [1711276032 + g * 4194304 + d * 65536 + a * 1024 + r * 64 + f * 32 + sx * 16 + z * 2 + c]
  | .atom g d a r f n o => [1744830464 + g * 4194304 + d * 65536 + a * 1024 + r * 64 + f * 32 + n * 16 + o]
  | .red g d a r f o => [1778384896 + g * 4194304 + d * 65536 + a * 1024 + r * 64 + f * 32 + o]
  | .atomsp g d a r f n o => [1811939328 + g * 4194304 + d * 65536 + a * 1024 + r * 64 + f * 32 + n * 16 + o]
  | .ldfe g d a r f t c => [1845493768 + g * 4194304 + d * 65536 + a * 1024 + r * 64 + f * 32 + t * 16 + c]
  | .stfe g d a r f t c => [1879048200 + g * 4194304 + d * 65536 + a * 1024 + r * 64 + f * 32 + t * 16 + c]
  | .fence sx o => [1941962752 + sx * 16 + o * 4]
  | .ldb g d sx r f => [1946157056 + g * 4194304 + d * 65536 + sx * 1024 + r * 64 + f * 32]
  | .cache g n sx r f o => [1979711488 + g * 4194304 + n * 65536 + sx * 1024 + r * 64 + f * 32 + o * 4]
  | .prefetch g n sx r f o => [2013265920 + g * 4194304 + n * 65536 + sx * 1024 + r * 64 + f * 32 + o * 4]
  | .tick g a u => [2046820352 + g * 4194304 + a * 1024 + u]
  | .accTake g t => [2147483648 + g * 4194304 + t * 65536]
  | .accFree g t => [2181038080 + g * 4194304 + t * 65536]
  | .accZero g t => [2214592512 + g * 4194304 + t * 65536]
  | .accRd g d t f c => [2248146944 + g * 4194304 + d * 65536 + t * 1024 + f * 32 + c]
  | .region g t sx => [2281701376 + g * 4194304 + t * 65536 + sx * 1024]
  | .compress g d a m k mlo p x => [2315255808 + g * 4194304 + d * 65536 + a * 1024 + m * 64 + k * 32 + mlo * 16 + p * 4 + x]
  | .cp g h sx m f p => [2415919104 + g * 4194304 + h * 65536 + sx * 1024 + m * 64 + f * 32 + p]
  | .cpColl g h sx m f p => [2415919120 + g * 4194304 + h * 65536 + sx * 1024 + m * 64 + f * 32 + p]
  | .cpwait g h w => [2449473536 + g * 4194304 + h * 65536 + w]
  | .cpfree g h => [2483027968 + g * 4194304 + h * 65536]
  | .gather g h a m f c p => [2516582400 + g * 4194304 + h * 65536 + a * 1024 + m * 64 + f * 32 + c * 16 + p]
  | .scatter g h a m f c p => [2550136832 + g * 4194304 + h * 65536 + a * 1024 + m * 64 + f * 32 + c * 16 + p]
  | .mcast g h sx m f p => [2583691264 + g * 4194304 + h * 65536 + sx * 1024 + m * 64 + f * 32 + p]
  | .coll g h sx p f o => [2617245696 + g * 4194304 + h * 65536 + sx * 1024 + p * 64 + f * 32 + o]
  | .hstat g d h => [2650800128 + g * 4194304 + d * 65536 + h * 1024]
  | .bra g o h n => [2684354560 + g * 4194304 + o * 16 + h * 4 + n * 2]
  | .brx g ix sx h n u => [2717908992 + g * 4194304 + ix * 1024 + sx * 16 + h * 4 + n * 2 + u]
  | .callI g l o n => [2751463424 + g * 4194304 + l * 65536 + o * 16 + n * 2]
  | .callx g l ix sx n u => [2785017856 + g * 4194304 + l * 65536 + ix * 1024 + sx * 16 + n * 2 + u]
  | .ret g l n => [2818572288 + g * 4194304 + l * 1024 + n * 2]
  | .exitI g n => [2852126720 + g * 4194304 + n * 2]
  | .fabEnter g r => [2885681152 + g * 4194304 + r * 64]
  | .fabLeave g => [2919235584 + g * 4194304]
  | .bar n => [2982150144 + n * 16]
  | .yield g => [2986344448 + g * 4194304]
  | .nap g n u => [3019898880 + g * 4194304 + n * 16 + u]
  | .trapI g n => [3053453312 + g * 4194304 + n * 16]
  | .icinv g c sx r => [3087007744 + g * 4194304 + c * 65536 + sx * 1024 + r * 64]
  | .fetchb => [3149922304]
  | .strm g d sx f w => [3154116608 + g * 4194304 + d * 65536 + sx * 1024 + f * 32 + w * 16]
  | .sysopHarvest g c sx r => [3187671041 + g * 4194304 + c * 65536 + sx * 1024 + r * 64]
  | .sysopUnpoison g c sx r => [3187671042 + g * 4194304 + c * 65536 + sx * 1024 + r * 64]
  | .imad g d a b c t cc fm => [3221225472 + g * 4194304 + d * 65536 + a * 1024 + b * 16 + c * 4 + t, cc * 67108864 + fm * 131072]
  | .bfi g d a b c t cc fm => [3254779904 + g * 4194304 + d * 65536 + a * 1024 + b * 16 + c * 4 + t, cc * 67108864 + fm * 131072]
  | .ffma g d a b c t cc fm => [3288334336 + g * 4194304 + d * 65536 + a * 1024 + b * 16 + c * 4 + t, cc * 67108864 + fm * 131072]
  | .movI g d c t imm => [3321888768 + g * 4194304 + d * 65536 + c * 4 + t, imm]
  | .iaddI g d a c t imm => [3355443200 + g * 4194304 + d * 65536 + a * 1024 + c * 4 + t, imm]
  | .fcmpI g k p a c t imm => [3758096384 + g * 4194304 + k * 524288 + p * 65536 + a * 1024 + c * 4 + t, imm]
  | .icmpI g k p a c t imm => [3791650816 + g * 4194304 + k * 524288 + p * 65536 + a * 1024 + c * 4 + t, imm]
  | .ldo g d a r ord sc z f u cl disp => [3388997632 + g * 4194304 + d * 65536 + a * 1024 + r * 64, ord * 16777216 + sc * 2097152 + z * 16384 + f * 8192 + u * 4096 + cl * 2048 + disp]
  | .sto g d a r ord sc z f u cl disp => [3422552064 + g * 4194304 + d * 65536 + a * 1024 + r * 64, ord * 16777216 + sc * 2097152 + z * 16384 + f * 8192 + u * 4096 + cl * 2048 + disp]
  | .atomo g d a r n o cc ord sc z f u cl disp => [3456106496 + g * 4194304 + d * 65536 + a * 1024 + r * 64 + n * 32 + o, cc * 67108864 + ord * 16777216 + sc * 2097152 + z * 16384 + f * 8192 + u * 4096 + cl * 2048 + disp]
  | .redo g a r o cc ord sc z f u cl disp => [3623878656 + g * 4194304 + a * 1024 + r * 64 + o, cc * 67108864 + ord * 16777216 + sc * 2097152 + z * 16384 + f * 8192 + u * 4096 + cl * 2048 + disp]
  | .mma g ti a b ru src cc fm f => [3489660928 + g * 4194304 + ti * 65536 + a * 1024 + b * 16 + ru * 8 + src, cc * 67108864 + fm * 131072 + f * 8192]
  | .mmaSp g ti a b ru pat src cc fm f => [3523215360 + g * 4194304 + ti * 65536 + a * 1024 + b * 16 + ru * 8 + pat * 2 + src, cc * 67108864 + fm * 131072 + f * 8192]
  | .mmaDec g ti a b ru pat src cc lossy fm f => [3556769792 + g * 4194304 + ti * 65536 + a * 1024 + b * 16 + ru * 8 + pat * 2 + src, cc * 67108864 + lossy * 1048576 + fm * 131072 + f * 8192]
  | .cpx g h a m k p cc ord sc f u cl disp => [3590324224 + g * 4194304 + h * 65536 + a * 1024 + m * 64 + k * 16 + p, cc * 67108864 + ord * 16777216 + sc * 2097152 + f * 8192 + u * 4096 + cl * 2048 + disp]
  | .paddock g a r cc f => [3657433088 + g * 4194304 + a * 1024 + r * 64, cc * 67108864 + f * 8192]
  | .braL g h n off => [3825205248 + g * 4194304 + h * 4 + n * 2, off]
  | .callL g l n off => [3858759680 + g * 4194304 + l * 65536 + n * 2, off]
  | .strmL g d w offhi f offlo => [3892314112 + g * 4194304 + d * 65536 + w * 16, offhi * 16384 + f * 8192 + offlo]
  | .reservedMajor w w2 => if isLongMajor (bits w 31 25) then [w, w2] else [w]
  | .clauseStart .. => []
  | .longLatencyCompletion .. => []
  | .swapCountExpiry .. => []
  | .napEnd .. => []
  | .flockRetirement .. => []
  | .workgroupCompletion .. => []
  | .doorbellWrite .. => []
  | .queueSyncWrite .. => []
  | .queueTableWrite .. => []
  | .packetDispatch .. => []
  | .launchPacket .. => []
  | .copyPacket .. => []
  | .barrierAndPacket .. => []
  | .signalPacket .. => []
  | .paddockPacket .. => []
  | .homeChangePacket .. => []
  | .homeChangeComplete .. => []
  | .slotIdleUnmap .. => []
  | .workgroupAdmission .. => []
  | .quantumBoundary .. => []
  | .workgroupSave .. => []
  | .workgroupRestore .. => []
  | .faultResumeWrite .. => []
  | .faultRingWrite .. => []
  | .faultEntryDeferredWrite .. => []
  | .copyLastByteLanded .. => []
  | .copyPageFailure .. => []
  | .mcastDelivery .. => []
  | .fullEmptyReissue .. => []
  | .updateSharerAck .. => []
  | .paddockLineEviction .. => []
  | .paddockLineMove .. => []
  | .paddockShareArrival .. => []
  | .paddockResizeComplete .. => []
  | .autoTick .. => []
  | .tileReleaseEffective .. => []
  | .operatorFiring .. => []
  | .sourceStart .. => []
  | .sourceAppend .. => []
  | .sinkTake .. => []
  | .streamCommandCompletion .. => []
  | .controlTokenArrival .. => []
  | .spatialDrainEnd .. => []
  | .spatialRestore .. => []
  | .cfgOwnRead .. => []
  | .cfgOwnTickDecision .. => []
  | .cfgOwnWrite .. => []
  | .portLinkLoss .. => []
  | .ownershipLapse .. => []
  | .pwrModeWrite .. => []
  | .islandLimitWrite .. => []
  | .configRegisterWrite .. => []
  | .apertureRead .. => []
  | .apertureWrite .. => []
  | .tlbInvGoWrite .. => []
  | .tlbInvalidationDone .. => []
  | .setDomain .. => []
  | .tearDownDomain .. => []
  | .assignFrames .. => []
  | .loadKey .. => []
  | .eraseKey .. => []
  | .attest .. => []
  | .stageFirmware .. => []
  | .checkStagedImage .. => []
  | .loadCodeObject .. => []
  | .unloadCodeObject .. => []
  | .translatePortableObject .. => []
  | .setTranslationCache .. => []
  | .mboxUnknownCommand .. => []
  | .moduleReset .. => []
  | .firmwareVerificationDone .. => []
  | .thermalStepDown .. => []
  | .thermalStepUp .. => []
  | .thermalStop .. => []
  | .islandClockSwitch .. => []
  | .cxlDeviceEnumeration .. => []
  | .watchdogBlockedLimit .. => []
  | .watchdogRunLimit .. => []
  | .correctedError .. => []
  | .uncorrectableMemoryError .. => []
  | .uncorrectableCoreStateError .. => []
  | .agentLoss .. => []
  | .writeArrivingOverCxl .. => []

/-- The instruction whose bits are w, numbered as the opcode table numbers them: bits 31..0 are the first word and
bits 63..32 the second; the bytes are laid out as memory holds them and given to the decoder. -/
def decodeTableWord (nbits w : Nat) : Option Instr :=
  let v := w % 2 ^ nbits
  match decode (bytesOfWord (v % 4294967296) ++ bytesOfWord (v / 4294967296 % 4294967296)) with
  | .ok (i, _) => some i
  | .error _ => none

end Sys2Proof
end

