-- ==== Sys2Proof/Config.lean ====
section
/-! DEFINITION. What the spec leaves to the implementation, and the free values. Every constant here that is opaque has no
body: no proof can see its value, and a statement about it holds whatever the value is. -/

namespace Sys2Proof.Config

/-- Cores along one side of the mesh (R11). -/
def meshSide : Nat := 24

/-- Cores of the package (R11). -/
def coreCount : Nat := 576

/-- Flock slots of a core: 8 octets of 8 (R14, R248). -/
def slotCount : Nat := 64

/-- Swap count of R255, in clocks. -/
def swapLimit : Nat := 4096

/-- Entries of the divergence stack (R254). -/
def stackLimit : Nat := 64

/-- Bytes of a core's scratchpad pool when no bank is taken (R14, R176). -/
def poolBytes : Nat := 24 * 65536

/-- Location of the first byte of bank storage: above every 68-bit physical address (log entry 4). -/
def bankBase : Nat := 2 ^ 68

/-- Location of byte off of bank k (R167); a bank has at most 256 KiB. -/
def bankLoc (k off : Nat) : Nat := bankBase + k * 262144 + off

/-- The home slice of the line that holds a physical address, taken modulo the 144 slices: set by the hardware and not architectural (R164).
Free. -/
opaque homeSlice : Nat → Nat

/-- Which share of a paddock a line occupies: not architectural (R168). Free. -/
opaque lineShare : Nat → Nat → Nat

/-- Whether a line of paddock 0 lies in a way group of a slice bank (R170): its base, the bank's number, the code of the ways. The spec does
not say which ways a line takes. Free. -/
opaque zeroLies : Nat → Nat → Nat → Bool

/-- Which banks of a core back a workgroup's window: not architectural (R176); launch, workgroup, bank of the core. Free. -/
opaque windowBank : Nat → Nat → Nat → Bool

/-- Whether a physical address lies in HBM4E or carrier LPDDR (R333, R338): the spec gives no physical map. Free. -/
opaque inEncryptedTier : Nat → Bool

/-- Whether a physical address lies in CXL-pooled memory (R341): the spec gives no physical map. Free. -/
opaque inPooledTier : Nat → Bool

/-- The device key, derived from fuses (R338). Free. -/
opaque deviceKey : BitVec 512

/-- AES-XTS-256 over a 32-byte sector, which the spec names and does not define (R338): key material, tweak (the sector's number) and bytes.
Free. -/
opaque xtsEncrypt : BitVec 512 → Nat → List Byte → List Byte

/-- The decryption that goes with it. Free. -/
opaque xtsDecrypt : BitVec 512 → Nat → List Byte → List Byte

/-- The rounded value of an elementary function where the model's enclosure does not decide it (log entry 5): function, format, operand.
Free. -/
opaque undecided : Nat → Nat → Nat → Word

/-- A 32-bit value the spec does not state, by the model's counter of free values. Free. -/
opaque freeWord : Nat → Word

/-- A number the spec does not state, by the model's counter of free values. Free. -/
opaque freeNat : Nat → Nat

/-- The scale byte of an element of a handle whose last page was MX, where the element came from a page without scales (R88; log entry 20):
the element's place in the destination, in 4-bit units. Free. -/
opaque unscaled : Nat → Byte

/-- SHA-512, which the spec names and does not define (R342, R345, R349): the bytes hashed. Free. -/
opaque sha512 : List Byte → BitVec 512

/-- Ed25519 verification, which the spec names and does not define: key, message, signature. Free. -/
opaque ed25519Verifies : BitVec 256 → List Byte → List Byte → Bool

/-- Ed25519 signing with the device's identity key (R345): the message. Free. -/
opaque identitySign : List Byte → BitVec 512

/-- The 32-byte identity public key fused at manufacture (R345). Free. -/
opaque identityKey : BitVec 256

/-- The certificate: the root's signature over the identity key and the serial (R345). Free. -/
opaque certificate : BitVec 512

/-- The Abaroqua root public key, whose digest is fused (R342). Free. -/
opaque rootKey : BitVec 256

/-- The device serial (R345). Free. -/
opaque deviceSerial : BitVec 64

/-- Physical address of domain 0's level-0 table, in units of 128 KiB, and the entries that firmware writes there and below: address and
bytes (R328). Free. -/
opaque zeroRoot : Nat
opaque zeroTables : List (Nat × List Byte)

/-- The native code object that Utsum makes of a Frazon source, by the model's counter of free values: two translations may differ (R348).
The spec does not define the translator. Free. -/
opaque utsum : Nat → List Byte → List Byte

/-- Security version, feature vector of a Frazon source (R349, R350): the spec does not give the source's layout. Free. -/
opaque frazonVersion : List Byte → Nat

/-- Feature vector of the request for a Frazon source (R349): the spec does not give where it stands. Free. -/
opaque frazonFeatures : List Byte → BitVec 128

end Sys2Proof.Config
end

