-- ==== Sys2Proof/Machine/State.lean ====
section
/-! DEFINITION. The state of the device as plain data, its faults and refusals, and the state after module reset. Sparse maps hold a
key only where the value differs from the reset value of the piece of state (log entry 1). -/

namespace Sys2Proof.Machine

/-- Why the model stops. -/
inductive Fault where
  /-- Raised by step when the schedule names a device event whose operands name no unit of the machine (a core above 575, a lane above 63). No
run whose schedule is well formed meets it. Safe. -/
  | illFormedTurn
  deriving DecidableEq, Repr

/-- What the model refuses. -/
inductive Refusal where
  /-- Raised by exec's arm of an instruction that has no meaning yet, and by nothing else. Safe. -/
  | notModelled (mnemonic : String)
  deriving DecidableEq, Repr

/-- A sparse map from numbers: keys rising, and no entry that equals the map's default value. -/
abbrev SMap (α : Type) := List (Nat × α)

/-! ### Flocks -/

/-- What a path waits for, when it waits at an instruction or at a clause start (R276, R278, R194, R138, R289, R48). -/
inductive Wait where
  | none
  | bar (n : Nat)
  | nap (stop : Nat)
  | handle
  | tile
  | leave
  /-- At a clause whose header's wait mask is this (R48). -/
  | flags (mask : Nat)
  | issue
  deriving DecidableEq, Repr

/-- A path: a PC and a thread mask (R253), with the place in its clause that R261 gives a saved PC. -/
structure Path where
  /-- Code offset of the next word to execute (R264). -/
  pc : Nat
  /-- Instruction words left in the current clause; 0 when pc is a clause header's (R261). -/
  left : Nat
  /-- Yield hint of the current clause (R52). -/
  hint : Bool
  mask : Mask
  /-- Set-flag fields of the current clause, 15 = none (R46). -/
  setA : Nat
  setB : Nat
  wait : Wait
  deriving DecidableEq, Repr

/-- The part of a full-empty instruction that a deferred record keeps (R166, R261). -/
structure FeInstr where
  word : Word
  /-- Threads whose requests have not been served. -/
  mask : Mask
  idxs : List Int
  datas : List Word
  deriving DecidableEq, Repr

/-- A long-latency instruction that has issued and not reached its completion point (R49): what its completion writes and what it awaits. -/
structure Pending where
  uid : Nat
  /-- Completion flag counted on (R48). -/
  flag : Option Nat
  /-- v registers to write: key 32·register + thread. -/
  vw : List (Nat × Word)
  /-- Bits of v registers to write: key as in vw, mask and bits (R150). -/
  vm : List (Nat × Word × Word)
  /-- s registers to write. -/
  sw : List (Nat × Word)
  /-- b register to write (R190). -/
  bw : Option (Nat × BitVec 256)
  /-- Tile a matrix instruction works on (R138). -/
  tile : Option Nat
  /-- A product that the matrix unit makes, in issue order (R142). -/
  product : Bool
  /-- Lines in update mode whose last sharer acknowledgement is awaited (R221): paddock and line base. -/
  lines : List (Nat × Nat)
  /-- Full-empty instruction, for R166. -/
  fe : Option FeInstr
  /-- PC, PC slot and active threads of a full-empty instruction, for the record of a poisoned word that it meets later (R370). -/
  origin : Option (Nat × Nat × Mask)
  /-- The record that a full-empty instruction accesses, as it was at its issue (R166). -/
  rcd : BitVec 256
  /-- Lane of the stream command awaited (R305). -/
  lane : Option Nat
  /-- Paddock whose resize is awaited (R207). -/
  pad : Option Nat
  /-- The 64 KiB units of virtual addresses that it has accessed, for an invalidation that has to await it (R335). -/
  units : List Nat
  deriving DecidableEq, Repr

/-- A flock (R8, R60, R253, R261). -/
structure Flock where
  launch : Nat
  wg : Nat
  /-- Flock index in its workgroup, sr.flock (R64). -/
  index : Nat
  /-- Register allocation (R62). -/
  budget : Nat
  /-- Octet and first register block (R248). -/
  octet : Nat
  block : Nat
  /-- v registers: key 32·register + thread (R60). -/
  v : SMap Word
  /-- s registers (R60). -/
  s : SMap Word
  /-- p0 to p6, one bit a thread (R60). -/
  p : SMap Mask
  /-- b registers (R60, R157). -/
  b : SMap (BitVec 256)
  /-- Completion flags cf0 to cf11 (R48). -/
  cf : SMap Nat
  /-- Flock status (R65). -/
  status : Word
  /-- Threads that have exited (R274). -/
  exited : Mask
  /-- PC, PC slot and active threads of the exit that ended the flock, which a record of 0x1C names (R360). -/
  exitAt : Option (Nat × Nat × Mask)
  /-- The two PC slots (R253). -/
  path0 : Option Path
  path1 : Option Path
  /-- Divergence stack, top first (R254). -/
  stack : List Path
  /-- Island clock of the last merge, exit, spill or swap (R255). -/
  swapBase : Nat
  /-- Outstanding long-latency instructions, oldest first (R49). -/
  pending : List Pending
  /-- First register of the A group held in the reuse latch, and the registers of C held with it: v register n as n, s register n as 64 + n
(R41, R145). -/
  latch : Option (Nat × List Nat)
  /-- It has yielded with nothing stacked: its next issue turn goes to another ready flock of its octet (R45). -/
  yielded : Bool
  /-- Words fetched ahead, beside the instruction cache, by the path of each PC slot: key 2·offset + slot (R281, R353). -/
  ahead : SMap Word
  /-- Threads arrived at each barrier (R276). -/
  arrived : SMap Mask
  deriving DecidableEq, Repr

/-! ### Accesses that wait for earlier ones (R187, R215) -/

/-- What an operation is, by the rows and columns of the matrices (R214); maintenance of lines stands beside them (R216 note 6). -/
inductive Act where
  | load
  | store
  | atomic
  | red
  | ldfe
  | stfe
  | fence
  | copy
  | mma
  | maintain
  /-- Work on an accumulator tile that accesses no memory (R146). -/
  | tile
  deriving DecidableEq, Repr

/-- An operation as the matrices see it: whether it acquires or releases, and whether it works in the window. -/
structure Op where
  act : Act
  acq : Bool
  rel : Bool
  scratch : Bool
  deriving DecidableEq, Repr

/-- An operation of a path that is not performed: its identifier, the threads for which it is open, whether the flock makes it once (R59),
the bytes that each thread accesses, by thread, first location and number, and the accumulator tile it works on (R143). -/
structure OpenOp where
  uid : Nat
  op : Op
  mask : Mask
  uniform : Bool
  places : List (Nat × Nat × Nat)
  tile : Option Nat
  deriving DecidableEq, Repr

/-- An instruction that has issued and waits for accesses that its order keeps before it (R187, R215): the flock and the codebooks as they
were at its issue. A fence stands here without an instruction's effect (R189). -/
structure Held where
  what : OpenOp
  core : Nat
  slot : Nat
  second : Bool
  /-- Completion flag counted on (R48). -/
  flag : Option Nat
  ins : Instr
  flock : Flock
  book : SMap (BitVec 16)
  deriving DecidableEq, Repr

/-! ### Matrix unit -/

/-- An element of an accumulator segment (R94). -/
structure Elem where
  /-- Significand, or the FP32 bits while the segment is normalised (R98). -/
  sig : Int
  sticky : Bool
  /-- 0 finite, 1 plus infinity, 2 minus infinity, 3 NaN. -/
  special : Nat
  deriving DecidableEq, Repr

/-- A segment: 16 neighbouring columns of one row (R94). -/
structure Seg where
  norm : Bool
  e : Int
  els : List Elem
  deriving DecidableEq, Repr

/-- An accumulator tile (R94, R137). -/
structure Tile where
  /-- Control word of R137. -/
  ctl : Word
  /-- Launch that last held the tile (R137). -/
  last : Option Nat
  /-- Segments that are not at reset: key 8·row + segment. -/
  segs : SMap Seg
  /-- A release is awaited (R138). -/
  releasing : Bool
  deriving DecidableEq, Repr

/-! ### Copy handles -/

/-- Handle states (R194, R206). -/
inductive HState where
  | free
  | filling
  | full
  | draining
  deriving DecidableEq, Repr

/-- One element of a copy: its place in memory (none: dropped under clamp), its place in the window, its number in the scratchpad record,
its row of the block (R197), and its size code of R157. Nibbles serve 4-bit elements. -/
structure CopyElem where
  va : Option Nat
  nib : Nat
  off : Nat
  onib : Nat
  num : Nat
  row : Nat
  size : Nat
  deriving DecidableEq, Repr

/-- A transfer the copy engine has accepted (R197, R201). -/
structure CopyJob where
  dom : Nat
  priv : Bool
  launch : Nat
  wg : Nat
  out : Bool
  scope : Nat
  /-- Codebook slot of the memory record (R157). -/
  cb : Nat
  /-- Elements not yet moved, in copy order. -/
  rest : List CopyElem
  /-- Elements moved (R263 stopped position). -/
  done : Nat
  /-- Fault tag on which the engine waits (R195, R257). -/
  tag : Option Nat
  deriving DecidableEq, Repr

/-- A core's part in a collective (R203). -/
structure CollReq where
  launch : Nat
  wg : Nat
  /-- Participating cores in ascending mask-bit order. -/
  cores : List Nat
  op : Nat
  /-- Window byte offsets of the named buffers' elements, in order. -/
  offs : List Nat
  /-- Whether the issuing core's own bit is set in its mask. -/
  own : Bool
  deriving DecidableEq, Repr

/-- A copy handle (R194, R195, R263). -/
structure Handle where
  st : HState
  fault : Bool
  cause : Nat
  failVa : Nat
  /-- Owning launch and workgroup (R195). -/
  owner : Option (Nat × Nat)
  /-- Recorded format, geometry and codebook slot (R88, R197). -/
  fmt : Nat
  geom : Nat
  cb : Nat
  /-- Scratchpad record of the destination and the bytes it received (R141). -/
  rcd : BitVec 256
  /-- The further records of a reduction across cores, whose buffers follow (R203). -/
  more : List (BitVec 256)
  bytes : Nat
  /-- Address of the scale byte of each element: key 2·byte + nibble of the destination in copy order (R88, R141). -/
  scales : SMap Nat
  /-- The scale store: scale bytes by address (R263). -/
  blocks : SMap Byte
  /-- Destination bytes that came from a scale tail (R141). -/
  tails : List Nat
  job : Option CopyJob
  /-- Slices supplied to the current collective round: flock index and elements (R199). -/
  slices : List (Nat × List CopyElem)
  coll : Option CollReq
  /-- The accesses that the engine waits for (R200, R215): identifier and threads. -/
  after : List (Nat × Mask)
  deriving DecidableEq, Repr

/-- Bytes on their way into a window: offset, the bits of the byte kept, and the new bits. -/
abbrev Landing := List (Nat × Byte × Byte)

/-- A multicast under delivery (R202). -/
structure Mcast where
  uid : Nat
  launch : Nat
  handle : Nat
  /-- The issuing core, whose engine reads the block. -/
  core : Nat
  /-- The read at the slice while it is under way. -/
  job : Option CopyJob
  /-- Cores to which delivery is still due. -/
  cores : List Nat
  data : Landing
  /-- Failure cause and address of the read. -/
  fail : Option (Nat × Nat)
  /-- What each destination's handle will hold: format, geometry, record, scales and tails. -/
  image : Handle
  /-- First byte of the window beyond the block. -/
  reach : Nat
  /-- The accesses that its read waits for (R215): identifier and threads. -/
  after : List (Nat × Mask)
  deriving DecidableEq, Repr

/-! ### Spatial mode -/

/-- Tag of a queue entry (R297). -/
inductive QTag where
  | data
  | marker
  | error
  deriving DecidableEq, Repr

/-- A queue entry (R297). -/
structure QEntry where
  word : Word
  tag : QTag
  flags : Nat
  deriving DecidableEq, Repr

/-- A stream command in a lane's list (R304, R305). -/
structure StrmCmd where
  cmd : BitVec 128
  rcd : BitVec 256
  /-- Its record's codebook slot as it stood at the command's issue (R89). -/
  book : List Nat
  /-- Status register to write (R308). -/
  sreg : Option Nat
  /-- Pending instruction of the control flock, none for a continuation (R366). -/
  uid : Option Nat
  /-- PC of the strm and the control flock's mask there, when accepted since the last restore (R360). -/
  pc : Nat
  mask : Mask
  accepted : Bool
  /-- Extra entries were dropped (R308). -/
  long : Bool
  deriving DecidableEq, Repr

/-- What a lane stopped at: cause 0 for a page that is not resident, else the trap's cause; the unit's address, and the level, reason and
unit of R357 (R364, R365). -/
structure Stuck where
  cause : Nat
  va : Nat
  level : Nat
  reason : Nat
  unit : Nat
  deriving DecidableEq, Repr

/-- A lane's state in spatial mode (R299 to R303, R313). -/
structure Lane where
  /-- FP32 state of scan. -/
  state : Word
  /-- Delay line, oldest first. -/
  line : List Word
  flags : Nat
  /-- Whose turn it is at a merge: true for B. -/
  turnB : Bool
  tokens : Nat
  cmds : List StrmCmd
  running : Bool
  /-- Elements visited by the running command (the cursor of R313). -/
  pos : Nat
  moved : Nat
  markerSent : Bool
  /-- Sink: the end marker was taken; its flag field. -/
  ended : Bool
  field : Nat
  short : Bool
  stuck : Option Stuck
  deriving DecidableEq, Repr

/-- A loaded fabric (R287, R313). -/
structure Fabric where
  image : Nat
  length : Nat
  control : Nat
  ops : List (BitVec 64)
  switches : SMap (BitVec 64)
  depth : SMap Nat
  queues : SMap (List QEntry)
  lanes : SMap Lane
  /-- Tokens under way to lanes (R303). -/
  flying : List Nat
  /-- A spatial save is draining since this time, in ns (R364). -/
  draining : Option Nat
  deriving DecidableEq, Repr

/-- A copy of a lease-mode line held in a core's L1 path (R223). -/
structure LeaseCopy where
  pad : Nat
  base : Nat
  data : List Byte
  wts : BitVec 16
  rts : BitVec 16
  deriving DecidableEq, Repr

/-- A core (R14). -/
structure Core where
  flocks : SMap Flock
  tiles : SMap Tile
  handles : SMap Handle
  /-- Program timestamp (R193, R223). -/
  pts : BitVec 16
  /-- Automatic ticks made (R225). -/
  autoTicks : Nat
  /-- Instruction words held: key domain·2^57 + address of the word (R280, R353). -/
  icache : SMap Word
  leases : List LeaseCopy
  fabric : Option Fabric
  deriving DecidableEq, Repr

/-! ### Memory system -/

/-- State of an update-mode line (R221). -/
inductive LineSt where
  | unshared
  | shared
  | updating
  deriving DecidableEq, Repr

/-- A line held in a paddock (R221 to R226). -/
structure Line where
  pad : Nat
  /-- Physical address of its first byte. -/
  base : Nat
  data : List Byte
  dirty : Bool
  /-- Material of the key its page names; none for the device key (R338). -/
  key : Option (BitVec 512)
  /-- Check values that came with the line and do not fit its bytes, by sector (R372). -/
  checks : SMap (Option Nat)
  st : LineSt
  /-- Cores whose L1 path holds a copy. -/
  copies : List Nat
  /-- Sharer record of R222. -/
  sharers : BitVec 39
  wts : BitVec 16
  rts : BitVec 16
  /-- Combine mode: partials by core, then by byte offset in the line (R226). -/
  partials : SMap (SMap Word)
  deriving DecidableEq, Repr

/-- A request to a full-empty word (R165, R166). -/
structure FeReq where
  uid : Nat
  loc : Nat
  va : Nat
  core : Nat
  slot : Nat
  thread : Nat
  /-- 0 ldfe, 1 ldfe.take, 2 stfe. -/
  kind : Nat
  data : Word
  deriving DecidableEq, Repr

/-- The page that a quarter of a slice bank pins (R164, R165): its frame and owner, and the mappings that pin it there, by domain and first
address. -/
structure Pin where
  frame : Nat
  owner : Nat
  maps : List (Nat × Nat)
  deriving DecidableEq, Repr

/-- Issuer of a release or acquire (R228): host and CXL agents have none. -/
structure Issuer where
  core : Nat
  /-- First core of the cluster, and the code of its shape (R240). -/
  cluster : Nat
  shape : Nat
  deriving DecidableEq, Repr

/-- A sync record of a 128-byte unit (R228). -/
structure SyncRec where
  unit : Nat
  /-- Last release: scope and issuer. -/
  rel : Option (Nat × Issuer)
  /-- Pending acquire: scope and issuer. -/
  acq : Option (Nat × Issuer)
  deriving DecidableEq, Repr

/-- A cached translation (R335). -/
structure TlbEntry where
  dom : Nat
  /-- First address of the page. -/
  va : Nat
  size : Nat
  leaf : BitVec 128
  /-- The level of an entry that was valid but not resident (R384); none for a leaf. -/
  absent : Option Nat
  /-- An access through it has passed its checks, and so pinned its page where the leaf names a quarter of a slice bank (R165). -/
  pinned : Bool
  deriving DecidableEq, Repr

/-- Who is told of a paddock record's end: the packet's queue, number, domain and signal (R169, R241). -/
structure PadSignal where
  queue : Nat
  seq : Nat
  dom : Nat
  va : Nat
  deriving DecidableEq, Repr

/-- A resize under way (R173, R175). -/
structure Resize where
  /-- The record of the version before; 0 where there was none. -/
  old : BitVec 512
  /-- Bases of the lines in departing shares that have not moved. -/
  departing : List Nat
  /-- Bases of the other lines of which departing core shares hold partials (R173, R226). -/
  folding : List Nat
  /-- Bases of the lines of paddock 0 in the ways that it takes (R170, R174). -/
  zero : List Nat
  /-- Banks of the departing shares. -/
  leaving : List Nat
  /-- Banks that have not arrived. -/
  arriving : List Nat
  /-- Workgroups whose windows were resident at installation and have not left since (R174): core, launch, index. -/
  windows : List (Nat × Nat × Nat)
  /-- Whether the record defines a new id. -/
  isNew : Bool
  /-- None where an instruction delivered the record. -/
  signal : Option PadSignal
  deriving DecidableEq, Repr

/-- A defined paddock or pin reserve (R168 to R175). -/
structure Paddock where
  /-- The definition record. -/
  rcd : BitVec 512
  deleting : Bool
  /-- Its withdrawn shares, by way group and bank (R172). -/
  withdrawn : List (Nat × Nat)
  resize : Option Resize
  deriving DecidableEq, Repr

/-- A loaded memory-encryption key (R338, R341). -/
structure Key where
  owner : Nat
  material : BitVec 512
  deriving DecidableEq, Repr

/-! ### Code objects, launches, workgroups -/

/-- A binding item of R386. -/
structure Bind where
  breg : Nat
  form : Nat
  size : Nat
  arg : Nat
  count : Nat
  deriving DecidableEq, Repr

/-- An entry record of R78 with its bindings. -/
structure Entry where
  off : Nat
  kind : Nat
  budget : Nat
  flocks : Nat
  scratch : Nat
  binds : List Bind
  deriving DecidableEq, Repr

/-- A data block of R386. -/
structure DataBlock where
  off : Nat
  len : Nat
  fmt : Nat
  geom : Nat
  size : Nat
  kind : Nat
  count : Nat
  deriving DecidableEq, Repr

/-- A loaded code object (R78, R346, R347). -/
structure CodeObj where
  /-- The drover's identifier, and the object number of the mailbox (R341). -/
  num : Nat
  number : Nat
  dom : Nat
  va : Nat
  len : Nat
  patchable : Bool
  cached : Bool
  retiring : Bool
  /-- Launches running it (R347). -/
  occ : Nat
  stepping : Nat
  codeOff : Nat
  codeSize : Nat
  entries : List Entry
  sets : List (List Nat)
  blocks : List DataBlock
  /-- SHA-512 of the object as loaded (R345). -/
  hash : BitVec 512
  /-- 64 KiB granules it stands in, which unloading unseals (R347). -/
  granules : List Nat
  deriving DecidableEq, Repr

/-- How a launch was stopped: signal status, trap cause, index of the lowest trapping workgroup (R252, R241). -/
structure Stop where
  status : Nat
  trapped : Bool
  cause : Nat
  index : Nat
  deriving DecidableEq, Repr

/-- A launch (R239, R240). -/
structure Launch where
  num : Nat
  queue : Nat
  /-- Packet number in its queue. -/
  seq : Nat
  dom : Nat
  priv : Bool
  /-- Priority fixed at dispatch (R245). -/
  prio : Nat
  obj : Nat
  entry : Nat
  n : Nat
  f : Nat
  b : Nat
  wn : Nat
  fx : Nat
  fy : Nat
  fw : Nat
  fh : Nat
  cluster : Nat
  args : List Word
  recs : List (BitVec 256)
  frames : Nat
  signal : Nat
  /-- Narrow, sampled when the first workgroup is admitted (R28). -/
  narrow : Option Bool
  /-- Watchdog limits sampled at dispatch (R377). -/
  runMs : Nat
  blockedUs : Nat
  /-- Next workgroup index to admit, and the core of the last one (R247). -/
  next : Nat
  lastCore : Option Nat
  /-- When that workgroup began to wait for a core, by the counter of the state (R249). -/
  waits : Nat
  /-- Lowest unreported index (R251). -/
  reported : Nat
  completed : List Nat
  stop : Option Stop
  ended : Bool
  deriving DecidableEq, Repr

/-- A trap record (R262, R357). -/
structure TrapRec where
  cause : Nat
  flock : Nat
  pcSlot : Nat
  mask : Mask
  pc : Nat
  va : Nat
  hcause : Nat
  handle : Nat
  detail : BitVec 256
  /-- Lane of the stream command that caused the trap, 0xFF for none (R358). -/
  lane : Nat
  deriving DecidableEq, Repr

/-- A page fault of a workgroup that has no entry yet: the record is the one that a resume with its fail bit writes (R257). -/
structure Miss where
  va : Nat
  kind : Nat
  level : Nat
  rcd : TrapRec
  deriving DecidableEq, Repr

/-- Where a workgroup stands. -/
inductive Phase where
  | resident
  /-- Stopping at instruction boundaries, to be saved with this save cause (R361). -/
  | stopping (cause : Nat)
  /-- Saved with this save cause, waiting for what it needs. -/
  | saved (cause : Nat)
  /-- Page faults resolved, or released by a debugger: class 1 of R249, with its order of resolution. -/
  | resumed (order : Nat)
  /-- Held at a breakpoint (R379). -/
  | held
  /-- Stopped for good: its launch ends (R252). -/
  | stopped
  | done
  deriving DecidableEq, Repr

/-- What a deferred request keeps while its workgroup is saved: its identifier, its origin and the buffer record that it accesses. -/
structure FeId where
  uid : Nat
  origin : Option (Nat × Nat × Mask)
  rcd : BitVec 256
  deriving DecidableEq, Repr

/-- An admitted workgroup (R248, R251, R259). -/
structure Wg where
  launch : Nat
  index : Nat
  core : Nat
  phase : Phase
  /-- Flock slots of its flocks that have not retired. -/
  slots : List Nat
  /-- Slot that each saved flock left: index and slot. -/
  keptSlots : List (Nat × Nat)
  /-- Retired flocks by index (R275): their slot and blocks are free (R16). -/
  gone : SMap Flock
  window : SMap Byte
  wn : Nat
  /-- Codebook slots: key 16·slot + entry (R60, R84). -/
  cb : SMap (BitVec 16)
  /-- When a flock's icinv last dropped a word of which values were kept, by their stamps: key 32·word key + flock index (R216 note 6, R353).
-/
  invals : SMap Nat
  /-- The same as it stood at the last fetchb of a thread's path, which the thread's later fetches follow: key 32·(32·word key + flock index)
+ thread (R281, R353). -/
  fenced : SMap Nat
  trap : Option TrapRec
  /-- The record is that of a breakpoint to be held (R359, R379). -/
  holding : Bool
  /-- Traps after the recorded one (R358). -/
  later : Nat
  /-- When it began to stop, in ns, and the flocks that have met their boundary: the others may still issue in that clock (R358, R359). -/
  stopAt : Nat
  halted : List Nat
  /-- The watchdog has been taken in this residence (R378). -/
  watched : Bool
  /-- Fault tags not yet resumed (R257, R359). -/
  tags : List Nat
  misses : List Miss
  /-- Run time before this residence and its start, in ns (R378). -/
  ranNs : Nat
  since : Nat
  /-- Blocked time of the watchdog, in ns (R378). -/
  blocked : Nat
  /-- Saved while its core was in spatial mode (R364). -/
  spatial : Bool
  /-- Set-flag fields of the saved paths, flock by flock: slot 0, slot 1, stack (log entry 14). -/
  keptFlags : List (List (Nat × Nat))
  /-- Transfers of the saved handles, kept by the engine (log entry 15). -/
  keptJobs : SMap Handle
  /-- Saved stream commands' records and destinations, lane by lane (log entry 16). -/
  keptCmds : SMap (List StrmCmd)
  /-- Issued instructions that waited for the saved deferred requests (log entry 13). -/
  keptHeld : List Held
  /-- Identifier and origin of each saved deferred request, by flock index, in the order of the flock's records (log entry 13). -/
  keptFe : SMap (List FeId)
  /-- The saved flocks that had exited: key flock index, with PC, PC slot and active threads of the exit (R360; log entry 13). -/
  keptExits : SMap (Option (Nat × Nat × Mask))
  /-- The saved tiles whose release had been asked for, and still waits for a held matrix instruction (R138; log entry 13). -/
  keptFrees : List Nat
  deriving DecidableEq, Repr

/-! ### Queues and packets -/

/-- What the drover holds of a user queue (R233 to R246). -/
structure Queue where
  /-- The descriptor as last read; 0 where it counts as disabled. Held: it is not read again before a QUEUE_SYNC (R234). -/
  desc : BitVec 512
  held : Bool
  rd : Nat
  wr : Nat
  /-- It has started since its enable was last read as 0 (R236). -/
  started : Bool
  stopped : Bool
  /-- The packet at the head, read whole (R235). -/
  head : Option (List Byte)
  /-- The drover has stopped at a slot that is not yet written, until the next doorbell. -/
  unwritten : Bool
  /-- Time for which it has had a dispatchable packet without a dispatch, in ns (R245). -/
  waited : Nat
  /-- Hardware slot (R244) and the time since which it is idle. -/
  hw : Option Nat
  idleAt : Nat
  /-- Packets dispatched and not completed, by number (R237). -/
  flights : List Nat
  seq : Nat
  deriving DecidableEq, Repr

/-- A dispatched packet whose effect is due (R237). -/
structure Packet where
  queue : Nat
  seq : Nat
  kind : Nat
  /-- Domain of its queue, and whether that is a privileged queue (R329). -/
  dom : Nat
  priv : Bool
  /-- Effective priority at dispatch (R245). -/
  prio : Nat
  body : List Byte
  /-- Bytes copied, and the fault tag on which the copy waits (R242, R257). -/
  done : Nat
  tag : Option Nat
  deriving DecidableEq, Repr

/-- Who a fault entry is for (R257, R379). -/
inductive FaultFor where
  | wg (launch index : Nat)
  | copy (core handle : Nat)
  | mcast (uid : Nat)
  | packet (queue seq : Nat)
  | held (launch index : Nat)
  deriving DecidableEq, Repr

/-- A fault entry that has not been resumed (R257, R258). -/
structure FaultEntry where
  tag : Nat
  va : Nat
  dom : Nat
  kind : Nat
  level : Nat
  who : FaultFor
  /-- The trap record of a resume with its fail bit (R257). -/
  rcd : Option TrapRec
  written : Bool
  deriving DecidableEq, Repr

/-- A home change in progress (R229). -/
structure HomeChange where
  dom : Nat
  va : Nat
  leaf : BitVec 128
  queue : Nat
  seq : Nat
  signal : Nat
  /-- Domain of the packet's queue. -/
  qdom : Nat
  deriving DecidableEq, Repr

/-! ### Management -/

/-- Speed modes (R24, R32). -/
inductive Speed where
  | full
  | balanced
  | cool
  deriving DecidableEq, Repr

/-- A mailbox (R339, R340). -/
structure Mbox where
  data : SMap Byte
  /-- The command that runs or waits to run: MBOX_STATUS reads busy. -/
  run : Option Nat
  tag : Nat
  status : Nat
  deriving DecidableEq, Repr

/-- What an invalidation waits for (R335): instructions whose accesses used a translation that it dropped, and lines that such stores left
in Updating. -/
structure Awaited where
  uids : List Nat
  lines : List (Nat × Nat)
  deriving DecidableEq, Repr

/-- What each port has of its own (R22, R35, R335, R339). -/
structure PortRegs where
  /-- A CFG_OWN read waits for the end of its tick (R36). -/
  reading : Bool
  /-- Data of the last read returned, and whether it failed or was poisoned (R22, R370). -/
  out : Nat
  outFailed : Bool
  outPoisoned : Bool
  apFailures : Nat
  tlbVa : BitVec 64
  /-- TLB_INV_GO as last written. -/
  tlbGo : Nat
  tlbDone : Nat
  /-- Invalidation in progress: domain, first address, unit count (R335). -/
  tlbBusy : Option (Nat × Nat × Nat)
  tlbHeld : Awaited
  /-- Invalidations waiting for it. -/
  tlbNext : List (Nat × Nat × Nat)
  mbox : Mbox
  deriving DecidableEq, Repr

/-- Module-wide registers and firmware state. -/
structure Mgmt where
  /-- DEV_ID stepping and the fuse counter (R30, R343). -/
  stepping : Nat
  fuse : Nat
  /-- FW_STATUS (R342). -/
  fwState : Nat
  fwVersion : Nat
  fwCommit : Bool
  /-- SHA-512 of the running image's header and body (R345). -/
  fwHash : BitVec 512
  /-- CFG_OWN (R35, R36). -/
  owner : Option Port
  grants : Nat
  refused : Nat
  lastGrant : Option Port
  lapse : Bool
  /-- PWR_MODE (R32). -/
  speed : Speed
  narrow : Bool
  /-- ISLAND_LIMIT, thermal steps and ISLAND_NOW (R26, R33): key island. -/
  limits : SMap Speed
  thermal : SMap Speed
  now : SMap Speed
  /-- The islands' hottest sensors in units of 0.01 °C, and since when each has been above 100 °C, or below 90 °C (R26). -/
  sensors : SMap Nat
  hotSince : SMap Nat
  coolSince : SMap Nat
  /-- The thermal steps that the islands owe, and the islands whose heat is to stop the module (R26). -/
  steps : SMap Speed
  stops : List Nat
  /-- PWR_STATUS sensors and thermal stop (R34). -/
  watts : Nat
  hottest : Nat
  thermalStop : Bool
  /-- APERTURE_BASE (R22), QUEUE_TABLE (R234). -/
  apBase : Nat
  qTable : Nat
  qSync : Nat
  /-- FAULT_RING, FAULT_HEAD (R258). -/
  faultRing : Nat
  faultHead : Nat
  /-- FAULT_RESUME as last written. -/
  faultResume : Nat
  nextTag : Nat
  /-- WDOG, DEBUG_CTL (R377). -/
  runMs : Nat
  blockedUs : Nat
  hold : Bool
  /-- Error ring entries that are due, oldest first, each with the workgroup whose save it reports (R361, R376). -/
  errDue : List (Option (Nat × Nat) × List Byte)
  /-- ERR_RING, ERR_HEAD, ERR_COUNT (R375). -/
  errRing : Nat
  errHead : Nat
  errPoisoned : Nat
  errCorrected : Nat
  /-- Boot flash (R342, R343). -/
  flash : SMap Byte
  /-- The chunks staged so far, offset and bytes, of an image whose staging is not complete (R344). -/
  staging : Option (List (Nat × Nat))
  /-- Translation cache (R341, R349). -/
  txBase : Nat
  txSlots : Nat
  /-- CXL memory ports: 1 enabled, 2 left disabled for an unsupported device (R20). -/
  cxl : SMap Nat
  /-- Ports told of a thermal stop (R26). -/
  thermalEvent : Bool
  /-- The port whose mailbox command firmware runs (R340). -/
  serving : Option Port
  /-- The status and result of a command that has done its work and still waits for accesses (R346), and what it waits for. -/
  answer : Option (Nat × List Byte)
  awaitDom : Nat
  awaited : Awaited
  /-- Uncorrectable data errors of each bank: times (R374). -/
  bankErrs : SMap (List Nat)
  /-- Times of the last override of each group (R246). -/
  overrides : SMap Nat
  deriving DecidableEq, Repr

/-- The clock count of an island, and the tenths of a cycle left over (R6, R64). -/
structure Isle where
  clk : Nat
  tenths : Nat
  /-- Count at which automatic ticks began (R225). -/
  autoBase : Nat
  deriving DecidableEq, Repr

/-- What moves next. The schedule stands for the drover's free choices, the outside world and the passage of time (log entry 2). -/
inductive Turn where
  /-- A device event, or an instruction given its effect at the issuing path. -/
  | event (i : Instr)
  /-- An issue turn of a flock (R253). -/
  | issue (core slot : Nat)
  /-- Time passes, in ns of TIMEBASE. -/
  | elapse (ns : Nat)
  /-- The path of a PC slot fetches the word at a code offset ahead (R353). -/
  | fetchAhead (core slot : Nat) (second : Bool) (off : Nat)
  /-- The device keeps the value that a word of a domain's loaded object holds now, for fetches that it does not precede (R353). -/
  | keepCode (dom va : Nat)
  /-- The path of a PC slot fetches the word at a code offset ahead, and finds the n-th value kept of it (R353). -/
  | fetchOld (core slot : Nat) (second : Bool) (off n : Nat)
  /-- A core drops its copy of a domain's word, so that its next fetch reads the word anew (R353). -/
  | dropCode (core dom va : Nat)
  /-- The device drops a translation that it holds (R335). -/
  | dropTranslation (dom va : Nat)
  /-- The hottest sensor of an island comes to read a temperature, in units of 0.01 °C (R26). -/
  | heat (island reading : Nat)
  /-- A host or another device reads bytes over CXL (R370, R372). -/
  | cxlRead (pa n : Nat)
  deriving DecidableEq, Repr

/-- The state of the device. -/
structure State where
  /-- The schedule (MODEL's own). -/
  agenda : List Turn
  /-- Device events that have become due, oldest first (MODEL's own). -/
  todo : List Instr
  /-- The issuing path: core, flock slot, PC slot (MODEL's own). -/
  core : Nat
  slot : Nat
  second : Bool
  /-- Counter of free values and of identifiers (MODEL's own). -/
  fresh : Nat
  /-- TIMEBASE (R31), in ns. -/
  time : Nat
  /-- Memory by location: physical addresses, then the banks (R164, log entry 4). -/
  mem : List Host.Cell
  /-- Poisoned 32-byte sectors: location div 32, rising (R369). -/
  poison : List Nat
  /-- The lines poisoned whole when an agent or a share that held them was lost: first location and bytes (R231). -/
  lost : List (Nat × Nat)
  /-- Material of the key each sector was last written under, none for the device key (R338). -/
  sectorKeys : SMap (Option (BitVec 512))
  /-- Check values that do not fit their sector's bytes (R372). -/
  checks : SMap (Option Nat)
  /-- Full words of full-empty pages: location div 4, rising (R165). -/
  feFull : List Nat
  /-- The page that each quarter of a slice bank pins (R164, R165): key location div 65536. -/
  pins : SMap Pin
  /-- Deferred full-empty requests in arrival order (R165). -/
  feQueue : List FeReq
  /-- Requests that found no deferred token (R165). -/
  feRetry : List FeReq
  /-- Issued instructions that wait for earlier accesses, oldest first (R187, R189). -/
  held : List Held
  /-- A held instruction is being performed (MODEL's own). -/
  performing : Bool
  lines : List Line
  /-- Home clocks by slice (R223). -/
  hc : SMap (BitVec 16)
  /-- Sync records, most recent first (R228). -/
  sync : List SyncRec
  /-- Grants of write ownership not yet harvested: location of the 64 KiB unit written (R230). -/
  dirty : List Nat
  tlb : List TlbEntry
  /-- Translations that the device has dropped, though accesses that used them may still be open: an invalidation awaits these (R335). -/
  dropped : List TlbEntry
  paddocks : SMap Paddock
  /-- Banks marked failed (R374). -/
  failed : List Nat
  /-- Domain descriptors (R328). -/
  domains : SMap (BitVec 512)
  /-- Frame owner map: key granule (R337). -/
  frames : SMap (BitVec 16)
  keys : SMap Key
  objects : List CodeObj
  nextObj : Nat
  /-- Values that words of loaded objects have held, oldest first, each with its stamp, which rises: key domain·2^57 + address (R353). -/
  codeSeen : SMap (List (Nat × Word))
  queues : SMap Queue
  packets : List Packet
  launches : List Launch
  nextLaunch : Nat
  wgs : List Wg
  cores : SMap Core
  isles : SMap Isle
  /-- Quantum boundaries passed (R256). -/
  quantum : Nat
  /-- A lease paddock with auto tick is defined (R225). -/
  autoOn : Bool
  faults : List FaultEntry
  homeChanges : List HomeChange
  mcasts : List Mcast
  /-- The data of the last read over CXL, and whether they are poisoned (R370). -/
  cxlOut : List Byte × Bool
  portA : PortRegs
  portB : PortRegs
  mgmt : Mgmt
  deriving DecidableEq, Repr

/-! ### Reset values -/

/-- A mailbox after reset: no command, while the boot ROM runs MBOX_STATUS reads busy (R340, R344). -/
def Mbox.reset : Mbox := { data := [], run := none, tag := 0, status := 0 }

/-- A port's registers after reset. -/
def PortRegs.reset : PortRegs :=
  { reading := false, out := 0, outFailed := false, outPoisoned := false, apFailures := 0, tlbVa := 0, tlbGo := 0,
    tlbDone := 0, tlbBusy := none, tlbHeld := { uids := [], lines := [] }, tlbNext := [], mbox := Mbox.reset }

/-- The module's registers after reset (R30 to R35, R37, R234, R258, R342, R375, R377). Stepping 2 and a fuse counter of 0 are the model's
choice (log entry 3). -/
def Mgmt.reset : Mgmt :=
  { stepping := 2, fuse := 0, fwState := 0, fwVersion := 0, fwCommit := false, fwHash := 0, owner := none, grants := 0, refused := 0,
    lastGrant := none, lapse := false, speed := .cool, narrow := false, limits := [], thermal := [], now := [],
    sensors := [], hotSince := [], coolSince := [], steps := [], stops := [], watts := 0,
    hottest := 0, thermalStop := false, apBase := 0, qTable := 0, qSync := 0, faultRing := 0, faultHead := 0, faultResume := 0, nextTag := 1,
    runMs := 60000, blockedUs := 100000, hold := false, errDue := [], errRing := 0, errHead := 0, errPoisoned := 0,
    errCorrected := 0, flash := [], staging := none, txBase := 0, txSlots := 0, cxl := [], thermalEvent := false, serving := none, answer := none, awaitDom := 0,
    awaited := { uids := [], lines := [] }, bankErrs := [],
    overrides := [] }

/-- Domain 0's descriptor after reset: active and privileged (R328). -/
def domainZero : BitVec 512 := 3

/-- The device right after module reset (R37): no launches, no resident workgroups, no queue known, paddock 0 alone, every core bank in the
scratchpad pool, TIMEBASE at 0, no configuration owner, Cool mode. -/
def State.reset : State :=
  { agenda := [], todo := [], core := 0, slot := 0, second := false, fresh := 0, time := 0, mem := [], poison := [], lost := [],
    sectorKeys := [], checks := [], feFull := [], pins := [], feQueue := [], feRetry := [], held := [], performing := false, lines := [],
    hc := [], sync := [], dirty := [], tlb := [], dropped := [],
    paddocks := [], failed := [], domains := [(0, domainZero)], frames := [], keys := [], objects := [], nextObj := 1, codeSeen := [],
    queues := [], packets := [], launches := [], nextLaunch := 1, wgs := [], cores := [], isles := [], quantum := 0, autoOn := false,
    faults := [], homeChanges := [], mcasts := [], cxlOut := ([], false), portA := PortRegs.reset, portB := PortRegs.reset, mgmt := Mgmt.reset }

end Sys2Proof.Machine
end

