-- ==== Sys2Proof/Machine/Sparse.lean ====
section
/-! DEFINITION. Sparse maps from numbers (log entry 1): a key that is absent reads as the map's default value, a write of the
default removes the key, and keys stay rising. -/

namespace Sys2Proof.Machine

/-- Whether a number lies in the range of n numbers from a. -/
def inRange (a n k : Nat) : Bool := decide (a ≤ k) && decide (k < a + n)

/-- The value at a key, none where the map does not list it. -/
def smapFind {α : Type} (m : SMap α) (k : Nat) : Option α :=
  match m with
  | [] => none
  | (k', v) :: r => if k' = k then some v else smapFind r k

/-- The value at a key, d where the map does not list it. -/
def smapGet {α : Type} (d : α) (m : SMap α) (k : Nat) : α := (smapFind m k).getD d

/-- Lists a value at a key, in its place among the rising keys. -/
def smapPut {α : Type} (m : SMap α) (k : Nat) (v : α) : SMap α :=
  match m with
  | [] => [(k, v)]
  | (k', v') :: r => if k < k' then (k, v) :: (k', v') :: r else if k' = k then (k, v) :: r else (k', v') :: smapPut r k v

/-- Removes a key. -/
def smapDel {α : Type} (m : SMap α) (k : Nat) : SMap α := m.filter fun e => e.1 != k

/-- Writes a value at a key; the default value is not listed. -/
def smapSet {α : Type} [DecidableEq α] (d : α) (m : SMap α) (k : Nat) (v : α) : SMap α :=
  if v = d then smapDel m k else smapPut m k v

/-- Removes the keys for which a test holds. -/
def smapDrop {α : Type} (m : SMap α) (f : Nat → Bool) : SMap α := m.filter fun e => !f e.1

/-- Keys rise and no value is the default: the canonical form. -/
def smapWf {α : Type} [DecidableEq α] (d : α) : SMap α → Bool
  | [] => true
  | [(_, v)] => decide (v ≠ d)
  | (k, v) :: (k', v') :: r => decide (v ≠ d) && decide (k < k') && smapWf d ((k', v') :: r)

/-- Inserts a number into a rising list without repeats. -/
def setInsert (l : List Nat) (k : Nat) : List Nat :=
  match l with
  | [] => [k]
  | k' :: r => if k < k' then k :: k' :: r else if k' = k then k' :: r else k' :: setInsert r k

/-- Removes a number from a list. -/
def setErase (l : List Nat) (k : Nat) : List Nat := l.filter fun x => x != k

/-- Applies a change to the first entry that a test picks, and leaves the list where none is picked. -/
def updFirst {α : Type} (p : α → Bool) (f : α → α) : List α → List α
  | [] => []
  | x :: r => if p x then f x :: r else x :: updFirst p f r

/-- The numbers a, a+1, ..., n of them. -/
def upFrom (a n : Nat) : List Nat := (List.range n).map (a + ·)

end Sys2Proof.Machine
end

