-- ==== Sys2Proof/Machine/Flags.lean ====
section
/-! DEFINITION. The sticky flags of the flock status (R65, R93) and what sets them outside the float formats. -/

namespace Sys2Proof.Machine

/-- The flag bits of R65, as a set of flags one instruction raises. -/
def flInvalid : Nat := 1
def flOverflow : Nat := 2
def flUnderflow : Nat := 4
def flInexact : Nat := 8
def flSaturated : Nat := 16
def flToken : Nat := 32
def flHintmiss : Nat := 256

/-- Both sets of flags. -/
def flOr (a b : Nat) : Nat := a ||| b

/-- The flags that any of a list of results raises (R93: set at most once per instruction). -/
def flAll (l : List Nat) : Nat := l.foldl flOr 0

/-- The status after flags are raised: sticky bits stay (R65). -/
def statusSet (st : Word) (fl : Nat) : Word := st ||| BitVec.ofNat 32 fl

/-- The status after sreg.clr: bits 0 to 5 and 8 are cleared (R65, R79 ClearStickyFlags). -/
def statusClear (st : Word) : Word := st &&& ~~~(0x13F : Word)

/-- Clamps an exact integer to a range, with the saturated flag where it clamps (R85). -/
def clampInt (lo hi x : Int) : Int × Nat := if x < lo then (lo, flSaturated) else if hi < x then (hi, flSaturated) else (x, 0)

/-- The flags an element raises: one that sets invalid sets no other (R93). -/
def flElement (fl : Nat) : Nat := if fl % 2 = 1 then flInvalid else fl

end Sys2Proof.Machine
end

