-- ==== Sys2Proof/Machine/Float.lean ====
section
/-! DEFINITION. Floating-point formats, exact values and rounding (R80 to R93). A finite value is a sign, a whole significand and a
power of two, so every sum and product is exact until it is rounded once. -/

namespace Sys2Proof.Machine

/-- Which special codes a format has (R80). -/
inductive FKind where
  /-- Infinities and NaNs at the all-ones exponent. -/
  | ieee
  /-- No infinity; all ones is NaN (E4M3). -/
  | nanOnly
  /-- Neither (E2M1). -/
  | finite
  deriving DecidableEq, Repr

/-- A floating-point format (R80). -/
structure Fmt where
  ebits : Nat
  mbits : Nat
  bias : Nat
  kind : FKind
  deriving DecidableEq, Repr

def fmtF32 : Fmt := { ebits := 8, mbits := 23, bias := 127, kind := .ieee }
def fmtBf16 : Fmt := { ebits := 8, mbits := 7, bias := 127, kind := .ieee }
def fmtF16 : Fmt := { ebits := 5, mbits := 10, bias := 15, kind := .ieee }
def fmtE4m3 : Fmt := { ebits := 4, mbits := 3, bias := 7, kind := .nanOnly }
def fmtE5m2 : Fmt := { ebits := 5, mbits := 2, bias := 15, kind := .ieee }
def fmtE2m1 : Fmt := { ebits := 2, mbits := 1, bias := 1, kind := .finite }

/-- An exact value: NaN, an infinity, or (-1)^neg · m · 2^e. -/
inductive FVal where
  | nan
  | inf (neg : Bool)
  | fin (neg : Bool) (m : Nat) (e : Int)
  deriving DecidableEq, Repr

/-- Rounding modes (R90). -/
inductive RMode where
  | rn
  | rz
  | rp
  | rm
  | rna
  deriving DecidableEq, Repr

/-- The 3-bit rounding code of R102; 101 to 111 are not assigned. -/
def rmodeOf (code : Nat) : Option RMode :=
  match code with
  | 0 => some .rn
  | 1 => some .rz
  | 2 => some .rp
  | 3 => some .rm
  | 4 => some .rna
  | _ => none

/-- The sign bit's weight. -/
def signWeight (f : Fmt) : Nat := 2 ^ (f.ebits + f.mbits)

/-- The value of a code (R80): every NaN code is NaN whatever its payload (R81). -/
def fdecode (f : Fmt) (code : Nat) : FVal :=
  let neg := bitAt code (f.ebits + f.mbits)
  let ef := bits code (f.ebits + f.mbits - 1) f.mbits
  let mf := code % 2 ^ f.mbits
  let emin : Int := 1 - (f.bias : Int) - f.mbits
  let ones := 2 ^ f.ebits - 1
  if f.kind = .ieee ∧ ef = ones then (if mf = 0 then .inf neg else .nan)
  else if f.kind = .nanOnly ∧ ef = ones ∧ mf = 2 ^ f.mbits - 1 then .nan
  else if ef = 0 then .fin neg mf emin
  else .fin neg (2 ^ f.mbits + mf) (emin + ef - 1)

/-- The largest finite magnitude's code (R80). -/
def maxCode (f : Fmt) : Nat :=
  match f.kind with
  | .ieee => (2 ^ f.ebits - 1) * 2 ^ f.mbits - 1
  | .nanOnly => 2 ^ (f.ebits + f.mbits) - 2
  | .finite => 2 ^ (f.ebits + f.mbits) - 1

/-- The code of infinity. -/
def infCode (f : Fmt) : Nat := (2 ^ f.ebits - 1) * 2 ^ f.mbits

/-- The canonical NaN of a format (R81). -/
def nanCode (f : Fmt) : Nat :=
  match f.kind with
  | .ieee => infCode f + 2 ^ (f.mbits - 1)
  | .nanOnly => 2 ^ (f.ebits + f.mbits) - 1
  | .finite => 0

/-- A magnitude with a sign. -/
def withSign (f : Fmt) (neg : Bool) (mag : Nat) : Nat := if neg then mag + signWeight f else mag

/-- Whether the discarded part rounds the magnitude up (R90): the kept part's last bit, the remainder and half of the last place. -/
def roundsUp (mode : RMode) (neg odd : Bool) (rem half : Nat) : Bool :=
  match mode with
  | .rn => decide (half < rem) || (rem == half && odd)
  | .rna => decide (half ≤ rem)
  | .rz => false
  | .rp => !neg && decide (0 < rem)
  | .rm => neg && decide (0 < rem)

/-- m · 2^(-shift) rounded to a whole number, and whether the remainder was not zero. -/
def roundShift (mode : RMode) (neg : Bool) (m : Nat) (shift : Int) : Nat × Bool :=
  if shift ≤ 0 then (m * 2 ^ (-shift).toNat, false)
  else
    let n := min shift.toNat (Nat.log2 m + 2)
    let q := m / 2 ^ n
    let rem := m % 2 ^ n
    (if roundsUp mode neg (q % 2 == 1) rem (2 ^ (n - 1)) then q + 1 else q, rem != 0)

/-- What R91 writes for a result too large, with its flags. -/
def replaced (f : Fmt) (mode : RMode) (sat neg : Bool) : Nat × Nat :=
  let big := flOr flOverflow flInexact
  if sat then (withSign f neg (maxCode f), flOr big flSaturated)
  else match f.kind with
    | .finite => (withSign f neg (maxCode f), flOr big flSaturated)
    | k =>
      let away := match mode with
        | .rn => true
        | .rna => true
        | .rz => false
        | .rp => !neg
        | .rm => neg
      if away then (if k = .ieee then withSign f neg (infCode f) else nanCode f, big)
      else (withSign f neg (maxCode f), big)

/-- Round of R79: the exact value (-1)^neg · m · 2^e in a format under a mode, with its flags (R90 to R93). -/
def roundFin (f : Fmt) (mode : RMode) (sat ftz neg : Bool) (m : Nat) (e : Int) : Nat × Nat :=
  if m = 0 then (withSign f neg 0, 0)
  else
    let x : Int := (Nat.log2 m : Int) + e
    let emin : Int := 1 - (f.bias : Int)
    let q : Int := max x emin - f.mbits
    let (n, inexact) := roundShift mode neg m (q - e)
    let code : Int := (q + f.mbits + f.bias - 1) * 2 ^ f.mbits + n
    if (maxCode f : Int) < code then replaced f mode sat neg
    else
      let c := code.toNat
      let tiny := decide (x < emin - 1) ||
        (decide (x = emin - 1) && decide ((roundShift mode neg m (x - f.mbits - e)).1 < 2 ^ (f.mbits + 1)))
      if ftz ∧ c ≠ 0 ∧ c < 2 ^ f.mbits then (withSign f neg 0, flOr flUnderflow flInexact)
      else (withSign f neg c, if inexact then (if tiny then flOr flUnderflow flInexact else flInexact) else 0)

/-- Round of any value: NaN is canonical and R91 converts an infinity. -/
def fround79 (f : Fmt) (mode : RMode) (sat ftz : Bool) (v : FVal) : Nat × Nat :=
  match v with
  | .nan => if f.kind = .finite then (0, flInvalid) else (nanCode f, 0)
  | .inf neg => if f.kind = .ieee ∧ !sat then (withSign f neg (infCode f), 0) else replaced f mode sat neg
  | .fin neg m e => roundFin f mode sat ftz neg m e

/-- Whether a code of a format is subnormal. -/
def isSubnormal (f : Fmt) (code : Nat) : Bool :=
  let mag := code % signWeight f
  decide (0 < mag) && decide (mag < 2 ^ f.mbits)

/-- An operand under .ftz: a subnormal reads as a zero of its sign (R92). -/
def flushIn (f : Fmt) (ftz : Bool) (code : Nat) : Nat :=
  if ftz && isSubnormal f code then withSign f (bitAt code (f.ebits + f.mbits)) 0 else code

/-- A finite value as a signed multiple of 2^k, k at most its exponent. -/
def scaledTo (k : Int) (neg : Bool) (m : Nat) (e : Int) : Int :=
  let n : Int := (m * 2 ^ (e - k).toNat : Nat)
  if neg then -n else n

/-- The exact sum of two values, and whether it is an invalid operation; the sign of an exact zero follows IEEE 754 (R114, R121). -/
def faddVal (mode : RMode) (a b : FVal) : FVal × Bool :=
  match a, b with
  | .nan, _ => (.nan, false)
  | _, .nan => (.nan, false)
  | .inf n, .inf n' => if n = n' then (.inf n, false) else (.nan, true)
  | .inf n, .fin .. => (.inf n, false)
  | .fin .., .inf n => (.inf n, false)
  | .fin n m e, .fin n' m' e' =>
    let k := min e e'
    let sum := scaledTo k n m e + scaledTo k n' m' e'
    if sum = 0 then (if m = 0 ∧ m' = 0 ∧ n = n' then (.fin n 0 0, false) else (.fin (mode = .rm) 0 0, false))
    else (.fin (decide (sum < 0)) sum.natAbs k, false)

/-- The exact product of two values, and whether it is 0 · ∞. -/
def fmulVal (a b : FVal) : FVal × Bool :=
  match a, b with
  | .nan, _ => (.nan, false)
  | _, .nan => (.nan, false)
  | .inf n, .inf n' => (.inf (n != n'), false)
  | .inf n, .fin n' m _ => if m = 0 then (.nan, true) else (.inf (n != n'), false)
  | .fin n m _, .inf n' => if m = 0 then (.nan, true) else (.inf (n != n'), false)
  | .fin n m e, .fin n' m' e' => (.fin (n != n') (m * m') (e + e'), false)

/-- The value with its sign changed. -/
def fnegVal (a : FVal) : FVal :=
  match a with
  | .nan => .nan
  | .inf n => .inf !n
  | .fin n m e => .fin (!n) m e

/-- A rounded result with invalid where the operation was invalid, and then no other flag (R93). -/
def fresult (f : Fmt) (mode : RMode) (sat ftz : Bool) (r : FVal × Bool) : Nat × Nat :=
  if r.2 then (nanCode f, flInvalid) else fround79 f mode sat ftz r.1

/-- fadd, fsub and fmul per element (R114). -/
def faddCode (f : Fmt) (a b : Nat) : Nat × Nat := fresult f .rn false false (faddVal .rn (fdecode f a) (fdecode f b))
def fsubCode (f : Fmt) (a b : Nat) : Nat × Nat := fresult f .rn false false (faddVal .rn (fdecode f a) (fnegVal (fdecode f b)))
def fmulCode (f : Fmt) (a b : Nat) : Nat × Nat := fresult f .rn false false (fmulVal (fdecode f a) (fdecode f b))

/-- ffma per element (R121): 0 · ∞ is invalid unless c is NaN. -/
def ffmaCode (f : Fmt) (mode : RMode) (ftz : Bool) (a b c : Nat) : Nat × Nat :=
  let vc := fdecode f (flushIn f ftz c)
  let (p, bad) := fmulVal (fdecode f (flushIn f ftz a)) (fdecode f (flushIn f ftz b))
  if bad then (nanCode f, if vc = .nan then 0 else flInvalid)
  else fresult f mode false ftz (faddVal mode p vc)

/-- A number that orders the codes of values that are not NaN, -0 below +0. -/
def orderKey (f : Fmt) (code : Nat) : Int :=
  let mag := code % signWeight f
  if bitAt code (f.ebits + f.mbits) then -(mag : Int) - 1 else mag

/-- fmin and fmax per element (R115). -/
def fminmaxCode (f : Fmt) (wantMax : Bool) (a b : Nat) : Nat :=
  if fdecode f a = .nan then (if fdecode f b = .nan then nanCode f else b)
  else if fdecode f b = .nan then a
  else if (if wantMax then decide (orderKey f a < orderKey f b) else decide (orderKey f b < orderKey f a)) then b else a

/-- a < b, a = b as numbers, for values that are not NaN; -0 equals +0 (R101). -/
def fltVal (a b : FVal) : Bool :=
  match a, b with
  | .fin n m e, .fin n' m' e' => let k := min e e'; decide (scaledTo k n m e < scaledTo k n' m' e')
  | .inf n, .inf n' => n && !n'
  | .inf n, .fin .. => n
  | .fin .., .inf n => !n
  | _, _ => false

/-- The float conditions of R101. -/
def fcmpCond (k : Nat) (a b : FVal) : Bool :=
  let un := decide (a = .nan) || decide (b = .nan)
  match k with
  | 0 => !un && !fltVal a b && !fltVal b a
  | 1 => un || fltVal a b || fltVal b a
  | 2 => !un && fltVal a b
  | 3 => !un && !fltVal b a
  | 4 => !un && fltVal b a
  | 5 => !un && !fltVal a b
  | 6 => !un
  | _ => un

/-- The class mask of R118. -/
def fclassCode (f : Fmt) (code : Nat) : Nat :=
  match fdecode f code with
  | .nan => 256
  | .inf true => 1
  | .inf false => 128
  | .fin neg m _ =>
    if m = 0 then (if neg then 8 else 16)
    else if isSubnormal f code then (if neg then 4 else 32)
    else if neg then 2 else 64

/-- fscale per element (R119). -/
def fscaleCode (f : Fmt) (a : Nat) (n : Int) : Nat × Nat :=
  match fdecode f a with
  | .fin neg m e => roundFin f .rn false false neg m (e + n)
  | v => fround79 f .rn false false v

/-- fround per element (R120): a zero keeps the operand's sign. -/
def froundCode (f : Fmt) (mode : RMode) (ftz : Bool) (a : Nat) : Nat × Nat :=
  match fdecode f (flushIn f ftz a) with
  | .fin neg m e =>
    let (n, inexact) := roundShift mode neg m (-e)
    ((roundFin f .rn false false neg n 0).1, if inexact then flInexact else 0)
  | v => fround79 f .rn false false v

/-- cvt per thread (R122). -/
def cvtCode (f : Fmt) (mode : RMode) (sat : Bool) (a : Nat) : Nat × Nat :=
  match fround79 f mode sat false (fdecode fmtF32 a) with
  | (c, fl) => (c, flElement fl)

/-- FP32 to an integer range (R123). -/
def cvtiToInt (mode : RMode) (lo hi : Int) (a : Nat) : Int × Nat :=
  match fdecode fmtF32 a with
  | .nan => (0, flInvalid)
  | .inf neg => (if neg then lo else hi, flInvalid)
  | .fin neg m e =>
    if 64 < (Nat.log2 m : Int) + e then (if neg then lo else hi, flInvalid)
    else
      let (n, inexact) := roundShift mode neg m (-e)
      let v : Int := if neg then -(n : Int) else n
      if v < lo then (lo, flInvalid) else if hi < v then (hi, flInvalid) else (v, if inexact then flInexact else 0)

/-- An integer to a float format (R123). -/
def cvtiFromInt (f : Fmt) (mode : RMode) (a : Int) : Nat × Nat := roundFin f mode false false (decide (a < 0)) a.natAbs 0

/-- A value of another format as FP32: exact (R124), with no flag. -/
def widenF32 (f : Fmt) (code : Nat) : Nat := (fround79 fmtF32 .rn false false (fdecode f code)).1

/-- A value times 2^k, exactly (R83). -/
def fscaleVal (v : FVal) (k : Int) : FVal :=
  match v with
  | .fin neg m e => .fin neg m (e + k)
  | v => v

/-- An MX element under its scale byte (R83). -/
def mxVal (f : Fmt) (scale code : Nat) : FVal := if scale = 255 then .nan else fscaleVal (fdecode f code) ((scale : Int) - 127)

/-- A value decoded to BF16 (R88). -/
def toBf16 (v : FVal) : Nat × Nat := fround79 fmtBf16 .rn false false v

/-- floor(log2 |v|) of a value that is finite and not zero. -/
def exponentOf (v : FVal) : Int :=
  match v with
  | .fin _ m e => (Nat.log2 m : Int) + e
  | _ => 0

/-- The largest exponent of mxscale's element formats (R127). -/
def mxEmax (e : Nat) : Nat := if e = 0 then 2 else if e = 1 then 8 else 15

/-- The element format of mxscale's code. -/
def mxFmt (e : Nat) : Fmt := if e = 0 then fmtE2m1 else if e = 1 then fmtE4m3 else fmtE5m2

/-- The shared scale of mxscale (R127): the FP32 values of the active threads. -/
def mxScaleByte (e : Nat) (vals : List FVal) : Nat :=
  if vals.any fun v => match v with
    | .fin .. => false
    | _ => true
  then 255
  else
    let xs := vals.filterMap fun v => match v with
      | .fin _ m k => if m = 0 then none else some ((Nat.log2 m : Int) + k)
      | _ => none
    match xs with
    | [] => 0
    | x :: r => (max (r.foldl max x - mxEmax e + 127) 0).toNat

/-- The element of mxscale under scale k, with its flags (R127): a clamp is no replacement and never sets overflow. -/
def mxElement (e k : Nat) (v : FVal) : Nat × Nat :=
  if k = 255 then (if e = 0 then 0 else nanCode (mxFmt e), 0)
  else
    let (c, fl) := fround79 (mxFmt e) .rn true false (fscaleVal v (127 - (k : Int)))
    (c, fl &&& (flUnderflow ||| flInexact ||| flSaturated))

end Sys2Proof.Machine
end

