-- ==== Sys2Proof/Machine/Operands.lean ====
section
/-! DEFINITION. Cores, flocks, paths and registers, and the operand forms of the register instructions (R56, R59, R60, R100). The
issuing flock and path are those that core, slot and second of State name. -/

namespace Sys2Proof.Machine

/-! ### Cores, flocks, paths -/

/-- A core with nothing resident. -/
def emptyCore : Core :=
  { flocks := [], tiles := [], handles := [], pts := 0, autoTicks := 0, icache := [], leases := [], fabric := none }

/-- A slot with no flock: no thread is on any path. -/
def emptyFlock : Flock :=
  { launch := 0, wg := 0, index := 0, budget := 0, octet := 0, block := 0, v := [], s := [], p := [], b := [], cf := [],
    status := 0, exited := 0, exitAt := none, path0 := none, path1 := none, stack := [], swapBase := 0, pending := [], latch := none,
    yielded := false, ahead := [], arrived := [] }

/-- A path without threads. -/
def emptyPath : Path := { pc := 0, left := 0, hint := false, mask := 0, setA := 15, setB := 15, wait := .none }

def coreAt (s : State) (c : Nat) : Core := smapGet emptyCore s.cores c
def setCore (c : Nat) (k : Core) (s : State) : State := { s with cores := smapSet emptyCore s.cores c k }
def flockAt (s : State) (c f : Nat) : Flock := smapGet emptyFlock (coreAt s c).flocks f
def setFlock (c f : Nat) (x : Flock) (s : State) : State :=
  setCore c { coreAt s c with flocks := smapSet emptyFlock (coreAt s c).flocks f x } s

/-- The issuing flock. -/
def cur (s : State) : Flock := flockAt s s.core s.slot
def setCur (x : Flock) (s : State) : State := setFlock s.core s.slot x s

/-- The path of a PC slot. -/
def pathOf (f : Flock) (second : Bool) : Option Path := if second then f.path1 else f.path0
def withPath (f : Flock) (second : Bool) (p : Option Path) : Flock :=
  if second then { f with path1 := p } else { f with path0 := p }

/-- The issuing path. -/
def curPath (s : State) : Path := (pathOf (cur s) s.second).getD emptyPath

/-- A change of the issuing path, where there is one. -/
def mapCurPath (g : Path → Path) (s : State) : State :=
  setCur (withPath (cur s) s.second ((pathOf (cur s) s.second).map g)) s

/-! ### Registers (R60) -/

def lanes : List Nat := List.range 32

/-- Register n of thread t in a v file. -/
def vKey (n t : Nat) : Nat := 32 * n + t
def getV (f : Flock) (t n : Nat) : Word := smapGet 0 f.v (vKey n t)
def putV (f : Flock) (t n : Nat) (x : Word) : Flock := { f with v := smapSet 0 f.v (vKey n t) x }
def getS (f : Flock) (n : Nat) : Word := smapGet 0 f.s n

/-- The reuse latch after a write to a register, v register n as n and s register n as 64 + n: a write to a latched register releases it
(R41). -/
def latchAfter (l : Option (Nat × List Nat)) (n : Nat) : Option (Nat × List Nat) :=
  match l with
  | some a => if (a.1 ≤ n ∧ n < a.1 + 16) ∨ a.2.contains n then none else some a
  | none => none

def putS (f : Flock) (n : Nat) (x : Word) : Flock := { f with s := smapSet 0 f.s n x, latch := latchAfter f.latch (64 + n) }

/-- A predicate as a mask: p7 reads true in every thread (R60). -/
def getP (f : Flock) (n : Nat) : Mask := if n = 7 then BitVec.allOnes 32 else smapGet 0 f.p n

/-- Writes a predicate in the threads of a mask; writes to p7 are discarded (R60). -/
def putP (f : Flock) (n : Nat) (m x : Mask) : Flock :=
  if n = 7 then f else { f with p := smapSet 0 f.p n ((getP f n &&& ~~~m) ||| (x &&& m)) }

def getB (f : Flock) (n : Nat) : BitVec 256 := smapGet 0 f.b n
def putB (f : Flock) (n : Nat) (x : BitVec 256) : Flock := { f with b := smapSet 0 f.b n x }
def getCf (f : Flock) (n : Nat) : Nat := smapGet 0 f.cf n
def putCf (f : Flock) (n x : Nat) : Flock := { f with cf := smapSet 0 f.cf n x }

/-- Whether thread t is in a mask. -/
def inMask (m : Mask) (t : Nat) : Bool := m.getLsbD t

/-- The threads of a mask, ascending. -/
def threadsOf (m : Mask) : List Nat := lanes.filter (inMask m)

/-- The lowest thread of a mask. -/
def lowest (m : Mask) : Option Nat := (threadsOf m).head?

/-- The mask of the threads for which a test holds. -/
def maskOf (g : Nat → Bool) : Mask := lanes.foldl (fun m t => if g t then m ||| (1 <<< t : Mask) else m) 0

/-- Writes register d in the threads of a mask. -/
def putVs (f : Flock) (d : Nat) (m : Mask) (x : Nat → Word) : Flock :=
  { lanes.foldl (fun f t => if inMask m t then putV f t d (x t) else f) f with latch := latchAfter f.latch d }

/-! ### Active threads (R59, R79) -/

/-- The threads of a path that have not exited. -/
def liveMask (f : Flock) (p : Path) : Mask := p.mask &&& ~~~f.exited

/-- Active(t): on the issuing path, not exited, guard true; negated where the instruction negates its guard (R111, R266). -/
def activeIf (f : Flock) (p : Path) (g : Nat) (neg : Bool) : Mask :=
  liveMask f p &&& (if neg then ~~~getP f g else getP f g)

def active (s : State) (g : Nat) : Mask := activeIf (cur s) (curPath s) g false
def activeNeg (s : State) (g n : Nat) : Mask := activeIf (cur s) (curPath s) g (n = 1)

/-- Sets sticky flags of the issuing flock (R93). -/
def raise (fl : Nat) (s : State) : State := setCur { cur s with status := statusSet (cur s).status fl } s

/-! ### Operand forms (R56, R100) -/

/-- Where an operand comes from. -/
inductive Src where
  | v (n : Nat)
  | s (n : Nat)
  | imm (x : Word)
  deriving DecidableEq, Repr

/-- Where a result goes. -/
inductive Dst where
  | v (n : Nat)
  | s (n : Nat)
  deriving DecidableEq, Repr

/-- An operand as thread t reads it. -/
def readSrc (f : Flock) (x : Src) (t : Nat) : Word :=
  match x with
  | .v n => getV f t n
  | .s n => getS f n
  | .imm x => x

/-- D, A and C of a class: v in classes 00 and 01, s in class 10. B: s in classes 01 and 10. -/
def dstOf (c d : Nat) : Dst := if c = 2 then .s d else .v d
def srcOf (c a : Nat) : Src := if c = 2 then .s a else .v a
def srcB (c b : Nat) : Src := if c = 0 then .v b else .s b

/-- The v registers that operands name (R62). -/
def srcRegs (x : Src) : List Nat :=
  match x with
  | .v n => [n]
  | _ => []
def dstRegs (x : Dst) : List Nat :=
  match x with
  | .v n => [n]
  | .s _ => []

/-- The first register of a list that lies at or above the allocation (R62): of several, the record names the first in the order of the
instruction's operands, the destination before the sources (DEDUCED, log entry 79). -/
def overBudget (f : Flock) (regs : List Nat) : Option Nat := regs.find? fun n => decide (f.budget ≤ n)

/-- Writes results and flags: per active thread to a v register, or once to an s register from the lowest active thread (R59, R100). Every
result is formed from the flock as it stood before. -/
def emit (f : Flock) (m : Mask) (d : Dst) (r : Nat → Word × Nat) : Flock :=
  match d with
  | .v n =>
    let g := putVs f n m fun t => (r t).1
    { g with status := statusSet f.status (flAll ((threadsOf m).map fun t => (r t).2)) }
  | .s n =>
    match lowest m with
    | none => f
    | some t => { putS f n (r t).1 with status := statusSet f.status (r t).2 }

/-- Element e of a packed register (R82). -/
def half (x : Word) (e : Nat) : Nat := x.toNat / 2 ^ (16 * e) % 65536
def joinHalves (lo hi : Nat) : Word := BitVec.ofNat 32 (hi % 65536 * 65536 + lo % 65536)

/-- A value of w bits read as two's complement. -/
def toSigned (w x : Nat) : Int := if x < 2 ^ (w - 1) then x else (x : Int) - 2 ^ w

/-- An exact integer modulo 2^w. -/
def wrapInt (w : Nat) (x : Int) : Nat := (x % 2 ^ w).toNat

/-- An element read as its type says. -/
def readAs (signed : Bool) (w x : Nat) : Int := if signed then toSigned w x else x

/-- A per-element operation on one 32-bit element or on two 16-bit elements (R82, R104). -/
def perElement (packed : Bool) (op : Nat → Nat → Nat → Nat → Nat × Nat) (a b c : Word) : Word × Nat :=
  if packed then
    let lo := op 16 (half a 0) (half b 0) (half c 0)
    let hi := op 16 (half a 1) (half b 1) (half c 1)
    (joinHalves lo.1 hi.1, flOr lo.2 hi.2)
  else
    let r := op 32 a.toNat b.toNat c.toNat
    (BitVec.ofNat 32 r.1, r.2)

end Sys2Proof.Machine
end

