-- ==== Sys2Proof/Machine/Memory.lean ====
section
/-! DEFINITION. Memory by location: bytes, poison (R231, R369), check values (R372), keys (R338), lines held in paddocks (R170, R221) and
the view that the device's own physical accesses have. Error ring entries queue up where they arise and are written at the end of the
step (R375, R376; log entry 76). -/

namespace Sys2Proof.Machine

/-! ### Bytes -/

/-- The byte at a location; an unlisted one reads 0 (log entry 6). -/
def memGet (m : List Host.Cell) (a : Nat) : Byte := smapGet (0 : Byte) m a

/-- Writes a byte, keeping the canonical form. -/
def memPut (m : List Host.Cell) (a : Nat) (b : Byte) : List Host.Cell := smapSet (0 : Byte) m a b

/-- The canonical form of memory: locations rise and no byte listed is 0. -/
def Memory.wf (m : List Host.Cell) : Bool := smapWf (0 : Byte) m

/-- Writes bytes at rising locations. -/
def memPuts (m : List Host.Cell) (a : Nat) : List Byte → List Host.Cell
  | [] => m
  | b :: r => memPuts (memPut m a b) (a + 1) r

def memGets (m : List Host.Cell) (a n : Nat) : List Byte := (upFrom a n).map (memGet m)

/-- A number from bytes, and bytes from a number, least significant first (R4). -/
def leNat : List Byte → Nat
  | [] => 0
  | b :: r => b.toNat + 256 * leNat r

def leBytes : Nat → Nat → List Byte
  | 0, _ => []
  | n + 1, x => BitVec.ofNat 8 x :: leBytes n (x / 256)

/-- Bytes written over a list from an offset. -/
def overlay (l : List Byte) (off : Nat) (d : List Byte) : List Byte := l.take off ++ d ++ l.drop (off + d.length)

/-- Records that a location has been written (R230). -/
def noteDirty (loc : Nat) (s : State) : State := { s with dirty := setInsert s.dirty (loc / 65536 * 65536) }

/-! ### Frame owner map (R337) -/

def frameEntry (s : State) (pa : Nat) : Nat := (smapGet 0 s.frames (pa / 65536)).toNat
def granuleOwner (s : State) (pa : Nat) : Nat := if bitAt (frameEntry s pa) 15 then frameEntry s pa % 1024 else 0

/-! ### Home slices (R12, R164) -/

/-- The slice that homes a location, 0 to 143: the one that pins it, or the hardware's choice for a physical address. -/
def homeSlice (loc : Nat) : Nat :=
  if Config.bankBase ≤ loc then ((loc - Config.bankBase) / 262144 - 13824) / 16 % 144 else Config.homeSlice loc % 144

/-! ### Sectors: poison, check values and keys -/

def sectorOf (loc : Nat) : Nat := loc / 32

def isPoisoned (s : State) (sec : Nat) : Bool := s.poison.contains sec

/-- Whether any byte of a range lies in a poisoned sector. -/
def anyPoison (s : State) (loc n : Nat) : Bool :=
  n != 0 && (upFrom (sectorOf loc) (sectorOf (loc + n - 1) - sectorOf loc + 1)).any (isPoisoned s)

/-- An error ring entry becomes due (R376), where the ring is enabled; one that reports a workgroup's save waits for the save. -/
def errEntryFor (save : Option (Nat × Nat)) (kind unit owner pa launch : Nat) (s : State) : State :=
  if s.mgmt.errRing = 0 then s
  else
    let d := leBytes 2 kind ++ leBytes 2 unit ++ leBytes 2 owner ++ leBytes 2 0 ++ leBytes 8 pa ++ leBytes 8 s.time ++ leBytes 8 launch
    { s with mgmt := { s.mgmt with errDue := s.mgmt.errDue ++ [(save, d)] } }

def errEntry (kind unit owner pa launch : Nat) (s : State) : State := errEntryFor none kind unit owner pa launch s

/-- Poisons a sector at its home and reports it (R369). -/
def poisonSector (kind unit owner : Nat) (s : State) (sec : Nat) : State :=
  if isPoisoned s sec then s
  else
    errEntry kind unit owner (if 32 * sec < Config.bankBase then 32 * sec else 0) 0
      { s with poison := setInsert s.poison sec,
               mgmt := { s.mgmt with errPoisoned := min 0xFFFF (s.mgmt.errPoisoned + 1) } }

/-- CRC-16 with polynomial 0x1021 (R372): one bit, most significant first. -/
def crcBit (c : Nat) (b : Bool) : Nat :=
  let c2 := c * 2 % 65536
  if (c / 32768 % 2 == 1) != b then c2 ^^^ 0x1021 else c2

def crcByte (c : Nat) (x : Byte) : Nat :=
  [7, 6, 5, 4, 3, 2, 1, 0].foldl (fun c i => crcBit c (x.getLsbD i)) c

/-- The check value of a sector's bytes (R372). -/
def crc16 (l : List Byte) : Nat := l.foldl crcByte 0xFFFF

/-- Whether the memory controller encrypts a location (R338); banks hold plaintext. -/
def encrypted (loc : Nat) : Bool := decide (loc < Config.bankBase) && Config.inEncryptedTier loc

/-- The key a sector was last written under; none is the device key. -/
def sectorKey (s : State) (sec : Nat) : Option (BitVec 512) := smapGet none s.sectorKeys sec

/-- Whether two keys differ in their material. -/
def keysDiffer (a b : Option (BitVec 512)) : Bool := a != b && a.getD Config.deviceKey != b.getD Config.deviceKey

/-- Whether reading a sector under a key meets data written under another. -/
def foreignSector (s : State) (key : Option (BitVec 512)) (sec : Nat) : Bool :=
  keysDiffer (sectorKey s sec) key && encrypted (32 * sec)

/-- What a sector's stored bits decrypt to under a key that is not the one they were written under (R338). -/
def wrongPlain (s : State) (key : Option (BitVec 512)) (sec : Nat) : List Byte :=
  Config.xtsDecrypt (key.getD Config.deviceKey) sec
    (Config.xtsEncrypt ((sectorKey s sec).getD Config.deviceKey) sec (memGets s.mem (32 * sec) 32))

/-- The plaintext a read under a key obtains (R338). -/
def memUnder (s : State) (key : Option (BitVec 512)) (loc : Nat) : Byte :=
  if foreignSector s key (sectorOf loc) then (wrongPlain s key (sectorOf loc)).getD (loc % 32) 0 else memGet s.mem loc

/-- The check value stored with a sector: made where its bytes entered (R372). -/
def checkOf (s : State) (sec : Nat) : Nat := (smapGet none s.checks sec).getD (crc16 (memGets s.mem (32 * sec) 32))

/-- Whether a sector read under a key fails its check value (R338, R372). -/
def sectorFails (s : State) (key : Option (BitVec 512)) (sec : Nat) : Bool :=
  (foreignSector s key sec || (smapGet none s.checks sec).isSome) &&
    checkOf s sec != crc16 ((upFrom (32 * sec) 32).map (memUnder s key))

/-- Whether a range covers a sector whole. -/
def coversSector (loc n sec : Nat) : Bool := decide (loc ≤ 32 * sec) && decide (32 * sec + 32 ≤ loc + n)

/-- The shares of a paddock record: the banks they name (R168). -/
def shareList (r : Nat) : List Nat :=
  (List.range (bits r 38 33)).map fun n => bits r (64 + 14 * n + 13) (64 + 14 * n)

/-- The owner domain of what stands at a location: of its granule; of the page that a quarter of a slice bank pins; else of the pin reserve
that holds the place, or 0xFFFF (R164, R337, R376). -/
def locOwner (s : State) (loc : Nat) : Nat :=
  if loc < Config.bankBase then granuleOwner s loc
  else match smapFind s.pins (loc / 65536) with
  | some p => p.owner
  | none =>
    let q := (loc - Config.bankBase) / 65536
    let holds (r : Nat) : Bool := bitAt r 28 && (shareList r).contains (q / 4) &&
      (let code := bits r 43 39
       code == 1 || code == 2 + q % 4 / 2 || code == 4 + q % 4)
    match s.paddocks.find? fun e => holds e.2.rcd.toNat with
    | some e => bits e.2.rcd.toNat 15 6
    | none => 0xFFFF

/-- Readies a sector for a write under a key: a write of a part verifies the old bytes, which are what they decrypt to under that key, and
the check is made anew (R338, R372). -/
def claimSector (key : Option (BitVec 512)) (loc n : Nat) (s : State) (sec : Nat) : State :=
  let s := if !coversSector loc n sec && sectorFails s key sec then poisonSector 3 0xFFFF (locOwner s (32 * sec)) s sec else s
  if foreignSector s key sec then
    { s with
      mem := memPuts s.mem (32 * sec) ((upFrom (32 * sec) 32).map (memUnder s key))
      sectorKeys := smapSet none s.sectorKeys sec key
      checks := smapSet none s.checks sec none }
  else { s with checks := smapSet none s.checks sec none }

/-- The sectors of a range. -/
def sectorsOf (loc n : Nat) : List Nat :=
  if n = 0 then [] else upFrom (sectorOf loc) (sectorOf (loc + n - 1) - sectorOf loc + 1)

/-- Writes bytes to memory or a bank under a key. -/
def writeUnder (key : Option (BitVec 512)) (loc : Nat) (d : List Byte) (s : State) : State :=
  let s := (sectorsOf loc d.length).foldl (claimSector key loc d.length) s
  { s with mem := memPuts s.mem loc d }

/-- Whether ranges together cover a sector whole. -/
def rangesCover (ranges : List (Nat × Nat)) (sec : Nat) : Bool :=
  (upFrom (32 * sec) 32).all fun a => ranges.any fun r => decide (r.1 ≤ a) && decide (a < r.1 + r.2)

/-- A line has been lost with the agent or the share that held it (R231). -/
def noteLost (base n : Nat) (s : State) : State := { s with lost := (base, n) :: s.lost.filter fun e => e != (base, n) }

/-- Whether a lost line lies poisoned whole. -/
def stillLost (poison : List Nat) (e : Nat × Nat) : Bool := (sectorsOf e.1 e.2).all poison.contains

/-- Clears the poison of every sector that written ranges cover whole (R231, R370). -/
def clearCovered (ranges : List (Nat × Nat)) (s : State) : State :=
  let p := s.poison.filter fun sec => !rangesCover ranges sec
  { s with poison := p, lost := s.lost.filter (stillLost p) }

/-! ### Paddock records (R168, R170) -/

def padRcd (s : State) (id : Nat) : Nat :=
  match smapFind s.paddocks id with
  | some p => p.rcd.toNat
  | none => 0

/-- Coherence mode: 0 update, 1 lease, 2 combine, 3 private; paddock 0 is in update mode. -/
def padMode (s : State) (id : Nat) : Nat := if id = 0 then 0 else bits (padRcd s id) 27 26
/-- Write policy: 0 write-back, 1 write-through, 2 read-only. -/
def padPolicy (s : State) (id : Nat) : Nat := if id = 0 then 0 else bits (padRcd s id) 25 24
def padLine (s : State) (id : Nat) : Nat := if id = 0 then 128 else 32 * 2 ^ bits (padRcd s id) 23 21
def padOwner (s : State) (id : Nat) : Nat := bits (padRcd s id) 15 6
def padLease (s : State) (id : Nat) : Nat := bits (padRcd s id) 63 48
def padShares (s : State) (id : Nat) : List Nat := shareList (padRcd s id)

/-- The core that holds a core bank; none for a slice bank (R167). -/
def bankCore (bank : Nat) : Option Nat := if bank < 13824 then some (bank / 24) else none

/-! ### Lines -/

def lineBase (s : State) (pad loc : Nat) : Nat := loc / padLine s pad * padLine s pad

def findLine (s : State) (pad base : Nat) : Option Line := s.lines.find? fun l => l.pad == pad && l.base == base

/-- Replaces a line, or adds it. -/
def putLine (l : Line) (s : State) : State :=
  { s with lines := l :: s.lines.filter fun x => !(x.pad == l.pad && x.base == l.base) }

def updLine (pad base : Nat) (f : Line → Line) (s : State) : State :=
  { s with lines := updFirst (fun l => l.pad == pad && l.base == base) f s.lines }

/-- The home clock of the slice that homes a line (R223). -/
def homeClock (s : State) (base : Nat) : BitVec 16 := smapGet 0 s.hc (homeSlice base)

/-- The check values of sectors that do not fit what a key reads there: they travel with the bytes (R372). -/
def oddChecks (s : State) (key : Option (BitVec 512)) (secs : List Nat) : SMap (Option Nat) :=
  secs.foldl (fun m sec => if sectorFails s key sec then smapSet none m sec (some (checkOf s sec)) else m) []

/-- A line filled from memory: a lease line takes the home clock for both timestamps (R221, R324). -/
def filledLine (s : State) (pad base : Nat) (key : Option (BitVec 512)) : Line :=
  { pad := pad, base := base, data := (upFrom base (padLine s pad)).map (memUnder s key), dirty := false, key := key,
    checks := oddChecks s key (sectorsOf base (padLine s pad)), st := .unshared, copies := [], sharers := 0, wts := homeClock s base
    rts := homeClock s base, partials := [] }

/-- Fills an absent line (R221). -/
def fillLine (pad base : Nat) (key : Option (BitVec 512)) (s : State) : State :=
  match findLine s pad base with
  | some _ => s
  | none => putLine (filledLine s pad base key) s

def lineData (s : State) (pad base : Nat) : List Byte := ((findLine s pad base).map (·.data)).getD []

/-- Bytes of a held line. -/
def lineBytes (s : State) (pad loc n : Nat) : List Byte :=
  let base := lineBase s pad loc
  (lineData s pad base).drop (loc - base) |>.take n

/-- Whether a held line's sector fails its check value. -/
def lineFails (l : Line) (sec : Nat) : Bool := (smapGet none l.checks sec).isSome

/-- Readies a held line's sector for a write, as claimSector does in memory. -/
def claimHeld (pad base loc n : Nat) (s : State) (sec : Nat) : State :=
  match findLine s pad base with
  | none => s
  | some l =>
    if !lineFails l sec then s
    else
      updLine pad base (fun l => { l with checks := smapSet none l.checks sec none })
        (if coversSector loc n sec then s else poisonSector 3 0xFFFF (granuleOwner s (32 * sec)) s sec)

/-- Writes bytes into a held line under its paddock's policy: write-through also reaches memory (R171). -/
def lineStore (pad loc : Nat) (d : List Byte) (s : State) : State :=
  let base := lineBase s pad loc
  let s := (sectorsOf loc d.length).foldl (claimHeld pad base loc d.length) s
  let s := updLine pad base (fun l => { l with data := overlay l.data (loc - base) d, dirty := l.dirty || (padPolicy s pad == 0) }) s
  if padPolicy s pad = 1 then
    match findLine s pad base with
    | some l => writeUnder l.key loc d s
    | none => s
  else s

/-- Writes a dirty line to its home in memory; it stays, clean (R173, R191). -/
def lineClean (pad base : Nat) (s : State) : State :=
  match findLine s pad base with
  | some l =>
    if l.dirty then
      let s := writeUnder l.key base l.data s
      updLine pad base (fun l => { l with dirty := false }) { s with checks := l.checks.foldl (fun m e => smapSet none m e.1 e.2) s.checks }
    else s
  | none => s

/-- The sharer bit of a core in the record of a line (R222). -/
def sharerBit (base c : Nat) : Nat :=
  let x := c % 24
  let y := c / 24
  let die := y / 12 * 2 + x / 12
  let home := homeSlice base / 36
  if die = home then 6 * (y % 12 / 2) + x % 12 / 2 else 36 + (if die < home then die else die - 1)

/-- The sharer record that holds no more than the cores with a copy. -/
def sharersOf (base : Nat) (copies : List Nat) : BitVec 39 :=
  copies.foldl (fun m c => m ||| (1 <<< sharerBit base c : BitVec 39)) 0

/-- The last sharer acknowledgement: the line leaves Updating, without the sharer bits of quads and dies that answered absent (R221). -/
def settleLine (pad base : Nat) (s : State) : State :=
  updLine pad base (fun l =>
    if l.st = .updating then
      { l with st := if l.copies = [] then .unshared else .shared, sharers := l.sharers &&& sharersOf base l.copies }
    else l) s

/-! ### The device's own physical accesses -/

/-- The line that holds a physical address, where one does. -/
def lineOver (s : State) (pa : Nat) : Option Line :=
  s.lines.find? fun l => decide (l.base ≤ pa) && decide (pa < l.base + l.data.length)

/-- A byte at its home: the line that holds it, or memory under the device key (log entry 7). -/
def physByte (s : State) (pa : Nat) : Byte :=
  match lineOver s pa with
  | some l => l.data.getD (pa - l.base) 0
  | none => memUnder s none pa

def physRead (s : State) (pa n : Nat) : List Byte := (upFrom pa n).map (physByte s)

/-- Writes the bytes of one sector, or of a part of one, at their home. -/
def physPiece (pa : Nat) (d : List Byte) (s : State) : State :=
  match lineOver s pa with
  | some l => lineStore l.pad pa d s
  | none => writeUnder none pa d s

/-- The pieces of a range that each lie in one sector: where they start and their lengths. -/
def sectorPieces (pa n : Nat) : List (Nat × Nat) :=
  (sectorsOf pa n).map fun sec => (max pa (32 * sec), min (pa + n) (32 * sec + 32) - max pa (32 * sec))

/-- Puts bytes at their home, sector by sector. -/
def physStore (pa : Nat) (d : List Byte) (s : State) : State :=
  (sectorPieces pa d.length).foldl (fun s p => physPiece p.1 ((d.drop (p.1 - pa)).take p.2) s) s

/-- Whether a physical read of a sector fails its check value. -/
def physFails (s : State) (sec : Nat) : Bool :=
  match lineOver s (32 * sec) with
  | some l => lineFails l sec
  | none => sectorFails s none sec

/-- Whether a physical read meets poison or fails a check value. -/
def physBad (s : State) (pa n : Nat) : Bool := anyPoison s pa n || (sectorsOf pa n).any (physFails s)

/-- Verifies the check values of a physical range that is about to be read (R372). -/
def physVerify (pa n : Nat) (s : State) : State :=
  ((sectorsOf pa n).filter (physFails s)).foldl (fun s sec => poisonSector 3 0xFFFF (granuleOwner s (32 * sec)) s sec) s

end Sys2Proof.Machine
end

