-- ==== Sys2Proof/Machine/Lease.lean ====
section
/-! DEFINITION. The timestamps of lease mode (R223, R224), and the writes that the device makes at a home by physical address. -/

namespace Sys2Proof.Machine

/-! ### Lease mode (R223, R224) -/

/-- SerialLE and SerialMax of R79. -/
def serialLE (a b : BitVec 16) : Bool := decide ((b - a).toNat < 32768)
def serialMax (a b : BitVec 16) : BitVec 16 := if serialLE a b then b else a

/-- A core's pts set to a value, with the core sweep of R224 where it enters a new quarter or moves by catch-up. -/
def setPts (c : Nat) (x : BitVec 16) (caught : Bool) (s : State) : State :=
  let k := coreAt s c
  let k' := { k with pts := x }
  setCore c (if caught || (k.pts >>> 14 != x >>> 14) then { k' with leases := k.leases.filter fun l => serialLE x l.rts } else k') s

/-- CatchUp of R224. -/
def catchUp (c : Nat) (h : BitVec 16) (s : State) : State :=
  if serialLE (h - 16384) (coreAt s c).pts then s else setPts c (h - 16384) true s

/-- The home sweep of R224 of one slice at a new home clock. -/
def homeSweep (slice : Nat) (h : BitVec 16) (s : State) : State :=
  { s with
    lines := s.lines.map fun l =>
      if padMode s l.pad = 1 ∧ homeSlice l.base = slice ∧ serialLE l.rts (h - 16384) then
        { l with wts := h - 16384, rts := h - 16384 }
      else l }

/-- The home clock of a line's slice set to a value, with the home sweep where R224 asks for it. -/
def setHomeClock (base : Nat) (h : BitVec 16) (s : State) : State :=
  let slice := homeSlice base
  let old := homeClock s base
  let s := { s with hc := smapSet 0 s.hc slice h }
  if old >>> 14 != h >>> 14 || decide (8192 ≤ (h - old).toNat) then homeSweep slice h s else s

/-- Keeps a copy of a line in a core's L1 path. -/
def keepCopy (c : Nat) (copy : LeaseCopy) (s : State) : State :=
  let k := coreAt s c
  setCore c { k with leases := copy :: k.leases.filter fun l => !(l.pad == copy.pad && l.base == copy.base) } s

/-- The copy of a line that serves a core's read (R223). -/
def validCopy (s : State) (c pad base : Nat) : Option LeaseCopy :=
  (coreAt s c).leases.find? fun l => l.pad == pad && l.base == base && serialLE (coreAt s c).pts l.rts

/-- HomeRead (R223) for a core. -/
def homeRead (c pad base : Nat) (s : State) : State :=
  match findLine s pad base with
  | none => s
  | some l =>
    let r := serialMax l.rts (serialMax l.wts ((coreAt s c).pts + BitVec.ofNat 16 (padLease s pad)))
    let s := updLine pad base (fun l => { l with rts := r }) s
    let h := serialMax (homeClock s base) r
    let s := setHomeClock base h s
    let s := keepCopy c { pad := pad, base := base, data := l.data, wts := l.wts, rts := r } s
    catchUp c h s

/-- A core's copy of a line, valid or not. -/
def copyOf (s : State) (c pad base : Nat) : Option LeaseCopy := (coreAt s c).leases.find? fun l => l.pad == pad && l.base == base

/-- LeaseRead (R223) of the line that holds an element, filled before: the copy serves it, or the home grants a lease. -/
def leaseRead (c pad base : Nat) (s : State) : State :=
  let s := match validCopy s c pad base with
    | some _ => s
    | none => homeRead c pad base s
  match copyOf s c pad base with
  | some l => setPts c (serialMax (coreAt s c).pts l.wts) false s
  | none => s

/-- The timestamps of HomeWrite (R223) of a line whose data has been written: p is the core's pts, or the home clock for a port. -/
def leaseStamp (core : Option Nat) (pad base : Nat) (s : State) : State :=
  match findLine s pad base with
  | none => s
  | some l =>
    let p := match core with
      | some c => (coreAt s c).pts
      | none => homeClock s base
    let n := serialMax p (l.rts + 1)
    let s := updLine pad base (fun l => { l with wts := n, rts := n }) s
    let h := serialMax (homeClock s base) n
    let s := setHomeClock base h s
    match core with
    | none => s
    | some c =>
      let s := keepCopy c { pad := pad, base := base, data := l.data, wts := n, rts := n } s
      catchUp c h (setPts c (serialMax (coreAt s c).pts n) false s)

/-! ### Writes at a home by physical address -/

/-- Inserts a pair into a rising list. -/
def pairInsert (l : List (Nat × Nat)) (k : Nat × Nat) : List (Nat × Nat) :=
  match l with
  | [] => [k]
  | k' :: r => if k = k' then k' :: r
    else if k.1 < k'.1 ∨ (k.1 = k'.1 ∧ k.2 < k'.2) then k :: k' :: r else k' :: pairInsert r k

/-- Stamps each of the lines once, in ascending order. -/
def leaseStamps (core : Option Nat) (ls : List (Nat × Nat)) (s : State) : State :=
  ls.foldl (fun s l => leaseStamp core l.1 l.2 s) s

/-- Writes bytes at their home by physical address: of a walker, firmware, the drover or another agent. Each is a grant of write ownership
(R230), an update that goes to the line's sharers (R221), and a HomeWrite of a lease line (R223). -/
def physWrite (pa : Nat) (data : List Byte) (s : State) : State :=
  let s := physStore pa data ((sectorPieces pa data.length).foldl (fun s p => noteDirty p.1 s) s)
  let ls := s.lines.filter fun l => decide (l.base < pa + data.length) && decide (pa < l.base + l.data.length)
  let s := (ls.filter fun l => padMode s l.pad == 0).foldl (fun s l =>
    updLine l.pad l.base (fun l => if l.st = .unshared then l else { l with st := .updating }) s) s
  leaseStamps none ((ls.filter fun l => padMode s l.pad == 1).foldl (fun a l => pairInsert a (l.pad, l.base)) []) s

end Sys2Proof.Machine
end

