-- ==== Sys2Proof/Machine/Translate.lean ====
section
/-! DEFINITION. Domains, the page walk, leaves and their checks (R163, R164, R172, R328 to R337). -/

namespace Sys2Proof.Machine

/-! ### Domain descriptors (R328) -/

def domDesc (s : State) (d : Nat) : Nat := (smapGet 0 s.domains d).toNat
def domActive (s : State) (d : Nat) : Bool := bitAt (domDesc s d) 0
def domPrivileged (s : State) (d : Nat) : Bool := bitAt (domDesc s d) 1
def domSigned (s : State) (d : Nat) : Bool := bitAt (domDesc s d) 2
def domCacheMaps (s : State) (d : Nat) : Bool := bitAt (domDesc s d) 3
def domAsid (desc : Nat) : Nat := bits desc 63 48
/-- Physical address of the level-0 table. -/
def domRoot (desc : Nat) : Nat := bits desc 127 69 * 512
def domImport (desc k : Nat) : Nat := bits desc (140 + 13 * k + 12) (140 + 13 * k)
def domCodeKey (desc : Nat) : BitVec 256 := BitVec.ofNat 256 (bits desc 511 256)

/-- The permissions R, W, X, bits 0 to 2, with which a domain imports an owner; none where it does not (R330). Of two imports of one owner
the lower-numbered counts alone (DESIGN CHOICE, log entry 101). -/
def importOf (s : State) (d owner : Nat) : Option Nat :=
  (((List.range 4).map (domImport (domDesc s d))).find? fun i => i / 1024 != 0 && i % 1024 == owner).map (· / 1024)

/-! ### Leaf fields (R163) -/

def leafW (x : Nat) : Bool := bitAt x 2
def leafR (x : Nat) : Bool := bitAt x 1
def leafX (x : Nat) : Bool := bitAt x 3
def leafUser (x : Nat) : Bool := bitAt x 4
def leafSize (x : Nat) : Nat := bits x 8 7
def leafFormat (x : Nat) : Nat := bits x 12 9
def leafGeom (x : Nat) : Nat := bits x 14 13
def leafHome (x : Nat) : Nat := bits x 16 15
def leafPad (x : Nat) : Nat := bits x 22 17
def leafFullEmpty (x : Nat) : Bool := bitAt x 23
def leafKey (x : Nat) : Nat := bits x 31 24
def leafOwner (x : Nat) : Nat := bits x 41 32
def leafFrame (x : Nat) : Nat := bits x 99 48
def leafBank (x : Nat) : Nat := bits x 113 100
def leafQuarter (x : Nat) : Nat := bits x 115 114

def pageSize (code : Nat) : Nat := if code = 0 then 65536 else if code = 1 then 2097152 else 1073741824

/-- Whether a page's format is decoded on a load (R88). -/
def isDecoded (fmt : Nat) : Bool := decide (8 ≤ fmt) && decide (fmt ≤ 13)
def isMx (fmt : Nat) : Bool := decide (10 ≤ fmt) && decide (fmt ≤ 12)

/-- Whether a leaf is unresolvable by its own bits (R86, R163, R333), at the level at which it was found. -/
def leafBad (x level : Nat) : Bool :=
  bits x 127 116 != 0 || bits x 47 42 != 0 || leafSize x == 3 || level + leafSize x != 3 ||
  (decide (leafHome x < 2) && leafSize x != 0) || (leafFullEmpty x && leafHome x != 1) ||
  decide (14 ≤ leafFormat x) || (isMx (leafFormat x) && leafGeom x == 3) ||
  leafFrame x * 65536 % pageSize (leafSize x) != 0 ||
  (leafKey x != 0 && !Config.inEncryptedTier (leafFrame x * 65536))

/-- The key under which a page's home holds its bytes; none is the device key, and a bank holds plaintext (R338). -/
def leafMaterial (s : State) (x : Nat) : Option (BitVec 512) :=
  if leafKey x = 0 ∨ leafHome x < 2 then none else (smapFind s.keys (leafKey x)).map (·.material)

/-- The location of the byte at a virtual address, by the page's home (R164). -/
def leafLoc (x va : Nat) : Nat :=
  let off := va % pageSize (leafSize x)
  if leafHome x = 0 then Config.bankLoc (leafBank x) off
  else if leafHome x = 1 then Config.bankLoc (leafBank x) (leafQuarter x * 65536 + off)
  else leafFrame x * 65536 + off

/-! ### Frame owner map (R337) -/

def granuleSealed (s : State) (pa : Nat) : Bool := bitAt (frameEntry s pa) 15 && bitAt (frameEntry s pa) 14

/-! ### The walk (R332, R333) -/

/-- What a walk found. -/
inductive Walk where
  | leaf (x : Nat)
  /-- Valid but not resident, at a level. -/
  | absent (level : Nat)
  /-- Unresolvable, at a level; 0xFE above 2^57. -/
  | bad (level : Nat)
  deriving DecidableEq, Repr

/-- The table index of a level. -/
def walkIndex (va level : Nat) : Nat :=
  if level = 0 then bits va 56 44 else if level = 1 then bits va 43 30 else if level = 2 then bits va 29 21 else bits va 20 16

/-- Alignment of the table of a level. -/
def tableSize (level : Nat) : Nat := if level = 0 then 131072 else if level = 1 then 262144 else if level = 2 then 8192 else 512

/-- The span of virtual addresses under one entry of a level. -/
def levelSpan (level : Nat) : Nat := 65536 * (if level = 0 then 2 ^ 28 else if level = 1 then 2 ^ 14 else if level = 2 then 32 else 1)

/-- Where a walk ends: a leaf with the physical address of its entry, an entry that is not resident, no translation, or an entry whose read
meets poison or fails its check value. -/
inductive WalkEnd where
  | leaf (x pa : Nat)
  | absent (level : Nat)
  | bad (level : Nat)
  | failed (level pa : Nat)
  deriving DecidableEq, Repr

/-- Reads entries from a level downward. R332 says that the reserved bits of a table pointer must be zero, and no rule what a walk does at
one where they are not: it is unresolvable, as an entry that R333 lists is (DESIGN CHOICE, log entry 90). -/
def walkFrom (s : State) (va : Nat) : Nat → Nat → Nat → WalkEnd
  | 0, level, _ => .bad level
  | fuel + 1, level, table =>
    let pa := table + 16 * walkIndex va level
    if granuleOwner s pa ≠ 0 then .bad level
    else if physBad s pa 16 then .failed level pa
    else
      let x := leNat (physRead s pa 16)
      if !bitAt x 0 then if bitAt x 1 then .absent level else .bad level
      else if leafSize x = 3 then
        let next := bits x 111 53 * 512
        if level = 3 ∨ bits x 127 112 ≠ 0 ∨ bits x 52 9 ≠ 0 ∨ bits x 6 1 ≠ 0 ∨ next % tableSize (level + 1) ≠ 0 then .bad level
        else walkFrom s va fuel (level + 1) next
      else if leafBad x level then .bad level
      else .leaf x pa

/-- A translation the device holds (R335). -/
def tlbFind (s : State) (dom va : Nat) : Option TlbEntry :=
  s.tlb.find? fun e => e.dom == dom && decide (e.va ≤ va) && decide (va < e.va + e.size)

/-- Drops held translations: accesses that used one may still be open, so it is kept in mind for an invalidation (R335). -/
def dropEntries (gone : TlbEntry → Bool) (s : State) : State :=
  let old := s.tlb.filter fun e => gone e && e.absent.isNone
  { s with tlb := s.tlb.filter fun e => !gone e, dropped := old ++ s.dropped.filter fun e => !old.contains e }

/-- Drops the translations of an address that the device holds (R335). -/
def dropTranslation (dom va : Nat) (s : State) : State :=
  dropEntries (fun e => e.dom == dom && decide (e.va ≤ va) && decide (va < e.va + e.size)) s

/-- The quarter of a slice bank that a leaf pins its page in, where it does (R164). -/
def pinQuarter (x va : Nat) : Option Nat :=
  if leafHome x = 1 then some (leafLoc x (va / 65536 * 65536) / 65536) else none

/-- Translations whose pages are no longer pinned in quarters: the next access through one pins its page again. -/
def unpinEntries (qs : List Nat) (l : List TlbEntry) : List TlbEntry :=
  l.map fun e => if (pinQuarter e.leaf.toNat e.va).any qs.contains then { e with pinned := false } else e

/-- Quarters that no longer pin their pages: their presence bits are empty for the next page (R165). -/
def clearPins (gone : Nat → Pin → Bool) (s : State) : State :=
  let qs := (s.pins.filter fun e => gone e.1 e.2).map (·.1)
  if qs = [] then s
  else
    { s with
      pins := s.pins.filter fun e => !qs.contains e.1
      feFull := s.feFull.filter fun w => !qs.contains (w / 16384)
      tlb := unpinEntries qs s.tlb }

/-- A mapping pins its page in at most one quarter: what it pinned elsewhere is unpinned, unless another mapping pins it there (R165; log
entry 78). -/
def unpinMap (dom va : Nat) (keep : Option Nat) (s : State) : State :=
  let k := (dom, va / 65536 * 65536)
  if s.pins.any (fun e => some e.1 != keep && e.2.maps.contains k) then
    let drop (e : Nat × Pin) : Nat × Pin :=
      if some e.1 = keep then e else (e.1, { e.2 with maps := e.2.maps.filter fun x => x != k })
    clearPins (fun _ p => p.maps == []) { s with pins := s.pins.map drop }
  else s

/-- The page of a mapping comes to be pinned in the quarter that its leaf names: presence bits are then empty (R165; log entry 78). -/
def pinPage (x dom va : Nat) (s : State) : State :=
  let k := (dom, va / 65536 * 65536)
  match pinQuarter x va with
  | none => s
  | some q =>
    match smapFind s.pins q with
    | some p =>
      if p.frame = leafFrame x ∧ p.owner = leafOwner x then
        { s with pins := smapPut s.pins q { p with maps := if p.maps.contains k then p.maps else k :: p.maps } }
      else
        { s with pins := smapPut s.pins q { frame := leafFrame x, owner := leafOwner x, maps := [k] }
                 feFull := s.feFull.filter fun w => w / 16384 != q }
    | none =>
      { s with pins := smapPut s.pins q { frame := leafFrame x, owner := leafOwner x, maps := [k] }
               feFull := s.feFull.filter fun w => w / 16384 != q }

/-- The first access through a translation that passes its checks pins its page; a leaf that fails them pins nothing (R164, R165). -/
def pinFirst (x dom va : Nat) (s : State) : State :=
  match tlbFind s dom va with
  | some e =>
    if e.pinned then s
    else pinPage x dom va { s with tlb := updFirst (fun y => y == e) (fun e => { e with pinned := true }) s.tlb }
  | none => s

/-- Holds a translation. -/
def holdTlb (e : TlbEntry) (s : State) : State := { s with tlb := e :: s.tlb }

/-- Translate of R79: a held translation, or a walk, which sets the accessed bit. What it found, a leaf or an entry that is not resident, is
held from then on (R230, R335, R336, R384; log entry 8); what its mapping pinned elsewhere is unpinned (R165); a table entry that fails its
check value is poisoned (R370, R372). -/
def translate (dom va : Nat) (s : State) : State × Walk :=
  if 2 ^ 57 ≤ va then (s, .bad 0xFE)
  else match tlbFind s dom va with
    | some e => (s, match e.absent with
      | some level => .absent level
      | none => .leaf e.leaf.toNat)
    | none =>
      match walkFrom s va 4 0 (domRoot (domDesc s dom)) with
      | .leaf x pa =>
        let size := pageSize (leafSize x)
        let y := if bitAt x 5 then x else x + 32
        let s := if bitAt x 5 then s else physWrite pa (leBytes 16 y) s
        (holdTlb { dom := dom, va := va / size * size, size := size, leaf := BitVec.ofNat 128 y, absent := none, pinned := false }
          (unpinMap dom va (pinQuarter y va) s), .leaf y)
      | .absent level =>
        let size := levelSpan level
        (holdTlb { dom := dom, va := va / size * size, size := size, leaf := 0, absent := some level, pinned := false } (unpinMap dom va none s),
          .absent level)
      | .bad level => (unpinMap dom va none s, .bad level)
      | .failed level pa => (unpinMap dom va none (physVerify pa 16 s), .bad level)

/-! ### Checks after the walk (R162, R172, R330, R334) -/

/-- What an access does to a page. -/
inductive AccKind where
  | read
  | write
  | fetch
  | atomic
  deriving DecidableEq, Repr

/-- The access kind of a fault entry (R257): an access that reads and writes is a write. -/
def AccKind.entry : AccKind → Nat
  | .read => 0
  | .write => 1
  | .fetch => 2
  | .atomic => 1

/-- The access kind of a trap record (R357). -/
def AccKind.code : AccKind → Nat
  | .read => 0
  | .write => 1
  | .fetch => 2
  | .atomic => 3

/-- A failed page check: trap cause, bank-share reason and paddock or bank number. -/
structure PageFault where
  cause : Nat
  reason : Nat
  unit : Nat
  deriving DecidableEq, Repr

/-- Who makes an access: domain, privilege, core. -/
structure Agent where
  dom : Nat
  priv : Bool
  core : Nat
  deriving DecidableEq, Repr

/-- The grants an access needs, as R, W, X in bits 0 to 2 (R334). -/
def needs (k : AccKind) : Nat :=
  match k with
  | .read => 1
  | .write => 2
  | .fetch => 4
  | .atomic => 3

def writes (k : AccKind) : Bool :=
  match k with
  | .write => true
  | .atomic => true
  | _ => false

/-- Permission (R334, R171): the leaf's grants, the user bit, sealed granules, a read-only paddock, the import's grants. -/
def permissionOk (s : State) (ag : Agent) (k : AccKind) (x va : Nat) : Bool :=
  let n := needs k
  let granted (g : Nat) : Bool := g &&& n == n
  let pa := leafFrame x * 65536 + va % pageSize (leafSize x)
  granted (bits x 3 1) && (ag.priv || leafUser x) && !(writes k && granuleSealed s pa) &&
  !(writes k && leafHome x == 2 && padPolicy s (leafPad x) == 2) &&
  (leafOwner x == ag.dom ||
    match importOf s ag.dom (leafOwner x) with
    | some g => granted g
    | none => true)

/-- The domain check (R330, R338). -/
def domainOk (s : State) (ag : Agent) (x va : Nat) : Bool :=
  let pa := leafFrame x * 65536 + va % pageSize (leafSize x)
  (leafOwner x == ag.dom || (importOf s ag.dom (leafOwner x)).isSome) && granuleOwner s pa == leafOwner x &&
  (leafKey x == 0 || match smapFind s.keys (leafKey x) with
    | some key => key.owner == leafOwner x
    | none => false)

/-- Whether a pin location lies in a pin reserve of a domain: a whole core bank, or a share over the quarter, that has not been withdrawn
(R164, R167, R172). A share that names a core bank serves its pages from the installation of its record, though a resident window may still
lie there (DESIGN CHOICE, log entry 81). -/
def pinReserved (s : State) (owner home bank quarter : Nat) : Bool :=
  s.paddocks.any fun e =>
    let r := e.2.rcd.toNat
    let code := bits r 43 39
    bitAt r 28 && bits r 15 6 == owner && !e.2.deleting && (shareList r).contains bank && !e.2.withdrawn.contains (code, bank) &&
    (if home = 0 then decide (bank < 13824) && code == 1
     else decide (13824 ≤ bank) && (code == 1 || code == 2 + quarter / 2 || code == 4 + quarter))

/-- Pages pinned where no pin reserve of their owner lies any more are unpinned (R164, R165). -/
def prunePins (s : State) : State :=
  clearPins (fun q p =>
    let off := q - Config.bankBase / 65536
    !pinReserved s p.owner 1 (off / 4) (off % 4)) s

/-- The bank-share check: reason and unit of the failure (R164, R171, R172, R357, R374). A failed share that a resize drops still counts
until the resize completes. -/
def bankShare (s : State) (core x : Nat) : Option (Nat × Nat) :=
  if leafHome x < 2 then
    if !pinReserved s (leafOwner x) (leafHome x) (leafBank x) (leafQuarter x) || s.failed.contains (leafBank x) then
      some (6, leafBank x)
    else none
  else if leafHome x = 3 ∨ leafPad x = 0 then none
  else match smapFind s.paddocks (leafPad x) with
    | none => some (1, leafPad x)
    | some p =>
      let r := p.rcd.toNat
      if bitAt r 28 || p.deleting then some (1, leafPad x)
      else if bits r 15 6 ≠ leafOwner x then some (2, leafPad x)
      else if (shareList r).any s.failed.contains || p.resize.any (fun z => (shareList z.old.toNat).any s.failed.contains) then some (3, leafPad x)
      else if p.withdrawn ≠ [] then some (4, leafPad x)
      else if bits r 27 26 = 3 ∧ (shareList r).any (fun b => bankCore b != some core) then some (5, leafPad x)
      else none

/-- The checks of one page in the order of R162, after the walk: an import permission that is missing counts as permission, before the owner
map and the key are looked at (DESIGN CHOICE, log entry 91). -/
def checkLeaf (s : State) (ag : Agent) (k : AccKind) (x va : Nat) : Option PageFault :=
  if !permissionOk s ag k x va then some { cause := 0x14, reason := 0, unit := 0 }
  else if !domainOk s ag x va then some { cause := 0x15, reason := 0, unit := 0 }
  else match bankShare s ag.core x with
    | some (r, u) => some { cause := 0x16, reason := r, unit := u }
    | none => none

/-- One page of an access. -/
inductive Page where
  | ok (x : Nat)
  | absent (level : Nat)
  /-- Cause, level, reason, unit; the leaf where the walk found one. -/
  | bad (cause level reason unit : Nat) (x : Option Nat)
  deriving DecidableEq, Repr

/-- Translates and checks one page; the access pins it where it is the first to pass. -/
def pageFor (ag : Agent) (k : AccKind) (va : Nat) (s : State) : State × Page :=
  match translate ag.dom va s with
  | (s, .leaf x) =>
    match checkLeaf s ag k x va with
    | some f => (s, .bad f.cause 0xFF f.reason f.unit (some x))
    | none => (pinFirst x ag.dom va s, .ok x)
  | (s, .absent l) => (s, .absent l)
  | (s, .bad l) => (s, .bad 0x13 l 0 0 none)

/-! ### Dirty records (R230) -/

/-- Records a grant of write ownership for what an element of a page writes. -/
def markDirty (x va : Nat) (s : State) : State := noteDirty (leafLoc x va) s

end Sys2Proof.Machine
end

