-- ==== Sys2Proof/Machine/Lines.lean ====
section
/-! DEFINITION. Loads and stores at a page's home, with the coherence of each paddock mode (R164, R171, R221 to R227), and the accesses
the device makes on its own account by virtual address. A core is none for a port, an engine of the device or the host. -/

namespace Sys2Proof.Machine

/-! ### Combine mode (R226) -/

/-- The 32-bit reduction of a combine paddock: operator 0 add, 1 min, 2 max; format INT32 or FP32 (R168). -/
def combineOp (op : Nat) (float : Bool) (a b : Nat) : Nat :=
  if float then (if op = 0 then (faddCode fmtF32 a b).1 else fminmaxCode fmtF32 (op = 2) a b)
  else if op = 0 then (a + b) % 2 ^ 32
  else if (if op = 1 then decide (toSigned 32 b < toSigned 32 a) else decide (toSigned 32 a < toSigned 32 b)) then b else a

def padCombineOp (s : State) (pad : Nat) : Nat := bits (padRcd s pad) 30 29
def padCombineFloat (s : State) (pad : Nat) : Bool := bitAt (padRcd s pad) 31

/-- The identity of a combine operator (R226). -/
def combineIdentity (op : Nat) (float : Bool) : Nat :=
  if op = 0 then 0
  else if float then (if op = 1 then infCode fmtF32 else withSign fmtF32 true (infCode fmtF32))
  else if op = 1 then 0x7FFFFFFF else 0x80000000

/-- Folds one core's partial into a line's data, word by word: a word that the core never reduced holds the identity. -/
def foldPartial (op : Nat) (float : Bool) (data : List Byte) (part : SMap Word) : List Byte :=
  (List.range (data.length / 4)).flatMap fun k =>
    leBytes 4 (combineOp op float (leNat ((data.drop (4 * k)).take 4))
      ((smapFind part (4 * k)).getD (BitVec.ofNat 32 (combineIdentity op float))).toNat)

/-- The fold at the home (R226): every partial, in ascending core index, then the identity again. -/
def foldLine (pad base : Nat) (s : State) : State :=
  updLine pad base (fun l =>
    if l.partials = [] then l
    else
      { l with
        data := l.partials.foldl (fun d e => foldPartial (padCombineOp s pad) (padCombineFloat s pad) d e.2) l.data
        dirty := true
        partials := [] }) s

/-- Whether a core's reductions of a line go to a partial of its own: it has a share, or a departing share still holds its partial (R173,
R226). -/
def keepsPartial (s : State) (core pad base : Nat) : Bool :=
  (padShares s pad).any (fun b => bankCore b == some core) || (findLine s pad base).any fun l => (smapFind l.partials core).isSome

/-- A reduction held in the writing core's partial, or applied at the home where the core has none (R226). -/
def combineRed (core pad loc : Nat) (x : Nat) (s : State) : State :=
  let base := lineBase s pad loc
  let op := padCombineOp s pad
  let float := padCombineFloat s pad
  if keepsPartial s core pad base then
    updLine pad base (fun l =>
      let part := smapGet [] l.partials core
      let old := (smapFind part (loc - base)).getD (BitVec.ofNat 32 (combineIdentity op float))
      { l with partials := smapPut l.partials core (smapPut part (loc - base) (BitVec.ofNat 32 (combineOp op float old.toNat x))) }) s
  else
    updLine pad base (fun l =>
      { l with
        data := overlay l.data (loc - base) (leBytes 4 (combineOp op float (leNat ((l.data.drop (loc - base)).take 4)) x))
        dirty := true }) s

/-! ### One element at its home -/

/-- Records a core in an update-mode line (R221, R222): the core's L1 path takes a copy. -/
def shareLine (c pad base : Nat) (s : State) : State :=
  updLine pad base (fun l =>
    { l with copies := setInsert l.copies c, sharers := l.sharers ||| (1 <<< sharerBit base c : BitVec 39),
             st := if l.st = .updating then .updating else .shared }) s

/-- Makes the line of an element present and ready for an access: an Updating line is settled first (R221; log entry 10). -/
def readyLine (x pad base : Nat) (s : State) : State := settleLine pad base (fillLine pad base (leafMaterial s x) s)

/-- Loads n bytes of one element for a core's L1 path, or at the home for none. -/
def loadBytes (core : Option Nat) (x va n : Nat) (s : State) : State × List Byte :=
  let loc := leafLoc x va
  if leafHome x ≠ 2 then (s, (upFrom loc n).map (memUnder s (leafMaterial s x)))
  else
    let pad := leafPad x
    let base := lineBase s pad loc
    let s := readyLine x pad base s
    let s := match padMode s pad, core with
      | 0, some c => shareLine c pad base s
      | 1, some c => leaseRead c pad base s
      | 2, _ => foldLine pad base s
      | _, _ => s
    let copy := match padMode s pad, core with
      | 1, some c => copyOf s c pad base
      | _, _ => none
    match copy with
    | some l => (s, (l.data.drop (loc - base)).take n)
    | none => (s, lineBytes s pad loc n)

/-- Stores bytes of one element at its home; lease timestamps follow once for each line (leaseStamp). -/
def storeBytes (core : Option Nat) (x va : Nat) (d : List Byte) (s : State) : State :=
  let loc := leafLoc x va
  let s := markDirty x va s
  if leafHome x ≠ 2 then writeUnder (leafMaterial s x) loc d s
  else
    let pad := leafPad x
    let base := lineBase s pad loc
    let s := lineStore pad loc d (readyLine x pad base s)
    match padMode s pad, core with
    | 0, _ => updLine pad base (fun l => if l.st = .unshared then l else { l with st := .updating }) s
    | _, _ => s

/-- The line that a store leaves in Updating, whose last acknowledgement is its completion point (R221). -/
def updatingLine (s : State) (x va : Nat) : Option (Nat × Nat) :=
  let pad := leafPad x
  let base := lineBase s pad (leafLoc x va)
  if leafHome x = 2 then
    match findLine s pad base with
    | some l => if l.st = .updating then some (pad, base) else none
    | none => none
  else none

/-- The lease line an element lies in. -/
def leaseLine (s : State) (x va : Nat) : Option (Nat × Nat) :=
  if leafHome x = 2 ∧ padMode s (leafPad x) = 1 then some (leafPad x, lineBase s (leafPad x) (leafLoc x va)) else none

/-- Whether a sector of a page fails its check value: in the line that holds it, or in memory or its bank; banks keep plaintext with its
check values (R338, R372). -/
def homeFails (s : State) (x va sec : Nat) : Bool :=
  match if leafHome x = 2 then findLine s (leafPad x) (lineBase s (leafPad x) (leafLoc x va)) else none with
    | some l => lineFails l sec
    | none => sectorFails s (leafMaterial s x) sec

/-- Whether bytes cannot be read: a poisoned sector, or a check value that fails (R370, R372), at the home, though a lease copy could serve
the read (DESIGN CHOICE, log entry 111). -/
def elementBad (s : State) (x va n : Nat) : Bool :=
  anyPoison s (leafLoc x va) n || (sectorsOf (leafLoc x va) n).any (homeFails s x va)

/-- The sectors whose check value a read fails: they become poisoned (R372). -/
def failingSectors (s : State) (x va n : Nat) : List Nat :=
  (sectorsOf (leafLoc x va) n).filter fun sec => homeFails s x va sec && !isPoisoned s sec

/-- Verifies the check values of an element that is about to be read (R372). -/
def verifyElement (x va n : Nat) (s : State) : State :=
  (failingSectors s x va n).foldl (poisonSector 3 0xFFFF (leafOwner x)) s

/-- Readies an element's sectors that a write covers whole: nothing of their old bytes is verified (R372). -/
def renewSectors (covered : Nat → Bool) (x va n : Nat) (s : State) : State :=
  let loc := leafLoc x va
  let base := lineBase s (leafPad x) loc
  let s := if leafHome x = 2 then readyLine x (leafPad x) base s else s
  ((sectorsOf loc n).filter fun sec => homeFails s x va sec && covered sec).foldl (fun s sec =>
    if leafHome x = 2 then claimHeld (leafPad x) base (32 * sec) 32 s sec else claimSector (leafMaterial s x) (32 * sec) 32 s sec) s

/-! ### Accesses the device makes itself (log entry 9) -/

/-- The page of a device access, or none where it fails or is not resident. -/
def devicePage (dom : Nat) (priv : Bool) (k : AccKind) (va : Nat) (s : State) : State × Option Nat :=
  match pageFor { dom := dom, priv := priv, core := Config.coreCount } k va s with
  | (s, .ok x) => (s, some x)
  | (s, _) => (s, none)

/-- Reads n bytes for the device: none where a page fails, is not resident, or is poisoned. -/
def deviceRead (dom : Nat) (priv : Bool) : Nat → Nat → State → State × Option (List Byte)
  | 0, _, s => (s, some [])
  | n + 1, va, s =>
    match devicePage dom priv .read va s with
    | (s, none) => (s, none)
    | (s, some x) =>
      let s := verifyElement x va 1 s
      if elementBad s x va 1 then (s, none)
      else
        let (s, b) := loadBytes none x va 1 s
        match deviceRead dom priv n (va + 1) s with
        | (s, some l) => (s, some (b ++ l))
        | (s, none) => (s, none)

/-- The 64 KiB units of a range. -/
def unitsOf (va n : Nat) : Nat := if n = 0 then 0 else (va + n - 1) / 65536 - va / 65536 + 1

/-- Whether every page of a range can be written by the device. -/
def deviceCanWrite (dom : Nat) (priv : Bool) : Nat → Nat → State → State × Bool
  | 0, _, s => (s, true)
  | n + 1, va, s =>
    match devicePage dom priv .write va s with
    | (s, none) => (s, false)
    | (s, some x) =>
      if leafHome x = 2 ∧ padMode s (leafPad x) = 2 then (s, false)
      else deviceCanWrite dom priv n (va / 65536 * 65536 + 65536) s

/-- Writes pieces, each within a sector, one after another; the locations and lease lines written come with the state. -/
def deviceWriteGo (dom : Nat) (priv : Bool) (d : List Byte) (va : Nat) :
    List (Nat × Nat) → List (Nat × Nat) × List (Nat × Nat) → State → State × List (Nat × Nat) × List (Nat × Nat)
  | [], acc, s => (s, acc)
  | p :: r, acc, s =>
    match devicePage dom priv .write p.1 s with
    | (s, none) => (s, acc)
    | (s, some x) =>
      let ls := match leaseLine s x p.1 with
        | some l => pairInsert acc.2 l
        | none => acc.2
      deviceWriteGo dom priv d va r ((leafLoc x p.1, p.2) :: acc.1, ls) (storeBytes none x p.1 ((d.drop (p.1 - va)).take p.2) s)

/-- Writes bytes for the device: nothing where a page of them fails. Whether they were written comes with the state. -/
def deviceWrite (dom : Nat) (priv : Bool) (va : Nat) (d : List Byte) (s : State) : State × Bool :=
  match deviceCanWrite dom priv (unitsOf va d.length) va s with
  | (s, false) => (s, false)
  | (s, true) =>
    let (s, locs, ls) := deviceWriteGo dom priv d va (sectorPieces va d.length) ([], []) s
    (clearCovered locs (leaseStamps none ls s), true)

/-- A little-endian number of n bytes read by the device. -/
def deviceReadNat (dom : Nat) (priv : Bool) (va n : Nat) (s : State) : State × Option Nat :=
  match deviceRead dom priv n va s with
  | (s, some l) => (s, some (leNat l))
  | (s, none) => (s, none)

/-! ### The error ring (R375, R376) -/

/-- Whether a due error ring entry still waits for the save that it reports (R361). -/
def errWaits (s : State) (e : Option (Nat × Nat) × List Byte) : Bool :=
  match e.1 with
  | none => false
  | some k => s.wgs.any fun w => w.launch == k.1 && w.index == k.2 && (match w.phase with
      | .stopping _ => true
      | _ => false)

/-- Writes one error ring entry, which ERR_HEAD then counts; an entry that cannot be written is lost (log entry 76). -/
def writeErr (s : State) (e : Option (Nat × Nat) × List Byte) : State :=
  if s.mgmt.errRing = 0 then s
  else match deviceWrite 0 true (s.mgmt.errRing * 4096 + 32 * (s.mgmt.errHead % 4096)) e.2 s with
    | (s, true) => { s with mgmt := { s.mgmt with errHead := s.mgmt.errHead + 1 } }
    | (s, false) => s

/-- Writes the error ring entries that are due, in their order; what arises meanwhile is due at the next step. -/
def flushErrors (s : State) : State :=
  match s.mgmt.errDue with
  | [] => s
  | es => (es.filter fun e => !errWaits s e).foldl writeErr { s with mgmt := { s.mgmt with errDue := es.filter (errWaits s) } }

end Sys2Proof.Machine
end

