-- ==== Sys2Proof/Machine/Order.lean ====
section
/-! DEFINITION. Which operations of one thread are kept in order, and which earlier ones are not yet performed: the matrices of R215 and R217
with their notes (R216), at .dv scope, which a full-empty access always has (R187, R211). -/

namespace Sys2Proof.Machine

/-- Whether an earlier operation is kept before a later one of its thread, whatever they touch (R215, R217). A fence keeps every later
access behind it for as long as it stands (R189), and a matrix instruction's read of B keeps what note 10 of R216 says by the bytes it
reads. -/
def keeps (e l : Op) : Bool :=
  if e.act = .tile ∨ l.act = .tile then false
  else if e.act = .fence then true
  else if e.act = .mma then l.act == .fence || l.act == .mma || ((l.act == .store || l.act == .copy) && l.rel) || (l.act == .copy && l.scratch)
  else match l.act with
  | .maintain => e.act == .store || e.act == .atomic || e.act == .red || e.act == .maintain
  | .fence => e.act == .maintain || e.act == .load || e.act == .atomic || e.act == .ldfe || l.rel
  | .mma => e.act == .maintain || e.acq
  | _ =>
    e.acq || e.act == .maintain || (e.scratch && l.scratch) || l.rel ||
    (l.acq && (l.act == .load || l.act == .ldfe) && e.rel && (e.act == .store || e.act == .red || e.act == .stfe))

/-- Whether an earlier operation is kept before a later one of its flock, whichever threads they act for (R141; R216 notes 4 and 10): a read
of B comes after every store to the scratchpad, and before every later write to bytes it reads; matrix instructions go in issue order
(R142). -/
def keepsFlock (e l : OpenOp) : Bool :=
  let writes (o : Op) : Bool := o.scratch && (o.act == .store || o.act == .atomic)
  (e.tile.isSome && e.tile == l.tile) || (l.op.act == .mma && (e.op.act == .mma || writes e.op)) ||
  (e.op.act == .mma && writes l.op && e.places.any fun x => l.places.any fun y =>
    decide (x.2.1 < y.2.1 + y.2.2) && decide (y.2.1 < x.2.1 + x.2.2))

/-- Whether two operations of one thread touch a common byte of one space (R216 note 1). -/
def touches (e l : OpenOp) (t : Nat) : Bool :=
  e.op.act != .mma && l.op.act != .mma && e.op.scratch == l.op.scratch && e.places.any fun x => (e.uniform || x.1 == t) &&
    l.places.any fun y => (l.uniform || y.1 == t) && decide (x.2.1 < y.2.1 + y.2.2) && decide (y.2.1 < x.2.1 + x.2.2)

/-- Whether an operation is kept behind an earlier open one of its flock: in some thread, or for all of them. -/
def blocks (e l : OpenOp) : Bool :=
  decide (e.uid < l.uid) && (keepsFlock e l || (keeps e.op l.op && e.mask &&& l.mask != 0) ||
    lanes.any fun t => inMask e.mask t && inMask l.mask t && touches e l t)

/-- Whether an operation waits for one of several open ones. An instruction is performed whole, so it waits in all its threads (R55, R185).
-/
def waits (ops : List OpenOp) (l : OpenOp) : Bool := ops.any fun e => blocks e l

/-- A full-empty request as an operation: an acquire or a release (R187). -/
def feAsOp (r : FeReq) : OpenOp :=
  { uid := r.uid, op := { act := if r.kind < 2 then .ldfe else .stfe, acq := decide (r.kind < 2), rel := decide (2 ≤ r.kind), scratch := false }
    mask := 1 <<< r.thread, uniform := false, places := [(r.thread, r.loc, 4)], tile := none }

/-- The operations of a flock that have issued and are not performed: unserved requests, and held instructions. Every other access is
performed at its step (log entry 13). -/
def openOps (s : State) (core slot : Nat) : List OpenOp :=
  ((s.feQueue ++ s.feRetry).filter fun r => r.core == core && r.slot == slot).map feAsOp ++
  (s.held.filter fun h => h.core == core && h.slot == slot).map (·.what)

/-- Whether a core's matrix unit has yet to take a product that issued before an identifier: it takes those of all flocks in issue order
(R142). -/
def unitBusy (s : State) (core uid : Nat) : Bool :=
  s.held.any fun h => h.core == core && h.what.op.act == .mma && decide (h.what.uid < uid)

/-- Whether earlier operations of its flock, or for a product those of the matrix unit, keep an operation waiting. -/
def keptAt (s : State) (core slot : Nat) (l : OpenOp) : Bool :=
  waits (openOps s core slot) l || (l.op.act == .mma && unitBusy s core l.uid)

/-- Whether an operation of the issuing flock has to wait. -/
def keptBehind (s : State) (l : OpenOp) : Bool := keptAt s s.core s.slot l

/-- An operation that the issuing flock makes once for a mask, and that names no places. -/
def flockOp (s : State) (op : Op) (m : Mask) : OpenOp :=
  { uid := s.fresh, op := op, mask := m, uniform := true, places := [], tile := none }

/-- A copy as an operation: it keeps earlier ones where it carries a release, and a collective those of its window (R200, R204, R216). -/
def copyAct (rel scratch : Bool) : Op := { act := .copy, acq := false, rel := rel, scratch := scratch }

/-- What the engine waits for before it moves a byte of a copy that the issuing flock makes for a mask; dst is what the copy writes of the
window, first offset and bytes, which no matrix instruction's read of B may find changed (R216 note 10). -/
def copyAfter (s : State) (rel scratch : Bool) (m : Mask) (dst : List (Nat × Nat)) : List (Nat × Mask) :=
  let reads (e : OpenOp) : Bool := e.op.act == .mma && e.places.any fun x => dst.any fun y =>
    decide (x.2.1 < y.1 + y.2) && decide (y.1 < x.2.1 + x.2.2)
  ((openOps s s.core s.slot).filter fun e => (keeps e.op (copyAct rel scratch) && e.mask &&& m != 0) || reads e).map fun e => (e.uid, e.mask)

/-- Whether an access that something waits for is still open, on its core or in a saved workgroup. -/
def stillOpen (s : State) (x : Nat × Mask) : Bool :=
  (s.feQueue ++ s.feRetry).any (fun r => r.uid == x.1 && inMask x.2 r.thread) ||
  s.held.any (fun h => h.what.uid == x.1 && h.what.mask &&& x.2 != 0) ||
  s.wgs.any fun w => w.keptHeld.any (fun h => h.what.uid == x.1) || w.keptFe.any fun e => e.2.any fun u => u.uid == x.1

end Sys2Proof.Machine
end

