-- ==== Sys2Proof/Machine/Ops.lean ====
section
/-! DEFINITION. What many instructions and events share: launches and workgroups, signals, taking a trap (R252, R357, R358), suspending on
a page fault (R257), advancing a path, yield points (R255), forming paths (R265), barriers (R276) and long-latency work (R48, R49). -/

namespace Sys2Proof.Machine

/-- What a meaning answers. -/
abbrev Out : Type := Host.Outcome State Fault Refusal

/-! ### Launches and workgroups -/

def noLaunch : Launch :=
  { num := 0, queue := 0, seq := 0, dom := 0, priv := false, prio := 0, obj := 0, entry := 0, n := 0, f := 0, b := 0, wn := 0,
    fx := 0, fy := 0, fw := 1, fh := 1, cluster := 0, args := [], recs := [], frames := 0, signal := 0, narrow := none, runMs := 0,
    blockedUs := 0, next := 0, lastCore := none, waits := 0, reported := 0, completed := [], stop := none, ended := false }

def noWg : Wg :=
  { launch := 0, index := 0, core := 0, phase := .done, slots := [], keptSlots := [], gone := [], window := [], wn := 0, cb := [], invals := [], fenced := [], trap := none, holding := false, later := 0,
    stopAt := 0, halted := [], watched := false, tags := [], misses := [], ranNs := 0, since := 0, blocked := 0, spatial := false, keptFlags := [],
    keptJobs := [], keptCmds := [], keptHeld := [], keptFe := [], keptExits := [], keptFrees := [] }

def noObj : CodeObj :=
  { num := 0, number := 0, dom := 0, va := 0, len := 0, patchable := false, cached := false, retiring := false, occ := 0, stepping := 0,
    codeOff := 0, codeSize := 0, entries := [], sets := [], blocks := [], hash := 0, granules := [] }

def launchOf (s : State) (l : Nat) : Launch := (s.launches.find? fun x => x.num == l).getD noLaunch
def updLaunch (l : Nat) (f : Launch → Launch) (s : State) : State := { s with launches := updFirst (fun x => x.num == l) f s.launches }
def isWg (l k : Nat) (w : Wg) : Bool := w.launch == l && w.index == k
def findWg (s : State) (l k : Nat) : Option Wg := s.wgs.find? (isWg l k)
def wgOf (s : State) (l k : Nat) : Wg := (findWg s l k).getD noWg
def updWg (l k : Nat) (f : Wg → Wg) (s : State) : State := { s with wgs := updFirst (isWg l k) f s.wgs }
def objOf (s : State) (o : Nat) : CodeObj := (s.objects.find? fun x => x.num == o).getD noObj

def curLaunch (s : State) : Launch := launchOf s (cur s).launch
def curWg (s : State) : Wg := wgOf s (cur s).launch (cur s).wg
def curObj (s : State) : CodeObj := objOf s (curLaunch s).obj
/-- The issuing flock as an agent of memory accesses (R329, R332). -/
def curAgent (s : State) : Agent := { dom := (curLaunch s).dom, priv := (curLaunch s).priv, core := s.core }
def isNarrow (l : Launch) : Bool := l.narrow.getD false

/-- Cluster shape of a code (R240): width and height. -/
def clusterShape (code : Nat) : Nat × Nat :=
  match code with
  | 0 => (1, 1) | 1 => (2, 1) | 2 => (1, 2) | 3 => (2, 2) | 4 => (4, 2)
  | 5 => (2, 4) | 6 => (4, 4) | 7 => (8, 4) | 8 => (4, 8) | _ => (8, 8)

/-- The first core of the cluster of a launch that holds a core. -/
def clusterOrigin (l : Launch) (core : Nat) : Nat :=
  let (cw, ch) := clusterShape l.cluster
  let x := core % 24
  let y := core / 24
  24 * (l.fy + (y - l.fy) / ch * ch) + (l.fx + (x - l.fx) / cw * cw)

/-- The cores of a cluster, by mask bit (R202). -/
def clusterCores (l : Launch) (core : Nat) : List Nat :=
  let (cw, ch) := clusterShape l.cluster
  (List.range (cw * ch)).map fun i => clusterOrigin l core + 24 * (i / cw) + i % cw

/-- The island of a core (R13). -/
def islandOf (core : Nat) : Nat :=
  let x := core % 24
  let y := core / 24
  16 * (2 * (y / 12) + x / 12) + 4 * (y % 12 / 3) + x % 12 / 3

def noIsle : Isle := { clk := 0, tenths := 0, autoBase := 0 }
def clockOf (s : State) (core : Nat) : Nat := (smapGet noIsle s.isles (islandOf core)).clk

/-- Adds a due event, unless it stands already. -/
def due (i : Instr) (s : State) : State := if s.todo.contains i then s else { s with todo := s.todo ++ [i] }

/-! ### Signals and the end of launches (R241, R251, R252, R347) -/

/-- Writes a queue's status and stops it (R233, R235, R241). -/
def queueError (q code : Nat) (s : State) : State :=
  match smapFind s.queues q with
  | none => s
  | some x =>
    let (s, _) := deviceWrite 0 true (s.mgmt.qTable + 64 * q + 32) (leBytes 1 code ++ leBytes 7 x.rd) s
    { s with queues := smapPut s.queues q { x with stopped := true } }

/-- Completes a packet's signal: bytes 0x08 to 0x1F, then the value less one; a signal that cannot be written stops the queue. -/
def signalDone (q dom : Nat) (va status cause index done : Nat) (s : State) : State :=
  if va = 0 then s
  else
    let body := leBytes 4 status ++ leBytes 4 cause ++ leBytes 4 index ++ leBytes 4 done ++ leBytes 8 s.time
    match deviceWrite dom true (va + 8) body s with
    | (s, false) => queueError q 3 s
    | (s, true) =>
      match deviceReadNat dom true va 8 s with
      | (s, none) => queueError q 3 s
      | (s, some v) =>
        match deviceWrite dom true va (leBytes 8 ((v + 2 ^ 64 - 1) % 2 ^ 64)) s with
        | (s, false) => queueError q 3 s
        | (s, true) => s

/-- A packet of a queue has completed (R237). -/
def packetDone (q seq : Nat) (s : State) : State :=
  match smapFind s.queues q with
  | none => s
  | some x => due .packetDispatch { s with queues := smapPut s.queues q { x with flights := x.flights.filter fun n => n != seq } }

/-- Clears the sealed bits of granules (R337). -/
def unsealAll (gs : List Nat) (s : State) : State :=
  gs.foldl (fun s g => { s with frames := smapSet 0 s.frames g (smapGet 0 s.frames g &&& 0xBFFF) }) s

/-- Unloads a retiring object that no launch runs (R347). -/
def unloadIdle (o : Nat) (s : State) : State :=
  let x := objOf s o
  if x.num = o ∧ x.retiring ∧ x.occ = 0 then unsealAll x.granules { s with objects := s.objects.filter fun y => y.num != o } else s

/-- Resets the partials that a launch published in the cores (R149). -/
def dropPartials (l : Nat) (s : State) : State :=
  s.cores.foldl (fun s k =>
    setCore k.1 { coreAt s k.1 with tiles := k.2.tiles.filter fun t => !(bitAt t.2.ctl.toNat 31 && t.2.last == some l) } s) s

def portRegs (s : State) (p : Port) : PortRegs := match p with | .portA => s.portA | .portB => s.portB

/-- Makes a teardown that waits for launches to end due again (R331). -/
def pokeTeardown (s : State) : State :=
  [Port.portA, Port.portB].foldl (fun s p => match (portRegs s p).mbox.run with
    | some c => if c % 256 = 0x11 then due (.tearDownDomain p c) s else s
    | none => s) s

/-- Ends a launch with a signal status: its object is released and its packet completes (R241, R252, R347). -/
def endLaunch (l : Nat) (status : Nat) (trapped : Bool) (cause index : Nat) (s : State) : State :=
  let x := launchOf s l
  if x.num ≠ l ∨ x.ended then s
  else
    let s := updLaunch l (fun x => { x with ended := true }) s
    let s := { s with wgs := s.wgs.map fun w => if w.launch = l then { w with phase := if w.phase = .done then .done else .stopped } else w }
    let st := status + (if isNarrow x then 256 else 0) + (if trapped then 512 else 0)
    let s := signalDone x.queue x.dom x.signal st cause index x.completed.length s
    let s := dropPartials l { s with mcasts := s.mcasts.filter fun m => m.launch != l }
    let s := { s with objects := updFirst (fun o => o.num == x.obj) (fun o => { o with occ := o.occ - 1 }) s.objects }
    pokeTeardown (packetDone x.queue x.seq (unloadIdle x.obj s))

/-- Whether a workgroup still occupies its core. -/
def onCore (w : Wg) : Bool :=
  match w.phase with
  | .resident => true
  | .stopping _ => true
  | _ => false

/-- Ends a stopped launch once none of its workgroups is on a core. -/
def endIfDrained (l : Nat) (s : State) : State :=
  match (launchOf s l).stop with
  | none => s
  | some st =>
    if s.wgs.any (fun w => w.launch == l && onCore w) then s else endLaunch l st.status st.trapped st.cause st.index s

/-- Whether a workgroup's core runs a fabric whose control flock is one of the workgroup's (R363). -/
def controls (s : State) (w : Wg) : Bool :=
  match (coreAt s w.core).fabric with
  | some f => w.slots.contains f.control
  | none => false

/-- Makes a workgroup's save due: in spatial mode the drain comes first, whose end makes the save (R361, R364). -/
def dueSave (l k : Nat) (s : State) : State :=
  let w := wgOf s l k
  if controls s w then
    let c := coreAt s w.core
    setCore w.core { c with fabric := c.fabric.map fun f => { f with draining := some s.time } } s
  else due (.workgroupSave l k) s

/-- Strength of a save cause (R359): trap, stop of the launch, page fault, pre-emption. -/
def causeRank (cause : Nat) : Nat := if cause = 3 then 4 else if cause = 4 then 3 else if cause = 2 then 2 else 1

/-- Stops a workgroup at its next instruction boundary for a save cause: the strongest event decides, and a breakpoint hold, the weakest,
gives way (R359). -/
def stopWg (cause l k : Nat) (s : State) : State :=
  let w := wgOf s l k
  match w.phase with
  | .resident => dueSave l k (updWg l k (fun w => { w with phase := .stopping cause, stopAt := s.time, halted := [] }) s)
  | .stopping c =>
    if w.holding then updWg l k (fun w => { w with phase := .stopping cause, trap := none, holding := false }) s
    else if causeRank c < causeRank cause then updWg l k (fun w => { w with phase := .stopping cause }) s
    else s
  | _ => s

/-- A flock of a workgroup that stops stands at its boundary. -/
def haltAt (l k flock : Nat) (s : State) : State := updWg l k (fun w => { w with halted := setInsert w.halted flock }) s

/-- Stops a launch (R252): no admission, every resident workgroup saved with save cause 4, the lowest trapping index reported. -/
def stopLaunch (l : Nat) (st : Stop) (s : State) : State :=
  let s := updLaunch l (fun x =>
    match x.stop with
    | none => { x with stop := some st }
    | some o => if o.trapped ∧ st.trapped ∧ st.index ≤ o.index then { x with stop := some st } else x) s
  (s.wgs.filter fun w => w.launch == l && onCore w).foldl (fun s w => stopWg 4 l w.index s) s

/-! ### Context frames (R259 to R261) -/

def roundUp (x n : Nat) : Nat := (x + n - 1) / n * n

/-- Offsets in a frame of F flocks of budget B: v registers, tile images, and the frame's size with a window of wn bytes. -/
def frameRegs (f : Nat) : Nat := 0x50000 + f * 0x1000
def frameTiles (f b : Nat) : Nat := roundUp (frameRegs f + f * b * 128) 4096
def frameSize (f b wn : Nat) : Nat := roundUp (frameTiles f b + 0x104000 + wn) 65536

/-- Address of a workgroup's frame, and of a flock's record in it. -/
def frameVa (l : Launch) (k : Nat) : Nat := l.frames + k % 256 * frameSize l.f l.b l.wn
def flockVa (l : Launch) (k f : Nat) : Nat := frameVa l k + 0x50000 + f * 0x1000

/-- A saved PC (R261). -/
def savedPc (p : Path) : Nat := p.pc + p.left % 16 * 2 ^ 58 + (if p.hint then 2 ^ 62 else 0)

/-- The stack entries of a flock record, bottom first (R261). -/
def stackBytes (st : List Path) : List Byte :=
  st.reverse.flatMap fun p => leBytes 8 (savedPc p) ++ leBytes 4 p.mask.toNat ++ leBytes 4 0

/-- A frame that cannot be written stops its launch with status 0x61 and no trap record (R259). -/
def frameLost (l : Nat) (s : State) : State := stopLaunch l { status := 0x61, trapped := false, cause := 0, index := 0 } s

/-- Replaces a flock; a divergence stack that has changed is written to its frame, which holds it at all times (R254, R259). -/
def setFlockStack (c f : Nat) (x : Flock) (s : State) : State :=
  let old := (flockAt s c f).stack
  let s := setFlock c f x s
  if x.stack = old then s
  else
    let l := launchOf s x.launch
    match deviceWrite l.dom true (flockVa l x.wg x.index + 0x400) (stackBytes x.stack) s with
    | (s, true) => s
    | (s, false) => frameLost x.launch s

def setCurStack (x : Flock) (s : State) : State := setFlockStack s.core s.slot x s

/-! ### Taking a trap (R55, R252, R357 to R359, R379) -/

/-- Bytes of a cause detail: offset from 0x60, width and value of each field. -/
def detailOf (fs : List (Nat × Nat × Nat)) : BitVec 256 :=
  BitVec.ofNat 256 (fs.foldl (fun a f => a + f.2.2 % 256 ^ f.2.1 * 256 ^ f.1) 0)

/-- Records a trap: the workgroup stops with save cause 3 and its launch is stopped, unless a breakpoint is held (R252, R379). -/
def recordTrap (held : Bool) (l k : Nat) (r : TrapRec) (s : State) : State :=
  let s := updWg l k (fun w => { w with trap := some r, holding := held, misses := [] }) (stopWg 3 l k s)
  if held then s else stopLaunch l { status := 0x60, trapped := true, cause := r.cause, index := k } s

/-- Whether a workgroup is being stopped for a save. -/
def isStopping (w : Wg) : Bool :=
  match w.phase with
  | .stopping _ => true
  | _ => false

/-- Whether a trap takes the place of the recorded one: a breakpoint hold gives way to another trap (R359), and of two traps in one clock
that of the lower flock is recorded (R358). -/
def trapLeads (s : State) (held : Bool) (w : Wg) (r old : TrapRec) : Bool :=
  if w.holding && !held then true
  else w.holding == held && w.stopAt == s.time && decide (r.flock < old.flock)

/-- The one entry into a trap: the first trap of a workgroup is recorded; a later one is counted (R358). A breakpoint that would be held
gives way to what already stops its workgroup (R359). -/
def trapAt (l k : Nat) (r : TrapRec) (s : State) : State :=
  let held := r.cause == 0x31 && s.mgmt.hold
  match findWg s l k with
  | none => s
  | some w =>
    haltAt l k r.flock (match w.trap with
      | none => if held && isStopping w then s else recordTrap held l k r s
      | some old =>
        let count := updWg l k fun w => { w with later := min 255 (w.later + 1) }
        if !trapLeads s held w r old then count s
        else if w.holding && !held then recordTrap held l k r s
        else count (recordTrap held l k r s))

/-- A record of the issuing path at its PC. -/
def trapRec (s : State) (cause : Nat) (m : Mask) (fs : List (Nat × Nat × Nat)) : TrapRec :=
  { cause := cause, flock := (cur s).index, pcSlot := if s.second then 1 else 0, mask := m, pc := (curPath s).pc, va := 0,
    hcause := 0, handle := 0, detail := detailOf fs, lane := 0xFF }

/-- A precise trap of the instruction at the issuing path: no other effect (R55). -/
def takeTrap (r : TrapRec) (s : State) : State := trapAt (cur s).launch (cur s).wg r s

/-- illegal-opcode (0x01): the instruction's words as fetched. -/
def illegalRec (ws : List Nat) (m : Mask) (s : State) : TrapRec :=
  trapRec s 0x01 m [(0, 4, ws.getD 0 0), (4, 4, ws.getD 1 0)]

/-- register-budget (0x05): the register, the allocation and a call target's budget. -/
def budgetRec (reg target : Nat) (m : Mask) (s : State) : TrapRec :=
  trapRec s 0x05 m [(0, 1, reg), (1, 1, (cur s).budget), (2, 1, target)]

/-- The checks every instruction makes first (R55): its form, then its v registers against the allocation (R62); then its effect. -/
def checked (i : Instr) (m : Mask) (legal : Bool) (regs : List Nat) (body : State → State) (s : State) : Out :=
  .next (if !legal then takeTrap (illegalRec (encode i) m s) s
    else match overBudget (cur s) regs with
      | some r => takeTrap (budgetRec r 0 m s) s
      | none => body s)

/-! ### Page faults (R257) -/

/-- A page fault of the issuing workgroup: it is saved with save cause 2, and the instruction executes again on restore. A trap of the
workgroup outranks it (R359). -/
def suspend (m : Mask) (va : Nat) (kind : AccKind) (level : Nat) (s : State) : State :=
  let l := (cur s).launch
  let k := (cur s).wg
  let w := wgOf s l k
  haltAt l k (cur s).index (if w.trap.isSome && !w.holding then s
    else
      let x : Miss := { va := va, kind := kind.entry, level := level,
                        rcd := { trapRec s 0x13 m [(0, 1, kind.code), (1, 1, level)] with va := va } }
      updWg l k (fun w => { w with misses := w.misses ++ [x] }) (stopWg 2 l k s))

/-! ### Yield points and paths (R46, R52, R253 to R255, R265) -/

/-- The words fetched ahead but for those of a PC slot. -/
def dropAhead (second : Bool) (m : SMap Word) : SMap Word := smapDrop m fun k => k % 2 == if second then 1 else 0

/-- A path comes into a PC slot: it has fetched none of the words that the slot's last path fetched ahead (R281). -/
def intoSlot (f : Flock) (second : Bool) (p : Path) : Flock := { withPath f second (some p) with ahead := dropAhead second f.ahead }

/-- Takes the top of the divergence stack into an empty slot (R253). -/
def refill (f : Flock) (second : Bool) : Flock :=
  match pathOf f second, f.stack with
  | none, p :: r => { intoSlot f second p with stack := r }
  | _, _ => f

/-- Restarts the count of R255. -/
def restartCount (clk : Nat) (f : Flock) : Flock := { f with swapBase := clk }

/-- The swap of R255: the slot's path goes to the bottom of the stack, the top comes in; a nap's rest is discarded (R278) and the reuse
latch released (R41). -/
def swapPath (clk : Nat) (second : Bool) (f : Flock) : Flock :=
  match pathOf f second, f.stack with
  | some p, q :: r =>
    let p := match p.wait with
      | .nap _ => { p with wait := .none }
      | _ => p
    restartCount clk { intoSlot f second q with stack := r ++ [p], latch := none }
  | _, _ => f

/-- A yield point of a slot (R255): a yield swaps at once, or with nothing stacked gives the flock's next turn away (R45); another yield
point swaps once the count has reached 4,096. -/
def yieldPoint (isYield : Bool) (clk : Nat) (second : Bool) (f : Flock) : Flock :=
  if isYield && f.stack.isEmpty then { f with yielded := true }
  else if isYield || decide (Config.swapLimit ≤ clk - f.swapBase) then swapPath clk second f else f

/-- A path past n words of its clause. -/
def stepPath (n : Nat) (p : Path) : Path := { p with pc := p.pc + 4 * n, left := p.left - n, wait := .none }

/-- Moves a slot's path past n words; a hinted clause that ends is a yield, after which its hint is spent (R52). -/
def advancePath (n clk : Nat) (second : Bool) (f : Flock) : Flock :=
  match pathOf f second with
  | none => f
  | some p =>
    if p.left ≤ n ∧ p.hint then yieldPoint true clk second (withPath f second (some { stepPath n p with hint := false }))
    else withPath f second (some (stepPath n p))

/-- Completes an instruction of n words at the issuing path. -/
def advance (n : Nat) (s : State) : State := setCurStack (advancePath n (clockOf s s.core) s.second (cur s)) s

/-- Marks what the issuing path waits for. -/
def waitFor (w : Wait) (s : State) : State := mapCurPath (fun p => { p with wait := w }) s

/-- The issuing path blocks at an instruction that is a yield point. -/
def blockAt (w : Wait) (s : State) : State :=
  let s := waitFor w s
  setCurStack (yieldPoint false (clockOf s s.core) s.second (cur s)) s

/-- Code offset of the next clause header (R46). -/
def nextHeader (p : Path) : Nat := p.pc + 4 * p.left

/-- A path at a clause header. -/
def pathAt (pc : Nat) (m : Mask) : Path := { pc := pc, left := 0, hint := false, mask := m, setA := 15, setB := 15, wait := .none }

/-- Inserts an address into ascending groups, joining threads that go to one address. -/
def groupInsert (pc : Nat) (m : Mask) : List (Nat × Mask) → List (Nat × Mask)
  | [] => [(pc, m)]
  | (q, n) :: r => if pc < q then (pc, m) :: (q, n) :: r else if pc = q then (q, n ||| m) :: r else (q, n) :: groupInsert pc m r

/-- The groups of R265: the threads that fall through first, then ascending targets. dest gives each live thread's address. -/
def groupsOf (fall : Nat) (live : Mask) (dest : Nat → Nat) : List (Nat × Mask) :=
  let stay := maskOf fun t => inMask live t && dest t == fall
  let rest := (threadsOf live).foldl (fun g t => if dest t = fall then g else groupInsert (dest t) (1 <<< t) g) []
  (if stay = 0 then [] else [(fall, stay)]) ++ rest

/-- How many of n paths R265 pushes onto the stack. -/
def pushCount (f : Flock) (second : Bool) (n : Nat) : Nat := n - 1 - (if (pathOf f !second).isNone then 1 else 0)

/-- Places paths under R265: a second path that finds the other slot taken is pushed first, so the rest lie above it, the lowest address on
top. -/
def placePaths (clk : Nat) (second : Bool) (gs : List (Nat × Mask)) (f : Flock) : Flock :=
  match gs with
  | [] => refill (withPath f second none) second
  | (pc, m) :: r =>
    let f := withPath f second (some (pathAt pc m))
    match r with
    | [] => f
    | (pc', m') :: r' =>
      if (pathOf f !second).isNone then
        let f := intoSlot f (!second) (pathAt pc' m')
        if r' = [] then f else restartCount clk { f with stack := r'.map (fun g => pathAt g.1 g.2) ++ f.stack }
      else restartCount clk { f with stack := r'.map (fun g => pathAt g.1 g.2) ++ pathAt pc' m' :: f.stack }

/-- A transfer of the issuing path to groups, after its checks; a backward one is a yield point, and a hinted clause ends in a yield after
the transfer (R52, R264, R265). -/
def transfer (gs : List (Nat × Mask)) (backward : Bool) (s : State) : State :=
  let clk := clockOf s s.core
  let hinted := (curPath s).hint
  let f := placePaths clk s.second gs (cur s)
  setCurStack (if hinted || backward then yieldPoint hinted clk s.second f else f) s

/-! ### Flocks of a workgroup -/

/-- The flock slots of a workgroup's unretired flocks, with their flocks. -/
def flocksOf (s : State) (w : Wg) : List (Nat × Flock) := w.slots.map fun f => (f, flockAt s w.core f)

/-- Whether a flock counts as arrived at barrier n (R276): arrived and exited threads cover all 32. -/
def hasArrived (n : Nat) (f : Flock) : Bool := (smapGet 0 f.arrived n ||| f.exited) == BitVec.allOnes 32

def releasePath (n : Nat) (p : Path) : Path := if p.wait = .bar n then stepPath 1 p else p

/-- Releases the paths of one flock that wait at barrier n, and clears its marks (R276). -/
def releaseFlock (n clk : Nat) (f : Flock) : Flock :=
  let one (second : Bool) (f : Flock) : Flock :=
    match pathOf f second with
    | some p => if p.wait = .bar n then advancePath 1 clk second f else f
    | none => f
  let f := { f with stack := f.stack.map (releasePath n), arrived := smapSet 0 f.arrived n 0 }
  one true (one false f)

/-- Whether every earlier access of the threads that have arrived at barrier n is performed: passing it is a release (R42, R217). -/
def allPerformed (s : State) (w : Wg) (n : Nat) : Bool :=
  (flocksOf s w).all fun x => (openOps s w.core x.1).all fun e => e.mask &&& smapGet 0 x.2.arrived n == 0

/-- Completes barrier n of a workgroup if every flock has arrived, and what they accessed before is performed (R42, R276; log entry 13); its
paths leave their wait (R378). -/
def barrierCheck (l k n : Nat) (s : State) : State :=
  let w := wgOf s l k
  if (flocksOf s w).all (fun x => hasArrived n x.2) ∧ (flocksOf s w).any (fun x => smapGet 0 x.2.arrived n != 0) ∧ allPerformed s w n then
    w.slots.foldl (fun s f => setFlockStack w.core f (releaseFlock n (clockOf s w.core) (flockAt s w.core f)) s)
      (updWg l k (fun w => { w with blocked := 0 }) s)
  else s

/-- Every barrier of a workgroup, after a flock exited or retired. -/
def barriersCheck (l k : Nat) (s : State) : State := (List.range 16).foldl (fun s n => barrierCheck l k n s) s

/-- Makes a flock's retirement due once its threads have exited and its long-latency work is complete (R275). -/
def retireCheck (c f : Nat) (s : State) : State :=
  let x := flockAt s c f
  if x.exited = BitVec.allOnes 32 ∧ x.pending = [] ∧ x.launch ≠ 0 then due (.flockRetirement c f) s else s

/-- Makes a workgroup's completion due once its flocks have retired (R275). -/
def completeCheck (l k : Nat) (s : State) : State :=
  let w := wgOf s l k
  if w.phase = .resident ∧ w.slots = [] then due (.workgroupCompletion l k) s else s

/-! ### Long-latency work (R48, R49) -/

/-- The completion flag that an instruction's flag bit selects (R46, R58): none for 15. -/
def flagOf (p : Path) (f : Nat) : Option Nat :=
  let n := if f = 0 then p.setA else p.setB
  if n = 15 then none else some n

/-- Whether the increment of R48 would take a flag to 64. -/
def flagFull (s : State) (f : Nat) : Bool :=
  match flagOf (curPath s) f with
  | some n => decide (63 ≤ getCf (cur s) n)
  | none => false

def noPending : Pending :=
  { uid := 0, flag := none, vw := [], vm := [], sw := [], bw := none, tile := none, product := false, lines := [], fe := none, origin := none,
    rcd := 0, lane := none, pad := none, units := [] }

/-- The products that a core's matrix unit takes next: their completions become due (R142). -/
def wakeUnit (core : Nat) (s : State) : State :=
  (coreAt s core).flocks.foldl (fun s f => (f.2.pending.filter fun p => p.product && !unitBusy s core p.uid).foldl
    (fun s p => due (.longLatencyCompletion core f.1 p.uid) s) s) s

/-- Issues a long-latency instruction: its flag is incremented and its completion becomes due. -/
def issueLong (f : Nat) (p : Pending) (s : State) : State :=
  let uid := s.fresh
  let flag := flagOf (curPath s) f
  let x := cur s
  let x := match flag with
    | some n => putCf x n (getCf x n + 1)
    | none => x
  let s := setCur { x with pending := x.pending ++ [{ p with uid := uid, flag := flag }] } { s with fresh := uid + 1 }
  due (.longLatencyCompletion s.core s.slot uid) s

/-- A free value and the counter's next state. -/
def takeFree (s : State) : State := { s with fresh := s.fresh + 1 }

end Sys2Proof.Machine
end

