-- ==== Sys2Proof/Machine/Faults.lean ====
section
/-! DEFINITION. Fault entries and their ring (R257, R258). -/

namespace Sys2Proof.Machine

/-- Whether the ring takes another entry: a base is set and fewer than 4,096 written entries have not been resumed. -/
def ringOpen (s : State) : Bool :=
  s.mgmt.faultRing != 0 && decide ((s.faults.countP fun e => e.written) < 4096)

/-- Writes one entry to the ring. One whose ring page cannot be written is counted and stands as written (DESIGN CHOICE, log entry 87). -/
def writeFault (e : FaultEntry) (s : State) : State :=
  let d := leBytes 8 e.va ++ leBytes 2 e.dom ++ leBytes 1 e.kind ++ leBytes 1 0 ++ leBytes 4 e.tag ++ leBytes 16 0
  let (s, _) := deviceWrite 0 true (s.mgmt.faultRing * 4096 + 32 * (s.mgmt.faultHead % 4096)) d s
  { s with mgmt := { s.mgmt with faultHead := s.mgmt.faultHead + 1 },
           faults := s.faults.map fun x => if x.tag = e.tag then { x with written := true } else x }

/-- A fault of who: its entry is written at once, or held back behind the ring's room and earlier entries. -/
def newFault (dom va kind level : Nat) (who : FaultFor) (rcd : Option TrapRec) (s : State) : State :=
  let e : FaultEntry :=
    { tag := s.mgmt.nextTag, va := va, dom := dom, kind := kind, level := level, who := who, rcd := rcd, written := false }
  let waits := s.faults.any fun x => !x.written
  let s := { s with faults := s.faults ++ [e], mgmt := { s.mgmt with nextTag := (s.mgmt.nextTag + 1) % 2 ^ 32 } }
  if waits || !ringOpen s then s else writeFault e s

end Sys2Proof.Machine
end

