-- ==== Sys2Proof/Machine/Fetch.lean ====
section
/-! DEFINITION. Fetching instruction words through a core's instruction cache (R264, R280, R332, R334, R353, R370). -/

namespace Sys2Proof.Machine

/-- Where a core's instruction cache keeps the word of a domain at an address. -/
def icacheKey (dom va : Nat) : Nat := dom * 2 ^ 57 + va

/-- A page check that failed, as a trap record of the issuing path (R357): access kind, level, reason and unit. -/
def pageRec (s : State) (k : AccKind) (m : Mask) (va cause level reason unit : Nat) : TrapRec :=
  { trapRec s cause m ([(0, 1, k.code), (1, 1, level)] ++ (if cause = 0x16 then [(2, 1, reason), (4, 2, unit)] else [])) with va := va }

/-- The base of the 64 KiB unit a record names for an address (log entry 11). -/
def unitBase (va : Nat) : Nat := va / 65536 * 65536

/-- Poison met by an instruction (R357, R370). -/
def poisonRec (s : State) (source : Nat) (m : Mask) (va : Nat) : TrapRec := { trapRec s 0x1A m [(0, 1, source)] with va := va }

/-- What reading an instruction word gives. -/
inductive CodeRead where
  | word (w : Nat)
  | absent (level : Nat)
  | bad (cause level reason unit : Nat)
  | poison
  deriving DecidableEq, Repr

/-- Reads the word at a code offset for the issuing path: the instruction cache serves it, or its page's home, and the cache then holds it.
In a lease-mode page the read is made by no core (DESIGN CHOICE, log entry 110). -/
def readCode (off : Nat) (s : State) : State × CodeRead :=
  let dom := (curLaunch s).dom
  let va := (curObj s).va + off
  match smapFind (coreAt s s.core).icache (icacheKey dom va) with
  | some w => (s, .word w.toNat)
  | none =>
    match pageFor (curAgent s) .fetch va s with
    | (s, .absent level) => (s, .absent level)
    | (s, .bad cause level reason unit _) => (s, .bad cause level reason unit)
    | (s, .ok x) =>
      let s := verifyElement x va 4 s
      if elementBad s x va 4 then (s, .poison)
      else
        let (s, l) := loadBytes none x va 4 s
        let w := leNat l
        let k := coreAt s s.core
        (setCore s.core { k with icache := smapPut k.icache (icacheKey dom va) (BitVec.ofNat 32 w) } s, .word w)

/-- Key of a word fetched ahead. -/
def aheadKey (off : Nat) (second : Bool) : Nat := 2 * off + if second then 1 else 0

/-- The word at a code offset as the issuing path sees it: the one it has fetched ahead, or one read now; none where the fetch faults, which
it then has taken. -/
def peekWord (off : Nat) (s : State) : State × Option Nat :=
  let va := unitBase ((curObj s).va + off)
  let m := liveMask (cur s) (curPath s)
  match smapFind (cur s).ahead (aheadKey off s.second) with
  | some w => (s, some w.toNat)
  | none =>
    match readCode off s with
    | (s, .word w) => (s, some w)
    | (s, .absent level) => (suspend m va .fetch level s, none)
    | (s, .bad cause level reason unit) => (takeTrap (pageRec s .fetch m va cause level reason unit) s, none)
    | (s, .poison) => (takeTrap (poisonRec s 0 m va) s, none)

/-- Fetches the word at a code offset for the issuing path: a word fetched ahead is used up. -/
def fetchWord (off : Nat) (s : State) : State × Option Nat :=
  match smapFind (cur s).ahead (aheadKey off s.second) with
  | some w => (setCur { cur s with ahead := smapDrop (cur s).ahead fun k => k == aheadKey off s.second } s, some w.toNat)
  | none => peekWord off s

/-- Drops a core's copies of words, by their keys (R280, R380). -/
def dropWords (gone : Nat → Bool) (core : Nat) (s : State) : State :=
  let k := coreAt s core
  setCore core { k with icache := smapDrop k.icache gone } s

/-- A path fetches a word ahead of its use (R281, R353): the words of one path are fetched independently, and a fetch that faults is
dropped. -/
def fetchAhead (core slot : Nat) (second : Bool) (off : Nat) (s : State) : State :=
  let t := { s with core := core, slot := slot, second := second }
  if (cur t).launch = 0 ∨ (pathOf (cur t) second).isNone ∨ off % 4 ≠ 0 then s
  else
    let (t, r) := readCode off t
    let t := match r with
      | .word w => setCur { cur t with ahead := smapPut (cur t).ahead (aheadKey off second) (BitVec.ofNat 32 w) } t
      | _ => t
    { t with core := s.core, slot := s.slot, second := s.second }

/-- A core drops its copy of a word (R353). -/
def dropCode (core dom va : Nat) (s : State) : State := dropWords (fun k => k == icacheKey dom va) core s

/-- Whether a word lies in a loaded object of a domain, at the object's own word places. -/
def codeWordAt (s : State) (dom va : Nat) : Bool :=
  s.objects.any fun o => o.dom == dom && decide (o.va ≤ va) && decide (va + 4 ≤ o.va + o.len) && (va - o.va) % 4 == 0

/-- Keeps the value that a word of a loaded object holds at its home, with a stamp. A word that cannot be read is not kept. -/
def keepCode (dom va : Nat) (s : State) : State :=
  if !codeWordAt s dom va then s
  else match devicePage dom false .fetch va s with
    | (s, none) => s
    | (s, some x) =>
      let s := verifyElement x va 4 s
      if elementBad s x va 4 then s
      else
        let (s, l) := loadBytes none x va 4 s
        let key := icacheKey dom va
        { s with codeSeen := smapPut s.codeSeen key (smapGet [] s.codeSeen key ++ [(s.fresh, BitVec.ofNat 32 (leNat l))]), fresh := s.fresh + 1 }

/-- Where a flock's drop of a word, and a thread's fetch barrier after it, stand in its workgroup. -/
def dropKey (key index : Nat) : Nat := 32 * key + index
def fenceKey (key index t : Nat) : Nat := 32 * dropKey key index + t

/-- Whether a fetch of the issuing path may find a value of a word that was kept at a stamp: no icinv of the word that a fetchb of one of
its threads followed has come since (R216 note 6, R353). -/
def mayFetch (s : State) (key stamp : Nat) : Bool :=
  (threadsOf (liveMask (cur s) (curPath s))).all fun t => decide (smapGet 0 (curWg s).fenced (fenceKey key (cur s).index t) ≤ stamp)

/-- A path fetches a word ahead of its use and finds the n-th value kept of it, where its fetch barriers allow that (R353). -/
def fetchOld (core slot : Nat) (second : Bool) (off n : Nat) (s : State) : State :=
  let t := { s with core := core, slot := slot, second := second }
  let key := icacheKey (curLaunch t).dom ((curObj t).va + off)
  if (cur t).launch = 0 ∨ (pathOf (cur t) second).isNone ∨ off % 4 ≠ 0 then s
  else match (smapGet [] s.codeSeen key)[n]? with
    | none => s
    | some (stamp, w) =>
      if mayFetch t key stamp then setFlock core slot { cur t with ahead := smapPut (cur t).ahead (aheadKey off second) w } s else s

/-- Notes for the issuing flock that its icinv drops words of which values are kept. -/
def noteDrop (gone : Nat → Bool) (s : State) : State :=
  updWg (cur s).launch (cur s).wg (fun w =>
    { w with
      invals := (s.codeSeen.filter fun e => gone e.1).foldl (fun m e => smapPut m (dropKey e.1 (cur s).index) s.fresh) w.invals }) s

/-- Every later fetch of a workgroup finds none of the values kept of words before (R380). -/
def fenceWg (gone : Nat → Bool) (l k : Nat) (s : State) : State :=
  updWg l k (fun w =>
    { w with
      fenced := (s.codeSeen.filter fun e => gone e.1).foldl (fun m e =>
        (List.range 1024).foldl (fun m x => smapPut m (fenceKey e.1 0 x) s.fresh) m) w.fenced }) s

/-- A fetch barrier of the issuing path (R281): its later fetches follow every icinv of its flock before it. -/
def fencePath (s : State) : State :=
  let threads := threadsOf (liveMask (cur s) (curPath s))
  updWg (cur s).launch (cur s).wg (fun w =>
    { w with
      fenced := (w.invals.filter fun e => e.1 % 32 == (cur s).index).foldr (fun e m =>
        threads.foldl (fun m t => smapPut m (32 * e.1 + t) e.2) m) w.fenced }) s

/-- Reads n words from a code offset. -/
def peekWords : Nat → Nat → State → State × Option (List Nat)
  | 0, _, s => (s, some [])
  | n + 1, off, s =>
    match peekWord off s with
    | (s, none) => (s, none)
    | (s, some w) =>
      match peekWords n (off + 4) s with
      | (s, none) => (s, none)
      | (s, some l) => (s, some (w :: l))

/-- Fetches the instruction at the issuing path's PC: one word, or two for a long form (R53, R54). -/
def fetchInstr (s : State) : State × Option (List Nat) :=
  let pc := (curPath s).pc
  match fetchWord pc s with
  | (s, none) => (s, none)
  | (s, some w) =>
    if isLongMajor (bits w 31 25) then
      match fetchWord (pc + 4) s with
      | (s, none) => (s, none)
      | (s, some w2) => (s, some [w, w2])
    else (s, some [w])

/-- The threads active in an instruction whose word decodes to none (R357): every thread of the path where the major acts whatever its
predicates (sel, fence, bar, fetchb); else its guard, negated where the major has a negation bit that is set. -/
def wordMask (s : State) (w : Nat) : Mask :=
  let major := bits w 31 25
  if [0x0D, 0x39, 0x58, 0x5D].contains major then liveMask (cur s) (curPath s)
  else activeIf (cur s) (curPath s) (bits w 24 22) (bitAt w 1 && [0x0C, 0x50, 0x51, 0x52, 0x53, 0x54, 0x55, 0x72, 0x73].contains major)

end Sys2Proof.Machine
end

