-- ==== Sys2Proof/Machine/Forms.lean ====
section
/-! DEFINITION. Which field codes of each instruction the spec assigns (R55, R62, R69 and each instruction's own rule): a field outside
them raises illegal-opcode when the instruction executes. -/

namespace Sys2Proof.Machine

/-- Whether every field of an instruction holds an assigned code. Device events have none; the reserved majors never do (R69). -/
def legalForm : Instr → Bool
  | .iadd _ _ _ _ c _ => decide (c < 3)
  | .isub _ _ _ _ c _ => decide (c < 3)
  | .imul _ _ _ _ c _ => decide (c < 3)
  | .andB _ _ _ _ c _ => decide (c < 3)
  | .orB _ _ _ _ c _ => decide (c < 3)
  | .xorB _ _ _ _ c _ => decide (c < 3)
  | .shl _ _ _ _ c _ => decide (c < 3)
  | .shr _ _ _ _ c _ => decide (c < 3)
  | .imin _ _ _ _ c _ => decide (c < 3)
  | .imax _ _ _ _ c _ => decide (c < 3)
  | .iabsd _ _ _ _ c _ => decide (c < 3)
  | .bitcount _ _ _ b c _ => (c == 0 || c == 2) && decide (b < 3)
  | .bfe _ _ _ _ c t => decide (c < 3) && decide (t < 2)
  | .mov _ _ _ _ _ => true
  | .sel _ _ _ _ c => decide (c < 3)
  | .max2sel _ _ _ _ _ _ _ => true
  | .sreg _ _ sx u c => decide (sx ≤ 16) && !(u == 1 && decide (sx < 2)) && (c == 0 || sx == 15)
  | .fadd _ _ _ _ c t => decide (c < 3) && decide (t < 3)
  | .fsub _ _ _ _ c t => decide (c < 3) && decide (t < 3)
  | .fmul _ _ _ _ c t => decide (c < 3) && decide (t < 3)
  | .fmin _ _ _ _ c t => decide (c < 3) && decide (t < 3)
  | .fmax _ _ _ _ c t => decide (c < 3) && decide (t < 3)
  | .fcmp _ _ _ _ _ c t => decide (c < 3) && t == 0
  | .frcp _ _ _ _ c t => (c == 0 || c == 2) && decide (t < 3)
  | .frsq _ _ _ _ c t => (c == 0 || c == 2) && decide (t < 3)
  | .fex2 _ _ _ _ c t => (c == 0 || c == 2) && decide (t < 3)
  | .flg2 _ _ _ _ c t => (c == 0 || c == 2) && decide (t < 3)
  | .fsin _ _ _ _ c t => (c == 0 || c == 2) && decide (t < 3)
  | .fcos _ _ _ _ c t => (c == 0 || c == 2) && decide (t < 3)
  | .fclass _ _ _ c t => (c == 0 || c == 2) && decide (t < 3)
  | .fscale _ _ _ _ c t => decide (c < 3) && decide (t < 3)
  | .fround _ _ _ _ r c t => (c == 0 || c == 2) && decide (t < 3) && decide (r < 5)
  | .cvt _ _ _ f _ r => decide (f < 5) && decide (r < 5)
  | .cvti _ _ _ f r => decide (f < 9) && decide (r < 5)
  | .pack _ _ _ _ c t => decide (c < 3) && decide (t < 2)
  | .unpack _ _ _ t _ ix => decide (t < 9) && decide (ix < if t = 8 then 8 else if t = 0 ∨ t = 1 ∨ t = 4 ∨ t = 5 then 2 else 4)
  | .cbdec _ _ _ _ _ _ => true
  | .cbload _ _ _ _ => true
  | .mxscale _ _ _ e => decide (e < 3)
  | .icmp _ k _ _ _ c t => decide (c < 3) && decide (t < 2) && decide (k < 6)
  | .pop _ _ _ _ _ => true
  | .ballot _ _ _ _ => true
  | .agree _ _ _ t => decide (t < 3)
  | .matchK _ _ _ w => decide (w < 3)
  | .xpick _ _ _ b sx m => decide (m < 3) && decide (sx < 3) && !(sx == 2 && decide (32 ≤ b))
  | .xfold _ _ _ _ _ o => decide (o < 6)
  | .lead _ _ a m => m == 1 || a == 0
  | .ld _ d _ _ _ _ z _ => decide (z < 6) && !(z == 5 && d % 2 == 1)
  | .st _ d _ _ _ _ z _ => decide (z < 6) && !(z == 5 && d % 2 == 1)
  | .ldsp _ d _ _ _ _ z _ => decide (z < 6) && !(z == 5 && d % 2 == 1)
  | .stsp _ d _ _ _ _ z _ => decide (z < 6) && !(z == 5 && d % 2 == 1)
  | .atom _ _ _ _ _ _ o => o != 7 && o != 15
  | .red _ _ _ _ _ o => (decide (o < 4) || decide (8 ≤ o) && decide (o < 15))
  | .atomsp _ _ _ _ _ _ o => o != 7 && o != 15
  | .ldfe _ _ _ _ _ _ _ => true
  | .stfe _ _ _ _ _ _ _ => true
  | .fence sx o => decide (1 ≤ sx) && decide (sx < 6) && decide (1 ≤ o) && decide (o < 4)
  | .ldb _ _ _ _ _ => true
  | .cache _ _ _ _ _ o => decide (1 ≤ o) && decide (o < 4)
  | .prefetch _ _ _ _ _ o => decide (o < 2)
  | .tick _ _ _ => true
  | .accTake _ _ => true
  | .accFree _ _ => true
  | .accZero _ _ => true
  | .accRd _ d _ _ _ => d % 8 == 0
  | .region _ _ _ => true
  | .compress _ d a _ _ _ p _ => decide (p < 3) && a % 8 == 0 && (if p < 2 then d % 4 == 0 else d % 2 == 0)
  | .cp _ _ _ _ _ _ => true
  | .cpColl _ _ _ _ _ _ => true
  | .cpwait _ _ _ => true
  | .cpfree _ _ => true
  | .gather _ _ _ _ _ _ _ => true
  | .scatter _ _ _ _ _ _ _ => true
  | .mcast _ _ _ _ _ _ => true
  | .coll _ _ sx _ _ o => sx % 4 == 0 && decide (o < 8)
  | .hstat _ _ _ => true
  | .bra _ _ _ _ => true
  | .brx _ _ _ _ _ _ => true
  | .callI _ _ _ _ => true
  | .callx _ _ _ _ _ _ => true
  | .ret _ _ _ => true
  | .exitI _ _ => true
  | .fabEnter _ _ => true
  | .fabLeave _ => true
  | .bar n => decide (n < 16)
  | .yield _ => true
  | .nap _ n u => u == 0 || n % 64 == 0
  | .trapI _ _ => true
  | .icinv _ _ _ _ => true
  | .fetchb => true
  | .strm _ d sx _ w => sx % 4 == 0 && (w == 1 || d == 0)
  | .sysopHarvest _ _ _ _ => true
  | .sysopUnpoison _ _ _ _ => true
  | .imad _ d _ _ c t cc fm => decide (c < 3) && decide (fm < 3) && !(fm == 2 && (decide (2 ≤ t) || d % 2 == 1 || cc % 2 == 1))
  | .bfi _ _ _ _ c t _ fm => decide (c < 3) && t == 0 && fm == 0
  | .ffma _ _ _ _ c t _ fm => decide (c < 3) && decide (t < 3) && decide (fm % 8 < 5)
  | .movI _ _ c t _ => (c == 0 || c == 2) && decide (t < 2)
  | .iaddI _ _ _ c _ _ => c == 0 || c == 2
  | .fcmpI _ _ _ _ c t _ => (c == 0 || c == 2) && t == 0
  | .icmpI _ k _ _ c t _ => (c == 0 || c == 2) && decide (t < 2) && decide (k < 6)
  | .ldo _ d _ _ ord sc z _ _ _ _ => decide (z < 6) && !(z == 5 && d % 2 == 1) && (if ord = 0 then sc == 0 else ord == 1 && decide (1 ≤ sc) && decide (sc < 6))
  | .sto _ d _ _ ord sc z _ _ _ _ => decide (z < 6) && !(z == 5 && d % 2 == 1) && (if ord = 0 then sc == 0 else ord == 2 && decide (1 ≤ sc) && decide (sc < 6))
  | .atomo _ d _ _ n o cc _ sc z _ _ _ _ => (z == 4 || z == 5) && o != 15 && !(decide (12 ≤ o) && z != 4) && decide (1 ≤ sc) && decide (sc < 6) && (n == 1 || d == 0) &&
    !(z == 5 && (cc % 2 == 1 || (n == 1 && d % 2 == 1) || (o == 7 && cc % 4 != 0)))
  | .redo _ _ _ o cc ord sc z _ _ _ _ => (z == 4 || z == 5) && (decide (o < 4) || decide (8 ≤ o) && decide (o < 15)) && !(decide (12 ≤ o) && z != 4) && (ord == 0 || ord == 2) && (sc == 3 || sc == 4) &&
    !(z == 5 && cc % 2 == 1)
  | .mma _ _ a b _ src cc fm _ => decide (fm < 8) && a % 8 == 0 && !(src == 1 && decide (16 ≤ b)) &&
    (if fm = 7 then decide (cc < 8) else fm == 5 || fm == 6 || cc == 0)
  | .mmaSp _ _ a b _ pat src cc fm _ => decide (fm < 5) && decide (pat < 3) && a % 8 == 0 && cc % 8 == 0 && !(src == 1 && decide (16 ≤ b))
  | .mmaDec _ _ a b _ pat src cc _ fm _ => decide (fm < 4) && decide (pat < 3) && a % 8 == 0 && cc % 4 == 0 && !(src == 1 && decide (16 ≤ b))
  | .cpx _ _ _ _ k _ cc ord sc _ _ _ _ => (ord == 0 || ord == 2) && decide (2 ≤ sc) && decide (sc < 6) && (if k = 2 then cc % 2 == 0 else cc == 0)
  | .paddock _ _ _ _ _ => true
  | .braL _ _ _ off => off % 4 == 0
  | .callL _ _ _ off => off % 4 == 0
  | .strmL _ d w _ _ offlo => offlo % 16 == 0 && (w == 1 || d == 0)
  | .reservedMajor _ _ => false
  | .clauseStart .. => true
  | .longLatencyCompletion .. => true
  | .swapCountExpiry .. => true
  | .napEnd .. => true
  | .flockRetirement .. => true
  | .workgroupCompletion .. => true
  | .doorbellWrite .. => true
  | .queueSyncWrite .. => true
  | .queueTableWrite .. => true
  | .packetDispatch .. => true
  | .launchPacket .. => true
  | .copyPacket .. => true
  | .barrierAndPacket .. => true
  | .signalPacket .. => true
  | .paddockPacket .. => true
  | .homeChangePacket .. => true
  | .homeChangeComplete .. => true
  | .slotIdleUnmap .. => true
  | .workgroupAdmission .. => true
  | .quantumBoundary .. => true
  | .workgroupSave .. => true
  | .workgroupRestore .. => true
  | .faultResumeWrite .. => true
  | .faultRingWrite .. => true
  | .faultEntryDeferredWrite .. => true
  | .copyLastByteLanded .. => true
  | .copyPageFailure .. => true
  | .mcastDelivery .. => true
  | .fullEmptyReissue .. => true
  | .updateSharerAck .. => true
  | .paddockLineEviction .. => true
  | .paddockLineMove .. => true
  | .paddockShareArrival .. => true
  | .paddockResizeComplete .. => true
  | .autoTick .. => true
  | .tileReleaseEffective .. => true
  | .operatorFiring .. => true
  | .sourceStart .. => true
  | .sourceAppend .. => true
  | .sinkTake .. => true
  | .streamCommandCompletion .. => true
  | .controlTokenArrival .. => true
  | .spatialDrainEnd .. => true
  | .spatialRestore .. => true
  | .cfgOwnRead .. => true
  | .cfgOwnTickDecision .. => true
  | .cfgOwnWrite .. => true
  | .portLinkLoss .. => true
  | .ownershipLapse .. => true
  | .pwrModeWrite .. => true
  | .islandLimitWrite .. => true
  | .configRegisterWrite .. => true
  | .apertureRead .. => true
  | .apertureWrite .. => true
  | .tlbInvGoWrite .. => true
  | .tlbInvalidationDone .. => true
  | .setDomain .. => true
  | .tearDownDomain .. => true
  | .assignFrames .. => true
  | .loadKey .. => true
  | .eraseKey .. => true
  | .attest .. => true
  | .stageFirmware .. => true
  | .checkStagedImage .. => true
  | .loadCodeObject .. => true
  | .unloadCodeObject .. => true
  | .translatePortableObject .. => true
  | .setTranslationCache .. => true
  | .mboxUnknownCommand .. => true
  | .moduleReset .. => true
  | .firmwareVerificationDone .. => true
  | .thermalStepDown .. => true
  | .thermalStepUp .. => true
  | .thermalStop .. => true
  | .islandClockSwitch .. => true
  | .cxlDeviceEnumeration .. => true
  | .watchdogBlockedLimit .. => true
  | .watchdogRunLimit .. => true
  | .correctedError .. => true
  | .uncorrectableMemoryError .. => true
  | .uncorrectableCoreStateError .. => true
  | .agentLoss .. => true
  | .writeArrivingOverCxl .. => true

end Sys2Proof.Machine
end

