-- ==== Sys2Proof/Machine/RegOp.lean ====
section
/-! DEFINITION. The shared shapes of the register instructions (R59, R62, R100, R101): every source is read before a destination is
written, results and flags go out together, and the path moves on. -/

namespace Sys2Proof.Machine

/-- The words of an instruction. -/
def wordsOf (i : Instr) : Nat := (encode i).length

/-- The state after an instruction whose only effect is on the issuing flock. -/
def finish (i : Instr) (g : Flock → Flock) (s : State) : State := advance (wordsOf i) (setCur (g (cur s)) s)

/-- An instruction that writes one register (R100): the form and the allocation are checked, then r gives each thread's result and flags
from the flock as it stood. -/
def regOp (i : Instr) (m : Mask) (d : Dst) (srcs : List Src) (r : Flock → Nat → Word × Nat) (s : State) : Out :=
  checked i m (legalForm i) (dstRegs d ++ srcs.flatMap srcRegs) (finish i fun f => emit f m d (r f)) s

/-- An instruction that writes one predicate in every active thread (R101). -/
def predOp (i : Instr) (m : Mask) (p : Nat) (srcs : List Src) (r : Flock → Nat → Bool) (s : State) : Out :=
  checked i m (legalForm i) (srcs.flatMap srcRegs) (finish i fun f => putP f p m (maskOf (r f))) s

/-- A two-operand instruction of R56, element by element: op takes the element width and its operands. -/
def binOp (i : Instr) (g d a b c : Nat) (packed : Bool) (op : Nat → Nat → Nat → Nat × Nat) (s : State) : Out :=
  regOp i (active s g) (dstOf c d) [srcOf c a, srcB c b]
    (fun f t => perElement packed (fun w x y _ => op w x y) (readSrc f (srcOf c a) t) (readSrc f (srcB c b) t) 0) s

/-- A one-operand instruction of R56, element by element. -/
def unOp (i : Instr) (g d a c : Nat) (packed : Bool) (op : Nat → Nat → Nat × Nat) (s : State) : Out :=
  regOp i (active s g) (dstOf c d) [srcOf c a]
    (fun f t => perElement packed (fun w x _ _ => op w x) (readSrc f (srcOf c a) t) 0 0) s

end Sys2Proof.Machine
end

