-- ==== Sys2Proof/Machine/Access.lean ====
section
/-! DEFINITION. The access of one instruction through a buffer record: how each thread's element is placed, what is checked and in which
order, and how elements are read and written (R88, R157 to R162, R177, R181, R182, R208, R228, R370). -/

namespace Sys2Proof.Machine

/-! ### Buffer records (R157) -/

def rcdBase (r : Nat) : Nat := bits r 56 0
def rcdSize (r : Nat) : Nat := bits r 59 57
def rcdSwizzle (r : Nat) : Nat := bits r 63 60
def rcdInner (r : Nat) : Nat := bits r 95 64
def rcdInnerStride (r : Nat) : Nat := bits r 127 96
def rcdOuter (r : Nat) : Nat := bits r 151 128
def rcdOuterStride (r : Nat) : Nat := bits r 183 152
def rcdSlot (r : Nat) : Nat := bits r 186 184
def rcdRead (r : Nat) : Bool := bitAt r 187
def rcdWrite (r : Nat) : Bool := bitAt r 188
def rcdAtomic (r : Nat) : Bool := bitAt r 189
def rcdScratch (r : Nat) : Bool := bitAt r 190

/-- Bytes of an element; 0 for 4-bit elements. -/
def sizeBytes (code : Nat) : Nat := if code = 4 then 0 else 2 ^ code

/-- RecordInvalid of R158. -/
def rcdInvalid (r : Nat) : Bool :=
  bits r 255 191 != 0 || decide (4 < rcdSwizzle r) || decide (4 < rcdSize r) || (rcdScratch r && bits r 56 21 != 0)

/-- The q of an XOR swizzle. -/
def xorOf (r : Nat) : Option Nat := if rcdSwizzle r = 0 ∨ 4 ≤ rcdSwizzle r then none else some (2 ^ rcdSwizzle r)

/-- Whether the base is aligned (R159); a reserved element size asks for nothing. -/
def baseAligned (r : Nat) : Bool :=
  (decide (4 ≤ rcdSize r) || rcdBase r % sizeBytes (rcdSize r) == 0) && ((xorOf r).isNone || rcdBase r % 128 == 0)

/-- Interleave of R158: bit b of i to bit 2b, bit b of o to bit 2b+1. -/
def interleave (i o : Nat) : Nat :=
  (List.range 16).foldl (fun e b => e + i / 2 ^ b % 2 * 4 ^ b + o / 2 ^ b % 2 * (2 * 4 ^ b)) 0

/-- Byte offset, after the swizzle, and nibble of the element with the given number. -/
def offsetOf (r e : Nat) : Nat × Nat :=
  let off := if rcdSize r = 4 then e / 2 else e * sizeBytes (rcdSize r)
  let nib := if rcdSize r = 4 then e % 2 else 0
  match xorOf r with
  | some q => (off ^^^ (off / 128 % q * 16), nib)
  | none => (off, nib)

/-- The place of element i of row o. -/
def placeAt (r i o : Nat) : Option (Nat × Nat) :=
  if rcdSwizzle r = 4 then
    if 65536 ≤ i ∨ 65536 ≤ o then none else some (offsetOf r (interleave i o))
  else some (offsetOf r (i * rcdInnerStride r + o * rcdOuterStride r))

/-- The place of an index (R158): offset from the base and nibble; none where it is out of bounds. -/
def placeOf (r : Nat) (idx : Int) : Option (Nat × Nat) :=
  if idx < 0 ∨ (rcdInner r * rcdOuter r : Nat) ≤ idx then none
  else placeAt r (idx.toNat % rcdInner r) (idx.toNat / rcdInner r)

/-! ### Scratchpad windows (R176, R177) -/

def winBytes (w : Wg) (off n : Nat) : List Byte := (upFrom off n).map fun a => smapGet 0 w.window a

def winPuts (off : Nat) (d : List Byte) (w : Wg) : Wg :=
  { w with window := (d.zipIdx off).foldl (fun m x => smapSet 0 m x.2 x.1) w.window }

/-! ### What an instruction asks (R181, R182, R185) -/

/-- One access of an instruction: threads, record, index of each thread after displacement, element width in bytes. -/
structure Ask where
  ins : Instr
  m : Mask
  /-- The lanes: threads, or elements of a range that the flock accesses once (R59). -/
  ts : List Nat
  uniform : Bool
  /-- Record register. -/
  reg : Nat
  idx : Nat → Int
  bytes : Nat
  clamp : Bool
  /-- The space the instruction works in: memory, scratchpad, or either (long forms, R180). -/
  memory : Bool
  scratch : Bool
  kind : AccKind
  /-- Whether the record grants what the instruction needs (R157). -/
  grants : Nat → Bool
  /-- Decoded pages may be read: an unsigned load (R88). -/
  decodes : Bool
  /-- Only full-empty pages serve (R187). -/
  fullEmpty : Bool
  /-- Elements of any size and format will do: maintenance of a range (R191, R280, R282). -/
  anySize : Bool
  /-- The page formats accepted, where the instruction names them (R126, R190, R207). -/
  formats : Option (List Nat)
  /-- Alignment of the first element's address. -/
  align : Nat
  /-- A codebook's run: its elements are those of the record's inner dimension, and the page format is checked after the bounds (R126). -/
  late : Bool
  /-- Pages that are not resident are skipped (R191, R282). -/
  skipAbsent : Bool
  /-- A page's permission comes before what other pages lack (R314). -/
  permFirst : Bool

/-- An element that a thread reaches: thread, which of its elements, the index checked, and its place in the window or in memory; no place
where it is dropped. -/
structure Reach where
  t : Nat
  part : Nat
  idx : Int
  va : Nat
  nib : Nat
  dropped : Bool
  /-- The leaf of a memory element. -/
  leaf : Nat
  deriving DecidableEq, Repr

/-- What the checks find. -/
inductive Checked where
  | trap (r : TrapRec)
  | absent (va level : Nat)
  | ok (ls : List Reach)
  deriving DecidableEq, Repr

/-- An element before its page is known. -/
def laneOf (q : Ask) (r part t : Nat) : Reach :=
  let i := q.idx t + part
  match if q.late && decide ((rcdInner r : Int) ≤ i) then none else placeOf r i with
  | some (off, nib) => { t := t, part := part, idx := i, va := rcdBase r + off, nib := nib, dropped := false, leaf := 0 }
  | none => { t := t, part := part, idx := i, va := 0, nib := 0, dropped := true, leaf := 0 }

/-- The 64 KiB units of elements, ascending (R161). -/
def unitsFor (ls : List Reach) : List Nat := (ls.filter fun l => !l.dropped).foldl (fun u l => setInsert u (l.va / 65536)) []

/-- Translates and checks units in ascending order (R161). -/
def pagesFor (ag : Agent) (k : AccKind) : List Nat → State → State × List (Nat × Page)
  | [], s => (s, [])
  | u :: r, s =>
    let (s, p) := pageFor ag k (u * 65536) s
    let (s, l) := pagesFor ag k r s
    (s, (u, p) :: l)

/-- The page of an element. -/
def pageOf (ps : List (Nat × Page)) (va : Nat) : Page := ((ps.find? fun p => p.1 == va / 65536).map (·.2)).getD (.absent 0)

/-- The leaf that a walk found, whatever the checks after it said. -/
def pageLeaf (p : Page) : Option Nat :=
  match p with
  | .ok x => some x
  | .bad _ _ _ _ x => x
  | .absent _ => none

/-- Whether an element does not fit its page (R88, R159). -/
def pageMisfit (q : Ask) (r x : Nat) (l : Reach) : Bool :=
  (match q.formats with
    | some fs => !fs.contains (leafFormat x)
    | none => false) ||
  (l.t == 0 && l.va % q.align != 0) ||
  (if q.anySize then false
  else if isDecoded (leafFormat x) then
    !(q.decodes && (q.bytes == 2 || q.bytes == 4)) || (isMx (leafFormat x) && decide (0xF000 ≤ l.va % 65536))
  else q.bytes != sizeBytes (rcdSize r))

/-- Whether an element is misaligned by its record alone (R159): a page that decodes takes its own sizes. -/
def recordMisfit (q : Ask) (r : Nat) (inMemory : Bool) : Bool :=
  !baseAligned r || (!q.anySize && (!inMemory || q.late || q.formats.isSome) && q.bytes != sizeBytes (rcdSize r))

/-- Whether an element is misaligned by the page it lies in; without a leaf, by its address or by a size that no format takes. -/
def onMisfit (q : Ask) (r : Nat) (ps : List (Nat × Page)) (l : Reach) : Bool :=
  !l.dropped && (match pageLeaf (pageOf ps l.va) with
    | some x => pageMisfit q r x l
    | none => (l.t == 0 && l.va % q.align != 0) || !q.anySize && q.bytes != sizeBytes (rcdSize r) && !(q.decodes && (q.bytes == 2 || q.bytes == 4)))

/-- A trap of an element (R357). -/
def laneRec (s : State) (q : Ask) (cause t : Nat) (extra : List (Nat × Nat × Nat)) : TrapRec :=
  trapRec s cause q.m ([(0, 1, if q.uniform then (lowest q.m).getD 0 else t), (1, 1, q.reg), (4, 8, (q.idx t % 2 ^ 64).toNat)] ++ extra)

/-- Whether a page lacks the full-empty bit that an instruction needs: permission (R187). -/
def notFullEmpty (q : Ask) (p : Page) : Bool := q.fullEmpty && (pageLeaf p).any fun x => !leafFullEmpty x

/-- The first faulting page of units in ascending order (R162): a missing record permission fails every page. -/
def pageTrap (s : State) (q : Ask) (missing : Bool) : List (Nat × Page) → Option TrapRec
  | [] => none
  | (u, p) :: r =>
    let denied := pageRec s q.kind q.m (u * 65536) 0x14 0xFF 0 0
    match p with
    | .bad 0x13 level _ _ _ => some (pageRec s q.kind q.m (u * 65536) 0x13 level 0 0)
    | .bad cause level reason unit _ =>
      some (if missing || notFullEmpty q p then denied else pageRec s q.kind q.m (u * 65536) cause level reason unit)
    | .absent _ => if missing then some denied else pageTrap s q missing r
    | .ok _ => if missing || notFullEmpty q p then some denied else pageTrap s q missing r

/-- The lowest page that lacks a permission, where that comes before every other page check (R314). -/
def permTrap (s : State) (q : Ask) (missing : Bool) (ps : List (Nat × Page)) : Option TrapRec :=
  (ps.find? fun p => missing || (match p.2 with
    | .bad cause _ _ _ _ => cause == 0x14
    | _ => false)).map fun p => pageRec s q.kind q.m (p.1 * 65536) 0x14 0xFF 0 0

/-- The lowest page that is not resident. -/
def absentPage : List (Nat × Page) → Option (Nat × Nat)
  | [] => none
  | (u, .absent level) :: _ => some (u * 65536, level)
  | _ :: r => absentPage r

/-- Whether a page is known to decode its elements. -/
def decodesAt (ps : List (Nat × Page)) (va : Nat) : Bool :=
  match pageLeaf (pageOf ps va) with
  | some x => isDecoded (leafFormat x)
  | none => false

/-- The elements of an access and their pages: a 32-bit load from a page that decodes reaches a second element (R159). -/
def reachAll (q : Ask) (r : Nat) (s : State) : State × List (Nat × Page) × List Reach :=
  let ls := q.ts.map (laneOf q r 0)
  let ag := curAgent s
  let (s, ps) := pagesFor ag q.kind (unitsFor ls) s
  let first := ls.filter fun l => q.decodes && q.bytes == 4 && (if l.dropped then q.clamp else decodesAt ps l.va)
  if first = [] then (s, ps, ls)
  else
    let more := first.map fun l => laneOf q r 1 l.t
    let (s, ps) := pagesFor ag q.kind (unitsFor (ls ++ more)) s
    let all := ls ++ more.filter fun l =>
      (!l.dropped && decodesAt ps l.va) || ls.any fun k => k.t == l.t && !k.dropped
    (s, ps.filter fun p => (unitsFor all).contains p.1, all)

/-- The checks of R158 to R162 and R177 in their order, for the space of the record. Without a lane nothing is accessed (R191). An invalid
record is out of bounds for every lane, unless the record alone is misaligned (R126, R162; log entry 77). A record's missing permission, its
wrong space and a scope too wide for it raise nothing where .clamp drops every lane (DESIGN CHOICE, log entry 85). -/
def checkLanes (q : Ask) (s : State) : State × Checked :=
  let r := (getB (cur s) q.reg).toNat
  if q.ts = [] then (s, .ok [])
  else if rcdInvalid r then
    (s, .trap (laneRec s q (if recordMisfit q r (!rcdScratch r) then 0x12 else 0x10) (q.ts.headD 0) []))
  else
    let inMemory := !rcdScratch r
    let (s, ps, all) := if inMemory then reachAll q r s else (s, [], q.ts.map (laneOf q r 0))
    let win := (curWg s).wn
    let missing := !q.grants r || (if rcdScratch r then !q.scratch else !q.memory)
    let lowestOf (p : Reach → Bool) : Option Nat := q.ts.find? fun t => all.any fun l => l.t == t && p l
    match lowestOf fun l => recordMisfit q r inMemory || (!q.late && onMisfit q r ps l) with
    | some t => (s, .trap (laneRec s q 0x12 t []))
    | none =>
      match if q.clamp then none else lowestOf (·.dropped) with
      | some t => (s, .trap (laneRec s q 0x10 t []))
      | none =>
        match if rcdScratch r then lowestOf (fun l => !l.dropped && decide (win ≤ l.va)) else none with
        | some t => (s, .trap (laneRec s q 0x11 t [(12, 4, win)]))
        | none =>
          match if q.late then lowestOf (onMisfit q r ps) else none with
          | some t => (s, .trap (laneRec s q 0x12 t []))
          | none =>
            if inMemory then
              match ((if q.permFirst then permTrap s q missing ps else none).or (pageTrap s q missing ps)) with
              | some x => (s, .trap x)
              | none =>
                match if q.skipAbsent then none else absentPage ps with
                | some x => (s, .absent x.1 x.2)
                | none => (s, .ok (all.map fun l =>
                    match pageLeaf (pageOf ps l.va) with
                    | some x => { l with leaf := x }
                    | none => { l with dropped := true }))
            else
              match unitsFor all with
              | _ :: _ => if missing then (s, .trap (pageRec s q.kind q.m 0 0x14 0xFF 0 0)) else (s, .ok all)
              | [] => (s, .ok all)

/-! ### The scope checker (R228) -/

/-- Whether a core is one of an issuer's cluster. -/
def inCluster (me : Issuer) (core : Nat) : Bool :=
  let (w, h) := clusterShape me.shape
  inRange (me.cluster % 24) w (core % 24) && inRange (me.cluster / 24) h (core / 24)

/-- Scope codes: 1 `.fl`, 2 `.wg`, 3 `.cl`, 4 `.dv`, 5 `.sy`. Whether a scope from a core includes an issuer: at `.cl`, every core of its
launch's cluster (R210), whatever cluster another launch that used that core had (DEDUCED, log entry 95). -/
def includes (scope : Nat) (me you : Issuer) : Bool :=
  if scope < 3 then me.core == you.core else if scope = 3 then inCluster me you.core else true

/-- A flock of a launch on a core as an issuer (R228). A cluster is named by its first core. -/
def issuerOn (l : Launch) (core : Nat) : Issuer := { core := core, cluster := clusterOrigin l core, shape := l.cluster }

/-- Whether an order-carrying operation on an element reaches the slice that holds its record. An atomic of a lease line is a HomeWrite.
R228 leaves to the device what an L1 path holds: here it keeps a copy until cache.inv or the line's end, and a private line that its paddock
holds (DESIGN CHOICE, log entry 97). -/
def reachesSlice (s : State) (core x va scope : Nat) (writing : Bool) : Bool :=
  let base := lineBase s (leafPad x) (leafLoc x va)
  if leafHome x = 0 then false
  else if 3 ≤ scope ∨ leafHome x ≠ 2 then true
  else match padMode s (leafPad x) with
    | 1 => writing || (validCopy s core (leafPad x) base).isNone
    | 2 => true
    | 0 => match findLine s (leafPad x) base with
      | some l => !l.copies.contains core
      | none => true
    | _ => (findLine s (leafPad x) base).isNone

/-- The 128-byte unit of an element. -/
def syncUnit (l : Reach) : Nat := leafLoc l.leaf l.va / 128

/-- The units that an order-carrying operation meets, ascending. -/
def syncUnits (s : State) (scope : Nat) (writing : Bool) (ls : List Reach) : List Nat :=
  (ls.filter fun l => !l.dropped && reachesSlice s s.core l.leaf l.va scope writing).foldl (fun u l => setInsert u (syncUnit l)) []

def findSync (s : State) (unit : Nat) : Option SyncRec := s.sync.find? fun r => r.unit == unit

/-- The record entry that an operation conflicts with: the last release for an acquire, then the pending acquire for a release. -/
def syncConflict (s : State) (me : Issuer) (scope : Nat) (acq rel : Bool) (unit : Nat) : Option (Nat × Issuer) :=
  match findSync s unit with
  | none => none
  | some r =>
    match if acq then r.rel else none with
    | some e => if includes scope me e.2 then
        (match if rel then r.acq else none with
          | some e => if includes scope me e.2 then none else some e
          | none => none)
      else some e
    | none =>
      match if rel then r.acq else none with
      | some e => if includes scope me e.2 then none else some e
      | none => none

/-- Keeps 4,096 records a slice, the most recently used. -/
def trimSync (slice : Nat) (l : List SyncRec) : List SyncRec :=
  let same (r : SyncRec) : Bool := homeSlice (128 * r.unit) == slice
  if 4096 < l.countP same then (l.reverse.eraseP same).reverse else l

/-- Makes or updates a record: a release clears the pending acquire. -/
def recordSync (me : Issuer) (scope : Nat) (acq rel : Bool) (s : State) (unit : Nat) : State :=
  let old := (findSync s unit).getD { unit := unit, rel := none, acq := none }
  let new := if rel then { old with rel := some (scope, me), acq := none } else if acq then { old with acq := some (scope, me) } else old
  { s with sync := trimSync (homeSlice (128 * unit)) (new :: s.sync.filter fun r => r.unit != unit) }

/-- The issuing flock as an issuer. -/
def issuer (s : State) : Issuer := issuerOn (curLaunch s) s.core

/-- scope-mismatch (R228, R357). -/
def syncRec (s : State) (m : Mask) (scope : Nat) (e : Nat × Issuer) : TrapRec :=
  trapRec s 0x17 m [(0, 1, scope), (1, 1, e.1), (2, 2, e.2.cluster), (4, 1, e.2.core % 24), (5, 1, e.2.core / 24)]

/-! ### Reading and writing elements -/

/-- The scale byte's address of an MX element (R87, R160). -/
def scaleVa (x va nib : Nat) : Nat :=
  let u := va % 65536
  let fp4 := leafFormat x == 10
  let w := if fp4 then 256 else 128
  let row := u / 128
  let col := if fp4 then 2 * (u % 128) + nib else u % 128
  let k := if leafGeom x = 0 then row * (w / 32) + col / 32 else if leafGeom x = 1 then row / 32 * w + col
    else row / 2 * (w / 16) + col / 16
  va / 65536 * 65536 + 0xF000 + k

/-- The exact value of a stored element of a decoded format (R80, R83, R84): the byte that holds it, its nibble, its scale and the codebook
entries. -/
def decodeElement (fmt b nib scale : Nat) (book : Nat → Nat) : FVal :=
  let low := b / 16 ^ nib % 16
  match fmt with
  | 8 => fdecode fmtE4m3 b
  | 9 => fdecode fmtE5m2 b
  | 10 => mxVal fmtE2m1 scale low
  | 11 => mxVal fmtE4m3 scale b
  | 12 => mxVal fmtE5m2 scale b
  | _ => fdecode fmtBf16 (book low)

/-- An element as BF16, with flags; a codebook entry is delivered as it stands (R84, R88), a NaN with its payload too, though R81 would have
the canonical one (DESIGN CHOICE, log entry 108). -/
def decodeBf16 (fmt b nib scale : Nat) (book : Nat → Nat) : Nat × Nat :=
  if fmt = 13 then (book (b / 16 ^ nib % 16), 0) else toBf16 (decodeElement fmt b nib scale book)

/-- Codebook entries of the issuing workgroup. -/
def bookOf (w : Wg) (slot c : Nat) : Nat := (smapGet 0 w.cb (16 * slot + c)).toNat

/-- Bytes of an element that reads touch: how many at its address. -/
def spanOf (q : Ask) (x : Nat) : Nat := if isDecoded (leafFormat x) then 1 else q.bytes

/-- Whether reading an element meets poison: the element or its scale byte. -/
def laneBad (q : Ask) (s : State) (l : Reach) : Bool :=
  !l.dropped && (elementBad s l.leaf l.va (spanOf q l.leaf) ||
    (isMx (leafFormat l.leaf) && elementBad s l.leaf (scaleVa l.leaf l.va l.nib) 1))

/-- Verifies the check values of what the lanes read (R372). -/
def verifyLanes (q : Ask) (ls : List Reach) (s : State) : State :=
  ls.foldl (fun s l =>
    if l.dropped then s
    else
      let s := verifyElement l.leaf l.va (spanOf q l.leaf) s
      if isMx (leafFormat l.leaf) then verifyElement l.leaf (scaleVa l.leaf l.va l.nib) 1 s else s) s

/-- The poison trap of the lowest address (R370). -/
def poisonTrap (q : Ask) (s : State) (ls : List Reach) : Option TrapRec :=
  match ls.filter (laneBad q s) with
  | [] => none
  | l :: r => some (poisonRec s 0 q.m (unitBase (r.foldl (fun a x => min a x.va) l.va)))

/-- Reads one memory element for the issuing core: its value and flags. -/
def readLane (q : Ask) (slot : Nat) (l : Reach) (s : State) : State × Nat × Nat :=
  let x := l.leaf
  if isDecoded (leafFormat x) then
    let (s, b) := loadBytes (some s.core) x l.va 1 s
    let (s, k) := if isMx (leafFormat x) then loadBytes (some s.core) x (scaleVa x l.va l.nib) 1 s else (s, [])
    (s, decodeBf16 (leafFormat x) (leNat b) l.nib (leNat k) (bookOf (curWg s) slot))
  else
    let (s, b) := loadBytes (some s.core) x l.va q.bytes s
    (s, leNat b, 0)

/-- An element read by an instruction: its address and nibble, its value and flags. -/
abbrev Read := (Nat × Nat) × Nat × Nat

/-- Reads lanes in order; a dropped one reads as 0, and lanes that read one element receive the value that the first of them read (R161).
Values come as thread, part and value. -/
def readLanesGo (q : Ask) (slot : Nat) : List Read → List Reach → State → State × List (Nat × Nat × Nat) × Nat
  | _, [], s => (s, [], 0)
  | seen, l :: r, s =>
    let (s, v, fl) := if l.dropped then (s, 0, 0)
      else match seen.find? fun k => k.1 == (l.va, l.nib) with
        | some k => (s, k.2)
        | none => readLane q slot l s
    let (s, vs, fls) := readLanesGo q slot (if l.dropped then seen else ((l.va, l.nib), v, fl) :: seen) r s
    (s, (l.t, l.part, v) :: vs, flOr fl fls)

def readLanes (q : Ask) (slot : Nat) (ls : List Reach) (s : State) : State × List (Nat × Nat × Nat) × Nat := readLanesGo q slot [] ls s

/-- The value of a thread's element. -/
def valueOf (vs : List (Nat × Nat × Nat)) (t part : Nat) : Nat := ((vs.find? fun v => v.1 == t && v.2.1 == part).map (·.2.2)).getD 0

/-- The places that elements take up, for clearing poison. -/
def lanePlaces (n : Nat) (ls : List Reach) : List (Nat × Nat) := (ls.filter fun l => !l.dropped).map fun l => (leafLoc l.leaf l.va, n)

/-- The lease lines of elements, ascending. -/
def laneLeases (s : State) (ls : List Reach) : List (Nat × Nat) :=
  (ls.filter fun l => !l.dropped).foldl (fun a l => match leaseLine s l.leaf l.va with
    | some k => pairInsert a k
    | none => a) []

/-- The lines in Updating that elements leave behind. -/
def laneUpdating (s : State) (ls : List Reach) : List (Nat × Nat) :=
  (ls.filter fun l => !l.dropped).foldl (fun a l => match updatingLine s l.leaf l.va with
    | some k => pairInsert a k
    | none => a) []

/-- Writes elements in ascending thread order, so that the highest thread's value is left (R161, R182); sectors that they cover whole are
not verified (R372). -/
def writeLanes (n : Nat) (value : Nat → Nat) (ls : List Reach) (s : State) : State :=
  let s := ls.foldl (fun s l => if l.dropped then s else renewSectors (rangesCover (lanePlaces n ls)) l.leaf l.va n s) s
  let s := ls.foldl (fun s l => if l.dropped then s else storeBytes (some s.core) l.leaf l.va (leBytes n (value l.t)) s) s
  clearCovered (lanePlaces n ls) (leaseStamps (some s.core) (laneLeases s ls) s)

/-- The lowest thread whose element lies in a combine-mode paddock for which a test holds, and that paddock. -/
def combineBad (s : State) (bad : Nat → Bool) (ls : List Reach) : Option (Nat × Nat) :=
  ((ls.find? fun l => !l.dropped && leafHome l.leaf == 2 && padMode s (leafPad l.leaf) == 2 && bad (leafPad l.leaf)).map
    fun l => (l.t, leafPad l.leaf))

/-- combine-violation (R357). -/
def combineRec (s : State) (m : Mask) (x : Nat × Nat) : TrapRec := trapRec s 0x19 m [(0, 1, x.1), (1, 1, x.2)]

end Sys2Proof.Machine
end

