-- ==== Sys2Proof/Machine/MemOp.lean ====
section
/-! DEFINITION. The shared shapes of the memory instructions: loads, stores, atomics and reductions through a record (R181 to R186), and
work on a range of elements (R126, R190, R191). -/

namespace Sys2Proof.Machine

/-! ### Long-latency instructions (R48, R49) -/

/-- A long-latency instruction: without an active thread it only moves on; a full completion flag holds it at issue (R48). -/
def longOp (i : Instr) (m : Mask) (f : Nat) (regs : List Nat) (body : State → State) (s : State) : Out :=
  checked i m (legalForm i) regs (fun s =>
    if m = 0 then advance (wordsOf i) s else if flagFull s f then waitFor .issue s else body s) s

/-- Issues the long-latency part of an instruction and moves on. -/
def finishLong (i : Instr) (f : Nat) (p : Pending) (s : State) : State := advance (wordsOf i) (issueLong f p s)

/-- Waits at issue until what an operation keeps before it is performed (R141, R217; log entry 13). -/
def waitInOrder (l : OpenOp) (body : State → State) (s : State) : State :=
  if keptBehind s l then waitFor .issue s else body s

/-- A flock as an issued instruction finds it when it is performed: one path, which counts on no flag and yields nothing. -/
def snapshot (f : Flock) (second : Bool) : Flock :=
  let p := (pathOf f second).map fun p => { p with hint := false, setA := 15, setB := 15 }
  withPath { f with path0 := none, path1 := none, stack := [], pending := [], cf := [], status := 0, ahead := [], arrived := [], latch := none }
    second p

/-- A full-empty instruction of which no request is open. -/
def noFe : FeInstr := { word := 0, mask := 0, idxs := [], datas := [] }

/-- What a held instruction has outstanding: its tile (R138), and that it is one of the flock's full-empty instructions (R261). -/
def heldPending (l : OpenOp) : Pending :=
  { noPending with tile := l.tile, product := l.op.act == .mma, fe := if l.op.act = .stfe then some noFe else none }

/-- Issues an instruction that waits for earlier accesses: the path goes on, and its completion performs it (R187). -/
def holdBack (i : Instr) (f : Nat) (l : OpenOp) (s : State) : State :=
  let h : Held := { what := l, core := s.core, slot := s.slot, second := s.second, flag := flagOf (curPath s) f, ins := i,
                    flock := snapshot (cur s) s.second, book := (curWg s).cb }
  finishLong i f (heldPending l) { s with held := s.held ++ [h] }

/-- An access in the order of its threads' earlier ones: it is performed at once, or issued and held. One that is being performed has
waited. -/
def inOrder (i : Instr) (f : Nat) (l : OpenOp) (body : State → State) (s : State) : State :=
  if s.performing || !keptBehind s l then body s else holdBack i f l s

/-- The elements of an access as an operation: dropped lanes access nothing. -/
def askOp (q : Ask) (op : Op) (ls : List Reach) (s : State) : OpenOp :=
  let scratch := rcdScratch (getB (cur s) q.reg).toNat
  let live := ls.filter fun l => !l.dropped
  { uid := s.fresh, op := { op with scratch := scratch }, uniform := q.uniform
    mask := if q.uniform then (if live = [] then 0 else q.m) else maskOf fun t => live.any fun l => l.t == t
    places := live.map fun l => (l.t, if scratch then l.va else leafLoc l.leaf l.va, max q.bytes 1), tile := none }

/-- An access through a record, in order. -/
def ordered (q : Ask) (f : Nat) (op : Op) (ls : List Reach) (body : State → State) (s : State) : State :=
  inOrder q.ins f (askOp q op ls s) body s

def loadAct (acq : Bool) : Op := { act := .load, acq := acq, rel := false, scratch := false }
def storeAct (rel : Bool) : Op := { act := .store, acq := false, rel := rel, scratch := false }
def atomicAct (acq rel : Bool) : Op := { act := .atomic, acq := acq, rel := rel, scratch := false }
def redAct (rel : Bool) : Op := { act := .red, acq := false, rel := rel, scratch := false }
def stfeAct : Op := { act := .stfe, acq := false, rel := true, scratch := false }
def mmaAct : Op := { act := .mma, acq := false, rel := false, scratch := true }
def maintainAct : Op := { act := .maintain, acq := false, rel := false, scratch := false }

/-- The units that the elements of an access lie in; dropped lanes access nothing. -/
def laneUnits (ls : List Reach) : List Nat := (ls.filter fun l => !l.dropped).foldl (fun u l => setInsert u (l.va / 65536)) []

/-- Runs the checks of an access, and its effect where they pass. -/
def withLanes (q : Ask) (body : List Reach → State → State) (s : State) : State :=
  match checkLanes q s with
  | (s, .trap r) => takeTrap r s
  | (s, .absent va level) => suspend q.m va q.kind level s
  | (s, .ok ls) => body ls s

/-- The scope checker around an order-carrying access (R228): scope 0 carries no order. The body gets what makes its records, which it
applies where it takes no trap. -/
def withScope (q : Ask) (scope : Nat) (acq rel writing : Bool) (ls : List Reach) (body : (State → State) → State → State)
    (s : State) : State :=
  let units := if scope = 0 ∨ (!acq ∧ !rel) then [] else syncUnits s scope writing ls
  match (units.filterMap (syncConflict s (issuer s) scope acq rel)).head? with
  | some e => takeTrap (syncRec s q.m scope e) s
  | none => body (fun t => units.foldl (recordSync (issuer s) scope acq rel) t) s

/-! ### Asking for elements -/

/-- The size of a data register access (R57): bytes and sign extension. -/
def dataBytes (z : Nat) : Nat := if z < 2 then 1 else if z < 4 then 2 else if z = 4 then 4 else 8
def dataSigned (z : Nat) : Bool := z == 1 || z == 3

/-- A register pair for 64-bit data (R57, R178). -/
def dataRegs (z d : Nat) : List Nat := if z = 5 then [d, d + 1] else [d]

/-- An index from a register and a displacement, read as R158 states. -/
def indexOf (s : State) (uniform : Bool) (a : Nat) (disp : Int) (t : Nat) : Int :=
  ((if uniform then getS (cur s) a else getV (cur s) t a).toNat : Int) + disp

/-- A plain per-thread access. -/
def askLanes (i : Instr) (m : Mask) (r : Nat) (idx : Nat → Int) (bytes : Nat) (clamp memory scratch : Bool) (kind : AccKind)
    (grants : Nat → Bool) (decodes : Bool) : Ask :=
  { ins := i, m := m, ts := threadsOf m, uniform := false, reg := r, idx := idx, bytes := bytes, clamp := clamp, memory := memory,
    scratch := scratch, kind := kind, grants := grants, decodes := decodes, fullEmpty := false, anySize := false, formats := none,
    align := 1, late := false, skipAbsent := false, permFirst := false }

/-- An access of n elements that the flock makes once (R59). -/
def askRange (i : Instr) (m : Mask) (r n : Nat) (first : Int) (bytes : Nat) (kind : AccKind) (grants : Nat → Bool) : Ask :=
  { askLanes i m r (fun k => first + k) bytes false true false kind grants false with ts := List.range n, uniform := true }

/-- A scope that scratchpad does not take (R179). -/
def scopeFits (sc r : Nat) : Bool := !(rcdScratch r && decide (3 ≤ sc))

/-! ### Loads (R181) -/

/-- A loaded value as its register holds it. -/
def extendData (z v : Nat) : Nat := if dataSigned z then wrapInt 32 (toSigned (8 * dataBytes z) v) else v

/-- The registers a load writes: a pair for 64-bit data, two elements in one register from a page that decodes (R82, R88). -/
def loadWrites (q : Ask) (z d : Nat) (vs : List (Nat × Nat × Nat)) : List (Nat × Word) :=
  q.ts.flatMap fun t =>
    let v := valueOf vs t 0
    if z = 5 then [(vKey d t, BitVec.ofNat 32 v), (vKey (d + 1) t, BitVec.ofNat 32 (v / 2 ^ 32))]
    else if vs.any fun x => x.1 == t && x.2.1 == 1 then [(vKey d t, joinHalves v (valueOf vs t 1))]
    else [(vKey d t, BitVec.ofNat 32 (extendData z v))]

/-- Loads through a record, in memory or in the window. -/
def loadOp (q : Ask) (z d f scope : Nat) (regs : List Nat) (s : State) : Out :=
  longOp q.ins q.m f regs (withLanes q fun ls => ordered q f (loadAct (scope != 0)) ls fun s =>
    let r := (getB (cur s) q.reg).toNat
    if rcdScratch r then
      let w := curWg s
      let vs := ls.map fun l => (l.t, l.part, if l.dropped then 0 else leNat (winBytes w l.va q.bytes))
      finishLong q.ins f { noPending with vw := loadWrites q z d vs } s
    else
      withScope q scope true false false ls (fun note s =>
        let s := verifyLanes q ls s
        match poisonTrap q s ls with
        | some x => takeTrap x s
        | none =>
          let (s, vs, fl) := readLanes q (rcdSlot r) ls s
          finishLong q.ins f { noPending with vw := loadWrites q z d vs, units := laneUnits ls } (raise fl (note s))) s) s

/-! ### Stores (R182) -/

/-- The data that thread t stores. -/
def storeData (s : State) (z d t : Nat) : Nat :=
  (getV (cur s) t d).toNat + if z = 5 then (getV (cur s) t (d + 1)).toNat * 2 ^ 32 else 0

/-- Stores through a record, in memory or in the window. -/
def storeOp (q : Ask) (z d f scope : Nat) (regs : List Nat) (s : State) : Out :=
  longOp q.ins q.m f regs (withLanes q fun ls => ordered q f (storeAct (scope != 0)) ls fun s =>
    let data := storeData s z d
    if rcdScratch (getB (cur s) q.reg).toNat then
      let put (w : Wg) (l : Reach) : Wg := if l.dropped then w else winPuts l.va (leBytes q.bytes (data l.t)) w
      finishLong q.ins f noPending (updWg (cur s).launch (cur s).wg (fun w => ls.foldl put w) s)
    else
      withScope q scope false true true ls (fun note s =>
        match combineBad s (fun _ => true) ls with
        | some x => takeTrap (combineRec s q.m x) s
        | none =>
          let s := writeLanes q.bytes data ls (note s)
          finishLong q.ins f { noPending with lines := laneUpdating s ls, units := laneUnits ls } s) s) s

/-! ### Atomics and reductions (R183 to R186) -/

/-- The new value of R183 for an element of w bits; c and d serve .cas. -/
def atomicResult (o w old b c d : Nat) : Nat :=
  match o with
  | 0 => (old + b) % 2 ^ w
  | 1 => old &&& b
  | 2 => old ||| b
  | 3 => old ^^^ b
  | 4 => b
  | 5 => if b ≤ old then 0 else old + 1
  | 6 => if old = 0 ∨ b < old then b else old - 1
  | 7 => if old = c then d else old
  | 8 => min old b
  | 9 => max old b
  | 10 => if toSigned w b < toSigned w old then b else old
  | 11 => if toSigned w old < toSigned w b then b else old
  | 12 => (faddCode fmtF32 old b).1
  | 13 => fminmaxCode fmtF32 false old b
  | 14 => fminmaxCode fmtF32 true old b
  | _ => old

/-- What one atomic brings: the datum, and compare and new value for .cas. -/
structure Datum where
  b : Nat
  c : Nat
  d : Nat
  deriving DecidableEq, Repr

/-- The value an atomic finds at its place (R184): an update-mode line is copied into the core's L1 path at .fl and .wg; a lease line is
read at its home, which raises pts as a read does (R223). -/
def atomicRead (scope x va n : Nat) (s : State) : State × Nat :=
  if leafHome x = 2 then
    let pad := leafPad x
    let base := lineBase s pad (leafLoc x va)
    let s := readyLine x pad base s
    let s := if padMode s pad = 0 ∧ scope < 3 then shareLine s.core pad base s else s
    let s := if padMode s pad = 1 then
        match findLine s pad base with
        | some l => setPts s.core (serialMax (coreAt s s.core).pts l.wts) false s
        | none => s
      else s
    (s, leNat (lineBytes s pad (leafLoc x va) n))
  else
    let (s, d) := loadBytes none x va n s
    (s, leNat d)

/-- One atomic step on a memory element: the state and the old value. -/
def atomicStep (o n scope : Nat) (k : Datum) (l : Reach) (s : State) : State × Nat :=
  let (s, old) := atomicRead scope l.leaf l.va n s
  let s := storeBytes (some s.core) l.leaf l.va (leBytes n (atomicResult o (8 * n) old k.b k.c k.d)) s
  (leaseStamps (some s.core) (match leaseLine s l.leaf l.va with
    | some x => [x]
    | none => []) s, old)

/-- Atomics in ascending thread order (R185); old values come as thread, part and value. -/
def atomicSteps (o n scope : Nat) (k : Nat → Datum) : List Reach → State → State × List (Nat × Nat × Nat)
  | [], s => (s, [])
  | l :: r, s =>
    let (s, old) := if l.dropped then (s, 0) else atomicStep o n scope (k l.t) l s
    let (s, vs) := atomicSteps o n scope k r s
    (s, (l.t, 0, old) :: vs)

/-- Atomics on a window. -/
def windowSteps (o n : Nat) (k : Nat → Datum) : List Reach → Wg → Wg × List (Nat × Nat × Nat)
  | [], w => (w, [])
  | l :: r, w =>
    let old := if l.dropped then 0 else leNat (winBytes w l.va n)
    let w := if l.dropped then w else winPuts l.va (leBytes n (atomicResult o (8 * n) old (k l.t).b (k l.t).c (k l.t).d)) w
    let (w, vs) := windowSteps o n k r w
    (w, (l.t, 0, old) :: vs)

/-- An atomic through a record (R185): ret names the destination of the old values, where there is one. -/
def atomicOp (q : Ask) (o z f scope : Nat) (acq rel : Bool) (k : State → Nat → Datum) (ret : Option Nat) (regs : List Nat)
    (s : State) : Out :=
  longOp q.ins q.m f regs (withLanes q fun ls => ordered q f (atomicAct acq rel) ls fun s =>
    let data := k s
    let back (vs : List (Nat × Nat × Nat)) : List (Nat × Word) :=
      match ret with
      | some d => loadWrites q z d vs
      | none => []
    if rcdScratch (getB (cur s) q.reg).toNat then
      let (w, vs) := windowSteps o q.bytes data ls (curWg s)
      finishLong q.ins f { noPending with vw := back vs } (updWg (cur s).launch (cur s).wg (fun _ => w) s)
    else
      withScope q scope acq rel true ls (fun note s =>
        match combineBad s (fun _ => true) ls with
        | some x => takeTrap (combineRec s q.m x) s
        | none =>
          let s := verifyLanes q ls s
          match poisonTrap q s ls with
          | some x => takeTrap x s
          | none =>
            let (s, vs) := atomicSteps o q.bytes scope data ls (note s)
            let lines := if ret.isSome then [] else laneUpdating s ls
            finishLong q.ins f { noPending with vw := back vs, lines := lines, units := laneUnits ls } s) s) s

/-- Whether a combine paddock accepts a reduction (R186). -/
def combineAccepts (s : State) (o n pad : Nat) : Bool :=
  n == 4 && (if padCombineFloat s pad then o == 12 + padCombineOp s pad
    else if padCombineOp s pad = 0 then o == 0 else o == 9 + padCombineOp s pad)

/-- One reduction: into a partial of a combine paddock (R226), or an atomic step at the place of R184. -/
def reduceStep (o n scope b : Nat) (l : Reach) (s : State) : State :=
  if leafHome l.leaf = 2 ∧ padMode s (leafPad l.leaf) = 2 then
    let pad := leafPad l.leaf
    let loc := leafLoc l.leaf l.va
    let s := readyLine l.leaf pad (lineBase s pad loc) (markDirty l.leaf l.va s)
    combineRed s.core pad loc b s
  else (atomicStep o n scope { b := b, c := 0, d := 0 } l s).1

/-- A reduction through a memory record (R186). -/
def reduceOp (q : Ask) (o f scope : Nat) (rel : Bool) (data : State → Nat → Nat) (regs : List Nat) (s : State) : Out :=
  longOp q.ins q.m f regs (withLanes q fun ls => ordered q f (redAct rel) ls fun s =>
    let data := data s
    withScope q scope false rel true ls (fun note s =>
      match combineBad s (fun pad => !combineAccepts s o q.bytes pad) ls with
      | some x => takeTrap (combineRec s q.m x) s
      | none =>
        let s := verifyLanes q ls s
        match poisonTrap q s ls with
        | some x => takeTrap x s
        | none =>
          let s := ls.foldl (fun s l => if l.dropped then s else reduceStep o q.bytes scope (data l.t) l s) (note s)
          finishLong q.ins f { noPending with lines := laneUpdating s ls, units := laneUnits ls } s) s) s

/-! ### Full-empty words (R165, R187, R188) -/

/-- Whether a word is full. -/
def isFull (s : State) (loc : Nat) : Bool := s.feFull.contains (loc / 4)

/-- Gives a served request's value to its instruction, whose completion becomes due. -/
def feDeliver (r : FeReq) (v : Option Word) (s : State) : State :=
  let f := flockAt s r.core r.slot
  let give (p : Pending) : Pending :=
    match p.fe with
    | some i =>
      { p with
        vw := p.vw ++ match v with
          | some v => [(vKey (bits i.word.toNat 21 16) r.thread, v)]
          | none => []
        fe := some { i with mask := i.mask &&& ~~~(1 <<< r.thread : Mask) } }
    | none => p
  due (.longLatencyCompletion r.core r.slot r.uid)
    (setFlock r.core r.slot { f with pending := updFirst (fun p => p.uid == r.uid) give f.pending } s)

/-- Fills a word with a value. -/
def feFill (loc : Nat) (v : Word) (s : State) : State :=
  let s := writeUnder none loc (leBytes 4 v.toNat) s
  { s with feFull := setInsert s.feFull (loc / 4), dirty := (noteDirty loc s).dirty }

/-- Verifies the check value of the sector that a request reads (R372). -/
def feVerify (loc : Nat) (s : State) : State :=
  if sectorFails s none (sectorOf loc) then
    poisonSector 3 0xFFFF (locOwner s loc) s (sectorOf loc)
  else s

/-- A request that was deferred or returned meets a poisoned word (R370): its flock takes poison at the instruction, and nothing is
performed. -/
def fePoison (r : FeReq) (s : State) : State :=
  let f := flockAt s r.core r.slot
  let o := ((f.pending.find? fun p => p.uid == r.uid).bind (·.origin)).getD (0, 0, 0)
  trapAt f.launch f.wg { cause := 0x1A, flock := f.index, pcSlot := o.2.1, mask := o.2.2, pc := o.1, va := unitBase r.va, hcause := 0,
                         handle := 0, detail := detailOf [(0, 1, 0)], lane := 0xFF } s

/-- Whether a request meets a poisoned word. -/
def feBad (r : FeReq) (s : State) : Bool := isPoisoned s (sectorOf r.loc) || sectorFails s none (sectorOf r.loc)

/-- Serves one request, if its word allows it (R165). -/
def feTry (r : FeReq) (s : State) : Option State :=
  let v := BitVec.ofNat 32 (leNat (memGets s.mem r.loc 4))
  if feBad r s then some (fePoison r (feVerify r.loc s))
  else match r.kind with
  | 0 => if isFull s r.loc then some (feDeliver r (some v) s) else none
  | 1 => if isFull s r.loc then some (feDeliver r (some v) { s with feFull := setErase s.feFull (r.loc / 4) }) else none
  | _ => if isFull s r.loc then none else some (feDeliver r none (feFill r.loc r.data s))

/-- Serves a word's deferred requests from the head of their queue until one cannot be served. -/
def feServe : Nat → Nat → State → State
  | 0, _, s => s
  | n + 1, loc, s =>
    match s.feQueue.find? fun r => r.loc == loc with
    | none => s
    | some r =>
      match feTry r s with
      | none => s
      | some s => feServe n loc { s with feQueue := s.feQueue.erase r }

/-- A request arrives at the slice that keeps its word's presence bit: served, or deferred under a token; none where no token is free
(R165). -/
def feTake (r : FeReq) (s : State) : Option State :=
  match feTry r s with
  | some s => some (feServe s.feQueue.length r.loc s)
  | none =>
    if (s.feQueue.countP fun x => homeSlice x.loc == homeSlice r.loc) < 1024 then some { s with feQueue := s.feQueue ++ [r] } else none

/-- A request without a token returns to its core (R165). -/
def feArrive (r : FeReq) (s : State) : State := (feTake r s).getD { s with feRetry := s.feRetry ++ [r] }

/-- Whether a request has to wait at its core: an earlier access of its thread that is kept before it is open (R215), or a request of a
lower thread of its instruction to the same word has not reached the slice yet (R187). -/
def feBefore (s : State) (r : FeReq) : Bool :=
  waits (openOps s r.core r.slot) (feAsOp r) || s.feRetry.any fun x => x.uid == r.uid && x.loc == r.loc && decide (x.thread < r.thread)

/-- Sends a request to its slice, or holds it at its core. -/
def feSend (r : FeReq) (s : State) : State := if feBefore s r then { s with feRetry := s.feRetry ++ [r] } else feArrive r s

/-- The lowest thread whose word is full for it, under the thread order of R188. -/
def strictBad (s : State) (ls : List Reach) : Option Nat :=
  let go := ls.foldl (fun (a : Option Nat × List Nat) l =>
    let loc := leafLoc l.leaf l.va
    if l.dropped then a
    else if a.1.isSome then a
    else if isFull s loc || a.2.contains loc then (some l.t, a.2) else (none, loc :: a.2)) (none, [])
  go.1

/-- The part of a full-empty instruction that a deferred record keeps (R166, R261). -/
def feInstr (q : Ask) (s : State) (d : Nat) : FeInstr :=
  { word := BitVec.ofNat 32 ((encode q.ins).headD 0), mask := q.m, idxs := lanes.map q.idx, datas := lanes.map fun t => getV (cur s) t d }

/-- A flock has at most four full-empty instructions outstanding, strict ones among them; a fifth waits at issue (R261). -/
def fourAtMost (body : State → State) (s : State) : State :=
  if 4 ≤ (cur s).pending.countP (·.fe.isSome) then waitFor .issue s else body s

/-- ldfe and stfe (R187): an acquire or a release at .dv, then one request for each element in ascending thread order. -/
def feOp (q : Ask) (kind d f : Nat) (regs : List Nat) (s : State) : Out :=
  longOp q.ins q.m f regs (fourAtMost <| withLanes q fun ls s =>
    withScope q 4 (kind != 2) (kind == 2) true ls (fun note s =>
      let s := verifyLanes q ls s
      match poisonTrap q s ls with
      | some x => takeTrap x s
      | none =>
        let uid := s.fresh
        let drops := if kind = 2 then [] else (ls.filter (·.dropped)).map fun l => (vKey d l.t, (0 : Word))
        let x := { feInstr q s d with mask := maskOf fun t => ls.any fun l => l.t == t && !l.dropped }
        let c := s.core
        let k := s.slot
        let data (t : Nat) : Word := getV (cur s) t d
        let origin := some ((curPath s).pc, if s.second then 1 else 0, q.m)
        let s := issueLong f { noPending with vw := drops, fe := some x, origin := origin, rcd := getB (cur s) q.reg, units := laneUnits ls } (note s)
        let s := (ls.filter fun l => !l.dropped).foldl (fun s l =>
          feSend { uid := uid, loc := leafLoc l.leaf l.va, va := l.va, core := c, slot := k, thread := l.t, kind := kind, data := data l.t } s) s
        advance (wordsOf q.ins) s) s) s

/-- stfe.strict (R188): all words or none. -/
def feStrictOp (q : Ask) (d f : Nat) (regs : List Nat) (s : State) : Out :=
  longOp q.ins q.m f regs (fourAtMost <| withLanes q fun ls => ordered q f stfeAct ls fun s =>
    withScope q 4 false true true ls (fun note s =>
      let s := verifyLanes q ls s
      match poisonTrap q s ls with
      | some x => takeTrap x s
      | none =>
        match strictBad s ls with
        | some t => takeTrap (trapRec s 0x18 q.m [(0, 1, t)]) s
        | none =>
          let live := ls.filter fun l => !l.dropped
          let fill (s : State) (l : Reach) : State := feFill (leafLoc l.leaf l.va) (getV (cur s) l.t d) s
          let s := clearCovered (lanePlaces 4 ls) (live.foldl fill (note s))
          let s := live.foldl (fun s l => feServe s.feQueue.length (leafLoc l.leaf l.va) s) s
          finishLong q.ins f { noPending with fe := some noFe, units := laneUnits ls } s) s) s

/-! ### Ranges (R126, R190, R191) -/

/-- The lines of paddocks that elements lie in. -/
def lanePads (s : State) (ls : List Reach) : List (Nat × Nat) :=
  (ls.filter fun l => !l.dropped && leafHome l.leaf == 2).foldl (fun a l =>
    pairInsert a (leafPad l.leaf, lineBase s (leafPad l.leaf) (leafLoc l.leaf l.va))) []

/-- The bytes of a range's elements, as they are read in order. -/
def readRange (q : Ask) : List Reach → State → State × List Byte
  | [], s => (s, [])
  | l :: r, s =>
    let (s, d) := loadBytes (some s.core) l.leaf l.va q.bytes s
    let (s, ds) := readRange q r s
    (s, d ++ ds)

/-- Reads a range that the flock reads once: its poison, then its bytes. -/
def rangeBody (q : Ask) (body : List Byte → State → State) (ls : List Reach) (s : State) : State :=
  let s := verifyLanes q ls s
  match poisonTrap q s ls with
  | some x => takeTrap x s
  | none =>
    let (s, d) := readRange q ls s
    body d s

/-- A range that a long-latency instruction reads, in order; the units it lies in come with its bytes. -/
def withRange (q : Ask) (f : Nat) (body : List Nat → List Byte → State → State) (s : State) : State :=
  withLanes q (fun ls => ordered q f (loadAct false) ls (rangeBody q (body (laneUnits ls)) ls)) s

/-- A range that an instruction which is not long-latency reads before the flock's next one (R126, R287): it waits at issue. -/
def withRangeNow (q : Ask) (body : List Byte → State → State) (s : State) : State :=
  withLanes q (fun ls s => waitInOrder (askOp q (loadAct false) ls s) (rangeBody q body ls) s) s

end Sys2Proof.Machine
end

