-- ==== Sys2Proof/Machine/CopyOp.lean ====
section
/-! DEFINITION. Copy handles and the copy engine (R88, R141, R194 to R201, R263). -/

namespace Sys2Proof.Machine

/-! ### Handles -/

/-- A free handle that holds nothing. -/
def emptyHandle : Handle :=
  { st := .free, fault := false, cause := 0, failVa := 0, owner := none, fmt := 0, geom := 3, cb := 0, rcd := 0, more := [], bytes := 0,
    scales := [], blocks := [], tails := [], job := none, slices := [], coll := none, after := [] }

def handleAt (s : State) (c h : Nat) : Handle := smapGet emptyHandle (coreAt s c).handles h
def setHandle (c h : Nat) (x : Handle) (s : State) : State :=
  let k := coreAt s c
  setCore c { k with handles := smapSet emptyHandle k.handles h x } s

/-- The state code of R206. -/
def HState.code : HState → Nat
  | .free => 0
  | .filling => 1
  | .full => 2
  | .draining => 3

/-- Makes what waits for a handle of a core due again. -/
def pokeCore (c : Nat) (s : State) : State :=
  (s.mcasts.filter fun m => m.cores.contains c).foldl (fun s m => due (.mcastDelivery m.uid c) s) s

/-- The rows "last byte landed" and "failure" of R194. -/
def settleHandle (c h : Nat) (fault : Bool) (cause va : Nat) (s : State) : State :=
  let x := handleAt s c h
  let st : HState := if x.st = .draining then .free else .full
  let x := { x with st := st, fault := fault, cause := cause, failVa := va, job := none, coll := none, slices := [], after := [] }
  let s := pokeCore c (setHandle c h x s)
  match x.owner with
  | some o => completeCheck o.1 o.2 s
  | none => s

/-- A copy has landed. -/
def handleLands (c h : Nat) (s : State) : State := settleHandle c h false 0 0 s

/-! ### Moving elements (R197, R200) -/

/-- Why an engine stops. -/
inductive CopyStop where
  | ended
  | fails (cause va : Nat)
  | waits (va level : Nat)
  deriving DecidableEq, Repr

/-- The bits of a byte that a nibble leaves, and the nibble in its place. -/
def nibbleKeep (nib : Nat) : Byte := if nib = 0 then 0xF0 else 0x0F
def nibbleIn (nib v : Nat) : Byte := BitVec.ofNat 8 (v % 16 * 16 ^ nib)

/-- Bytes landed in a window. -/
def landIn (d : Landing) (w : Wg) : Wg :=
  { w with window := d.foldl (fun m x => smapSet 0 m x.1 ((smapGet 0 m x.1 &&& x.2.1) ||| x.2.2)) w.window }

/-- Bytes an element touches. -/
def elemSpan (e : CopyElem) : Nat := max (sizeBytes e.size) 1

/-- The bytes of the window in which elements of a copy in land. -/
def landings (es : List CopyElem) : List (Nat × Nat) := es.map fun e => (e.off, elemSpan e)

/-- The scale keys of an element from an MX page: destination key, unit offset and nibble. -/
def scaleKeys (x va : Nat) (e : CopyElem) : List (Nat × Nat × Nat) :=
  if e.size = 4 then [(e.num, va, e.nib)]
  else (List.range (sizeBytes e.size)).flatMap fun b =>
    let k := 2 * (e.num * sizeBytes e.size + b)
    if leafFormat x = 10 then [(k, va + b, 0), (k + 1, va + b, 1)] else [(k, va + b, 0)]

/-- Reads and records the scale of one key (R88): none where the scale store is full (R263). -/
def recordScale (core x : Nat) (i : Handle) (k : Nat × Nat × Nat) (s : State) : State × Option Handle :=
  if 0xF000 ≤ k.2.1 % 65536 then (s, some { i with tails := setInsert i.tails (k.1 / 2) })
  else
    let at_ := scaleVa x k.2.1 k.2.2
    if 4032 ≤ i.blocks.length ∧ (smapFind i.blocks at_).isNone then (s, none)
    else
      let (s, b) := loadBytes (some core) x at_ 1 s
      (s, some { i with blocks := smapPut i.blocks at_ (BitVec.ofNat 8 (leNat b)), scales := smapPut i.scales k.1 at_ })

/-- Reads and records the scales of several keys. -/
def recordScales (core x : Nat) : List (Nat × Nat × Nat) → Handle → State → State × Option Handle
  | [], i, s => (s, some i)
  | k :: r, i, s =>
    match recordScale core x i k s with
    | (s, some i) => recordScales core x r i s
    | (s, none) => (s, none)

/-- Whether an element of a copy in meets poison: its bytes, or a scale byte. -/
def copyBad (x va : Nat) (e : CopyElem) (s : State) : Bool :=
  elementBad s x va (elemSpan e) ||
  (isMx (leafFormat x) && (scaleKeys x va e).any fun k =>
    decide (k.2.1 % 65536 < 0xF000) && elementBad s x (scaleVa x k.2.1 k.2.2) 1)

/-- Verifies the check values of what an element of a copy in reads: its bytes, and its scale bytes (R372). -/
def verifyCopied (x va : Nat) (e : CopyElem) (s : State) : State :=
  let s := verifyElement x va (elemSpan e) s
  if isMx (leafFormat x) then
    ((scaleKeys x va e).filter fun k => decide (k.2.1 % 65536 < 0xF000)).foldl (fun s k =>
      verifyElement x (scaleVa x k.2.1 k.2.2) 1 s) s
  else s

/-- Reads one element for a copy in: where its bytes land, and the handle's record. -/
def pullOne (ag : Agent) (e : CopyElem) (i : Handle) (s : State) : State × Handle × Landing × CopyStop :=
  match e.va with
  | none =>
    (s, i, if e.size = 4 then [(e.off, nibbleKeep e.onib, 0)] else (upFrom e.off (sizeBytes e.size)).map fun a => (a, 0, 0), .ended)
  | some va =>
    match pageFor ag .read va s with
    | (s, .absent level) => (s, i, [], .waits (unitBase va) level)
    | (s, .bad cause _ _ _ _) => (s, i, [], .fails cause (unitBase va))
    | (s, .ok x) =>
      let s := verifyCopied x va e s
      if copyBad x va e s then (s, i, [], .fails 0x1A (unitBase va))
      else
        match if isMx (leafFormat x) then recordScales ag.core x (scaleKeys x va e) i s else (s, some i) with
        | (s, none) => (s, i, [], .fails 0x12 (unitBase va))
        | (s, some i) =>
          let (s, d) := loadBytes (some ag.core) x va (elemSpan e) s
          let land : Landing := if e.size = 4 then [(e.off, nibbleKeep e.onib, nibbleIn e.onib (leNat d / 16 ^ e.nib))]
            else (d.zipIdx e.off).map fun b => (b.2, 0, b.1)
          (s, { i with fmt := leafFormat x, geom := leafGeom x }, land, .ended)

/-- Reads elements in copy order until one stops the copy: the elements left come with the rest. -/
def pullAll (ag : Agent) : List CopyElem → Handle → State → State × Handle × Landing × List CopyElem × CopyStop
  | [], i, s => (s, i, [], [], .ended)
  | e :: r, i, s =>
    match pullOne ag e i s with
    | (s, i, d, .ended) =>
      let (s, i, ds, rest, stop) := pullAll ag r i s
      (s, i, d ++ ds, rest, stop)
    | (s, i, _, stop) => (s, i, [], e :: r, stop)

/-- The bytes that writes counted in halves of bytes, first half and number, cover whole. -/
def wholeBytes (l : List (Nat × Nat)) : List (Nat × Nat) :=
  l.flatMap fun r => if r.2 ≠ 1 then [(r.1 / 2, r.2 / 2)] else if r.1 % 2 = 0 ∧ l.contains (r.1 + 1, 1) then [(r.1 / 2, 1)] else []

/-- What an element writes at a place, in halves of bytes. -/
def halvesAt (e : CopyElem) (a : Nat) : Nat × Nat := if e.size = 4 then (2 * a + e.nib, 1) else (2 * a, 2 * sizeBytes e.size)

/-- Writes elements of a copy out in copy order until one stops it; the halves of bytes written and lease lines come with the rest. cov says
which sectors the copy writes whole, whose old bytes are not verified (R372). -/
def pushAll (ag : Agent) (w : Wg) (cov : Nat → Bool) : List CopyElem → List (Nat × Nat) × List (Nat × Nat) → State →
    State × (List (Nat × Nat) × List (Nat × Nat)) × List CopyElem × CopyStop
  | [], acc, s => (s, acc, [], .ended)
  | e :: r, acc, s =>
    match e.va with
    | none => pushAll ag w cov r acc s
    | some va =>
      match pageFor ag .write va s with
      | (s, .absent level) => (s, acc, e :: r, .waits (unitBase va) level)
      | (s, .bad cause _ _ _ _) => (s, acc, e :: r, .fails cause (unitBase va))
      | (s, .ok x) =>
        if leafHome x = 2 ∧ padMode s (leafPad x) = 2 then (s, acc, e :: r, .fails 0x19 (unitBase va))
        else
          let b := winBytes w e.off (elemSpan e)
          let old := (loadBytes none x va 1 s).2
          let d := if e.size = 4 then [(BitVec.ofNat 8 (leNat old) &&& nibbleKeep e.nib) ||| nibbleIn e.nib (leNat b / 16 ^ e.onib)] else b
          let s := storeBytes (some ag.core) x va d (renewSectors cov x va d.length s)
          let ls := match leaseLine s x va with
            | some l => pairInsert acc.2 l
            | none => acc.2
          pushAll ag w cov r (halvesAt e (leafLoc x va) :: acc.1, ls) s

/-- Writes elements of a copy out as far as they go: what it writes whole is known by how far that is, so that a copy that stops within a
sector verifies its old bytes (R372). -/
def pushOut (ag : Agent) (w : Wg) (es : List CopyElem) (s : State) : State × (List (Nat × Nat) × List (Nat × Nat)) × List CopyElem × CopyStop :=
  let far := (pushAll ag w (fun _ => true) es ([], []) s).2.1.1
  pushAll ag w (rangesCover (wholeBytes far)) es ([], []) s

/-- Runs the engine of a handle as far as its pages let it: what stopped it comes with the state. -/
def runCopy (c h : Nat) (j : CopyJob) (s : State) : State × CopyStop :=
  let ag : Agent := { dom := j.dom, priv := j.priv, core := c }
  if j.out then
    let (s, acc, rest, stop) := pushOut ag (wgOf s j.launch j.wg) j.rest s
    let s := clearCovered (wholeBytes acc.1) (leaseStamps (some c) acc.2 s)
    (setHandle c h { handleAt s c h with job := some { j with rest := rest, done := j.done + (j.rest.length - rest.length) } } s, stop)
  else
    let (s, i, d, rest, stop) := pullAll ag j.rest (handleAt s c h) s
    let s := updWg j.launch j.wg (landIn d) s
    (setHandle c h { i with job := some { j with rest := rest, done := j.done + (j.rest.length - rest.length) } } s, stop)

/-! ### What a copy names (R197, R201) -/

/-- The elements of a block, by row and column, that a test on the row keeps. -/
def blockPairs (p : Nat) (keep : Nat → Bool) : List (Nat × Nat) :=
  ((List.range (rcdOuter p)).filter keep).flatMap fun q => (List.range (rcdInner p)).map fun i => (q, i)

/-- A copy before it is checked: for each element its place in memory (none: out of bounds), its number in the scratchpad record and its row
of the block. -/
abbrev Pairing := List (Option (Nat × Nat) × Nat × Nat)

/-- The pairs of a block copy: memory element idx + q·Im + i with scratchpad element q·Id + i. -/
def blockPairing (r p : Nat) (idx : Int) (keep : Nat → Bool) : Pairing :=
  (blockPairs p keep).map fun x => (placeOf r (idx + (x.1 * rcdInner r + x.2 : Nat)), x.1 * rcdInner p + x.2, x.1)

/-- The pairs of gather and scatter: thread of rank j pairs outer row idx with scratchpad row j. Without .clamp an index at or above the
outer extent is out of bounds though rows have no elements, so such a row stands here by one pair that is none. -/
def rowPairing (r p : Nat) (clamp : Bool) (rows : List Nat) : Pairing :=
  rows.zipIdx.flatMap fun x =>
    if x.1 < rcdOuter r then (List.range (rcdInner r)).map fun i => (placeAt r i x.1, x.2 * rcdInner p + i, x.2)
    else (List.range (if clamp then rcdInner r else max 1 (rcdInner r))).map fun i => (none, x.2 * rcdInner p + i, x.2)

/-- The elements of a pairing whose checks have passed. -/
def copyElems (r p : Nat) (ps : Pairing) : List CopyElem :=
  ps.map fun x =>
    let y := (placeOf p x.2.1).getD (0, 0)
    { va := x.1.map fun m => rcdBase r + m.1, nib := (x.1.map (·.2)).getD 0, off := rcdBase p + y.1, onib := y.2, num := x.2.1,
      row := x.2.2, size := rcdSize p }

/-- Bytes of n elements of a size code. -/
def elemBytes (size n : Nat) : Nat := if size = 4 then n / 2 else n * sizeBytes size

/-- A copy's trap at issue. -/
def copyRec (s : State) (cause : Nat) (m : Mask) (reg : Nat) (idx : Int) (extra : List (Nat × Nat × Nat)) : TrapRec :=
  trapRec s cause m ([(0, 1, (lowest m).getD 0), (1, 1, reg), (4, 8, (idx % 2 ^ 64).toNat)] ++ extra)

/-- The thread and index that a copy's record names, by row of the block: of a copy that the flock makes once, the lowest active thread and
its index; of gather and scatter, the thread of that rank and its index (R201, R357). -/
def blockWho (m : Mask) (idx : Int) : Nat → Nat × Int := fun _ => ((lowest m).getD 0, idx)
def rowWho (m : Mask) (rows : List Nat) : Nat → Nat × Int := fun j => ((threadsOf m).getD j 0, (rows.getD j 0 : Nat))

/-- A copy's trap at a row of its block (R357). -/
def rowRec (s : State) (cause : Nat) (m : Mask) (reg : Nat) (who : Nat × Int) (extra : List (Nat × Nat × Nat)) : TrapRec :=
  trapRec s cause m ([(0, 1, who.1), (1, 1, reg), (4, 8, (who.2 % 2 ^ 64).toNat)] ++ extra)

/-- The lowest row of a copy that lies outside its records, and whether it is the memory record that it leaves. -/
def boundsRow (p : Nat) (clamp excess : Bool) (ps : Pairing) : Option (Nat × Bool) :=
  let far := if clamp then none else (ps.find? fun x => x.1.isNone).map (·.2.2)
  let past := if excess then some (rcdOuter p) else (ps.find? fun x => (placeOf p x.2.1).isNone).map (·.2.2)
  match far, past with
  | some a, some b => if b < a then some (b, false) else some (a, true)
  | some a, none => some (a, true)
  | none, some b => some (b, false)
  | none, none => none

/-- The checks of R197 and R201 at issue, in the order of R208: misfit says what else is misaligned, excess whether more threads are active
than the scratchpad record has rows. Each record names the lowest faulting thread (R357). The window is tested before the space of the
record in the scratchpad position, a memory record there too (DESIGN CHOICE, log entry 86). -/
def copyTrap (s : State) (m : Mask) (mreg preg : Nat) (who : Nat → Nat × Int) (out clamp misfit excess : Bool) (ps : Pairing) :
    Option TrapRec :=
  let r := (getB (cur s) mreg).toNat
  let p := (getB (cur s) preg).toNat
  let win := (curWg s).wn
  let beyond (x : Option (Nat × Nat) × Nat × Nat) : Bool :=
    match placeOf p x.2.1 with
    | some y => decide (win < rcdBase p + y.1 + max (sizeBytes (rcdSize p)) 1)
    | none => false
  if rcdSize r ≠ rcdSize p ∨ misfit ∨ (rcdSize p = 4 ∧ rcdInner p % 2 = 1) ∨ !baseAligned r ∨ !baseAligned p then
    some (rowRec s 0x12 m mreg (who 0) [])
  else if rcdInvalid r then some (rowRec s 0x10 m mreg (who 0) [])
  else if rcdInvalid p then some (rowRec s 0x10 m preg (who 0) [])
  else match boundsRow p clamp excess ps with
  | some (j, inMemory) => some (rowRec s 0x10 m (if inMemory then mreg else preg) (who j) [])
  | none =>
  match ps.find? beyond with
  | some x => some (rowRec s 0x11 m preg (who x.2.2) [(12, 4, win)])
  | none =>
  if rcdScratch r || !rcdScratch p || !(if out then rcdRead p && rcdWrite r else rcdRead r && rcdWrite p) then
    some (pageRec s (if out then .write else .read) m 0 0x14 0xFF 0 0)
  else none

/-- copy-fault (R141, R194, R357): the handle's state, cause and address go into the record. -/
def copyFaultRec (s : State) (m : Mask) (h : Nat) : TrapRec :=
  let x := handleAt s s.core h
  { trapRec s 0x1B m [(0, 1, x.st.code)] with va := x.failVa, hcause := x.cause, handle := h }

/-- A copy's job for the issuing flock. -/
def copyJob (s : State) (out : Bool) (scope cb : Nat) (es : List CopyElem) : CopyJob :=
  { dom := (curLaunch s).dom, priv := (curLaunch s).priv, launch := (cur s).launch, wg := (cur s).wg, out := out, scope := scope, cb := cb,
    rest := es, done := 0, tag := none }

/-- Whether a copy may be accepted on a handle: it is free. -/
def handleFree (s : State) (h : Nat) : Bool := (handleAt s s.core h).st = .free

/-- Accepts a copy (R194, R198): an empty one goes through its whole state change at once. Until a page is touched the handle records format
raw and geometry none (DESIGN CHOICE, log entry 20). -/
def acceptCopy (h preg mreg : Nat) (out : Bool) (scope : Nat) (after : List (Nat × Mask)) (es : List CopyElem) (s : State) : State :=
  let p := (getB (cur s) preg).toNat
  let cb := rcdSlot (getB (cur s) mreg).toNat
  let x : Handle := { emptyHandle with
    st := if out then .draining else .filling
    owner := some ((cur s).launch, (cur s).wg)
    cb := cb
    rcd := getB (cur s) preg
    bytes := elemBytes (rcdSize p) es.length
    job := some (copyJob s out scope cb es)
    after := after }
  let s := setHandle s.core h x s
  if es = [] then handleLands s.core h s else due (.copyLastByteLanded s.core h) s

end Sys2Proof.Machine
end

