-- ==== Sys2Proof/Machine/CopyInstr.lean ====
section
/-! DEFINITION. Copy instructions and the engine's events (R40, R194 to R206). -/

namespace Sys2Proof.Machine

/-- A copy instruction: checks first, then it waits for its handle, then the engine accepts it. -/
def copyOp (i : Instr) (m : Mask) (f h mreg preg : Nat) (out rel : Bool) (scope : Nat) (who : Nat → Nat × Int)
    (clamp misfit excess : Bool) (ps : Pairing) (s : State) : State :=
  match copyTrap s m mreg preg who out clamp misfit excess ps with
  | some r => takeTrap r s
  | none =>
    if !handleFree s h then blockAt .handle s
    else
      let es := copyElems (getB (cur s) mreg).toNat (getB (cur s) preg).toNat ps
      acceptCopy h preg mreg out scope (copyAfter s rel false m (if out then [] else landings es)) es (finishLong i f noPending s)

/-- The whole block of a copy. -/
def wholeBlock (s : State) (mreg preg : Nat) (idx : Int) : Pairing :=
  blockPairing (getB (cur s) mreg).toNat (getB (cur s) preg).toNat idx fun _ => true

/-! ### Collective copies (R199) -/

/-- collective-slice-missing (R199, R357, R360): names the exiting flock. -/
def sliceMissing (l k flock pcSlot pc : Nat) (m : Mask) (s : State) : State :=
  trapAt l k { cause := 0x1C, flock := flock, pcSlot := pcSlot, mask := m, pc := pc, va := 0, hcause := 0, handle := 0, detail := 0, lane := 0xFF } s

/-- The lowest flock of the issuing workgroup that has exited: of several R199 does not say which the record names (DESIGN CHOICE, log entry
107). -/
def exitedFlock (s : State) : Option Flock :=
  let w := curWg s
  let out := ((flocksOf s w).filter fun x => x.2.exited == BitVec.allOnes 32).map (·.2) ++ w.gone.map (·.2)
  out.foldl (fun (a : Option Flock) f => match a with
    | some g => if f.index < g.index then some f else some g
    | none => some f) none

/-- The elements of every slice in copy order: row after row of the block (R197, R199). -/
def sliceOrder (es : List CopyElem) : List CopyElem :=
  (List.range (es.foldl (fun n e => max n (e.row + 1)) 0)).flatMap fun q => es.filter fun e => e.row == q

/-- Adds a slice; the engine starts when every flock has supplied its own. The handle records the operands of the lowest flock (log entry
30). -/
def addSlice (h preg mreg : Nat) (after : List (Nat × Mask)) (es : List CopyElem) (s : State) : State :=
  let x := handleAt s s.core h
  let p := (getB (cur s) preg).toNat
  let x := if x.slices.any (fun e => decide (e.1 < (cur s).index)) then x
    else { x with cb := rcdSlot (getB (cur s) mreg).toNat, rcd := getB (cur s) preg,
                  bytes := elemBytes (rcdSize p) (rcdInner p * rcdOuter p) }
  let x := { x with slices := x.slices ++ [((cur s).index, es)], after := x.after ++ after }
  if x.slices.length < (curLaunch s).f then setHandle s.core h x s
  else
    let all := sliceOrder (x.slices.flatMap (·.2))
    let s := setHandle s.core h { x with job := some (copyJob s false 4 x.cb all) } s
    if all = [] then handleLands s.core h s else due (.copyLastByteLanded s.core h) s

/-- A flock supplies its slice of a collective copy (R40, R199). A copy whose first slice finds that a flock has exited has no effect but
the trap (DESIGN CHOICE, log entry 107). -/
def sliceOp (i : Instr) (m : Mask) (f h mreg preg : Nat) (rel : Bool) (idx : Int) (clamp : Bool) (s : State) : State :=
  let r := (getB (cur s) mreg).toNat
  let p := (getB (cur s) preg).toNat
  let me := (cur s).index
  let ps := blockPairing r p idx fun q => q % max (curLaunch s).f 1 == me
  match copyTrap s m mreg preg (blockWho m idx) false clamp false false ps with
  | some t => takeTrap t s
  | none =>
    let x := handleAt s s.core h
    let mine := x.owner = some ((cur s).launch, (cur s).wg)
    let open_ := x.st = .filling ∧ mine ∧ x.slices ≠ [] ∧ x.job = none
    let after := copyAfter s rel false m (landings (copyElems r p ps))
    if x.st = .free then
      match exitedFlock s with
      | some g =>
        let e := g.exitAt.getD (0, 0, 0)
        sliceMissing (cur s).launch (cur s).wg g.index e.2.1 e.1 e.2.2 s
      | none =>
        let s := finishLong i f noPending s
        let y : Handle := { emptyHandle with st := .filling, owner := some ((cur s).launch, (cur s).wg) }
        addSlice h preg mreg after (copyElems r p ps) (setHandle s.core h y s)
    else if open_ ∧ !(x.slices.any fun e => e.1 == me) then addSlice h preg mreg after (copyElems r p ps) (finishLong i f noPending s)
    else blockAt .handle s

/-! ### Multicast (R202) -/

/-- The cores that a mask names in the issuing core's cluster. -/
def maskCores (s : State) (mask : Nat) : List Nat :=
  ((clusterCores (curLaunch s) s.core).zipIdx.filter fun c => bitAt mask c.2).map (·.1)

/-- A multicast: the engine of the issuing core reads the block once. -/
def mcastOp (i : Instr) (m : Mask) (f h mreg preg : Nat) (rel : Bool) (scope : Nat) (idx : Int) (clamp : Bool) (cores : List Nat) (s : State) : State :=
  let ps := wholeBlock s mreg preg idx
  let p := (getB (cur s) preg).toNat
  match copyTrap s m mreg preg (blockWho m idx) false clamp false false ps with
  | some r => takeTrap r s
  | none =>
    let es := copyElems (getB (cur s) mreg).toNat p ps
    let cb := rcdSlot (getB (cur s) mreg).toNat
    let image : Handle := { emptyHandle with st := .full, cb := cb, rcd := getB (cur s) preg, bytes := elemBytes (rcdSize p) es.length }
    let after := copyAfter s rel false m (landings es)
    let s := finishLong i f noPending s
    let uid := s.fresh
    let x : Mcast :=
      { uid := uid, launch := (cur s).launch, handle := h, core := s.core, job := some (copyJob s false scope cb es), cores := cores,
        data := [], fail := none, image := image, reach := (es.map fun e => e.off + elemSpan e).foldl max 0, after := after }
    if cores = [] then s
    else cores.foldl (fun s c => due (.mcastDelivery uid c) s) { s with fresh := uid + 1, mcasts := s.mcasts ++ [x] }

/-! ### The instructions -/

/-- CP (R196, R197): copy in, relaxed at .dv. -/
def execCp (g h sx m f p : Nat) (s : State) : Out :=
  let i := Instr.cp g h sx m f p
  let act := active s g
  longOp i act f [] (fun s =>
    let idx : Int := (getS (cur s) sx).toNat
    copyOp i act f h m p false false 4 (blockWho act idx) false false false (wholeBlock s m p idx) s) s

/-- CP_COLL (R199). -/
def execCpColl (g h sx m f p : Nat) (s : State) : Out :=
  let i := Instr.cpColl g h sx m f p
  let act := active s g
  longOp i act f [] (fun s => sliceOp i act f h m p false (getS (cur s) sx).toNat false s) s

/-- CPX (R196 to R202): copy in, copy out, multicast and collective copy in. -/
def execCpx (g h a m k p cc ord sc f u cl disp : Nat) (s : State) : Out :=
  let i := Instr.cpx g h a m k p cc ord sc f u cl disp
  let act := active s g
  longOp i act f (if u = 1 then [] else [a]) (fun s =>
    let rel := ord != 0
    let idx := indexOf s (u == 1) a (dispOf disp) ((lowest act).getD 0)
    let clamp := cl == 1
    match k with
    | 0 => copyOp i act f h m p false rel sc (blockWho act idx) clamp false false (wholeBlock s m p idx) s
    | 1 => copyOp i act f h m p true rel sc (blockWho act idx) clamp false false (wholeBlock s m p idx) s
    | 2 => mcastOp i act f h m p rel sc idx clamp
        (maskCores s ((getS (cur s) cc).toNat + (getS (cur s) (cc + 1)).toNat * 2 ^ 32)) s
    | _ => sliceOp i act f h m p rel idx clamp s) s

/-- MCAST (R202): to every core of the cluster. -/
def execMcast (g h sx m f p : Nat) (s : State) : Out :=
  let i := Instr.mcast g h sx m f p
  let act := active s g
  longOp i act f [] (fun s => mcastOp i act f h m p false 4 (getS (cur s) sx).toNat false (maskCores s (2 ^ 64 - 1)) s) s

/-- A copy of one row for each active thread (R201). -/
def rowsOp (i : Instr) (act : Mask) (f h mreg preg : Nat) (out clamp : Bool) (a : Nat) (s : State) : State :=
  let r := (getB (cur s) mreg).toNat
  let p := (getB (cur s) preg).toNat
  let rows := (threadsOf act).map fun t => (getV (cur s) t a).toNat
  copyOp i act f h mreg preg out false 4 (rowWho act rows) clamp (rcdInner r != rcdInner p) (decide (rcdOuter p < rows.length))
    (rowPairing r p clamp rows) s

/-- GATHER (R201). -/
def execGather (g h a m f c p : Nat) (s : State) : Out :=
  let i := Instr.gather g h a m f c p
  let act := active s g
  longOp i act f [a] (rowsOp i act f h m p false (c == 1) a) s

/-- SCATTER (R201): rows in ascending thread order, so that the highest thread's row is left. -/
def execScatter (g h a m f c p : Nat) (s : State) : Out :=
  let i := Instr.scatter g h a m f c p
  let act := active s g
  longOp i act f [a] (rowsOp i act f h m p true (c == 1) a) s

/-- The scratchpad records that COLL names (R203). -/
def collRecords (s : State) (sx p : Nat) : List Nat :=
  let x := (getS (cur s) (sx + 2)).toNat
  p :: (List.range (bits x 1 0)).map fun n => bits x (4 * n + 5) (4 * n + 2)

/-- The checks of COLL at issue. That each record needs read and write permission is the model's (DESIGN CHOICE, log entry 109). -/
def collTrap (s : State) (m : Mask) (recs : List Nat) : Option TrapRec :=
  let rcd (n : Nat) : Nat := (getB (cur s) n).toNat
  let win := (curWg s).wn
  let offs (n : Nat) : List (Option (Nat × Nat)) := (List.range (rcdInner (rcd n) * rcdOuter (rcd n))).map fun (e : Nat) => placeOf (rcd n) (e : Int)
  match recs.find? fun n => rcdSize (rcd n) != 2 || !baseAligned (rcd n) with
  | some n => some (copyRec s 0x12 m n 0 [])
  | none =>
    match recs.find? fun n => rcdInvalid (rcd n) with
    | some n => some (copyRec s 0x10 m n 0 [])
    | none =>
      match recs.find? fun n => (offs n).any fun o => o.isNone with
      | some n => some (copyRec s 0x10 m n 0 [])
      | none =>
        match recs.find? fun n => rcdScratch (rcd n) && (offs n).any fun o => decide (win < rcdBase (rcd n) + (o.getD (0, 0)).1 + 4) with
        | some n => some (copyRec s 0x11 m n 0 [(12, 4, win)])
        | none =>
          if recs.any fun n => !rcdScratch (rcd n) || !rcdRead (rcd n) || !rcdWrite (rcd n) then
            some (pageRec s .write m 0 0x14 0xFF 0 0)
          else none

/-- COLL (R203, R204): the issuing core joins the reduction with its named buffers. -/
def execColl (g h sx p f o : Nat) (s : State) : Out :=
  let i := Instr.coll g h sx p f o
  let act := active s g
  longOp i act f [] (fun s =>
    let recs := collRecords s sx p
    match collTrap s act recs with
    | some r => takeTrap r s
    | none =>
      if !handleFree s h then blockAt .handle s
      else
        let rcd (n : Nat) : Nat := (getB (cur s) n).toNat
        let mask := (getS (cur s) sx).toNat + (getS (cur s) (sx + 1)).toNat * 2 ^ 32
        let cores := maskCores s mask
        let offs := recs.flatMap fun n => (List.range (rcdInner (rcd n) * rcdOuter (rcd n))).map fun (e : Nat) =>
          rcdBase (rcd n) + ((placeOf (rcd n) (e : Int)).getD (0, 0)).1
        let l := (cur s).launch
        let k := (cur s).wg
        let x : Handle := { emptyHandle with
          st := .filling
          owner := some (l, k)
          rcd := getB (cur s) p
          more := recs.tail.map (getB (cur s))
          bytes := 4 * offs.length
          coll := some { launch := l, wg := k, cores := cores, op := o, offs := offs, own := cores.contains s.core }
          after := copyAfter s false true act (offs.map fun o => (o, 4)) }
        due (.copyLastByteLanded s.core h) (setHandle s.core h x (finishLong i f noPending s))) s

/-- Whether another workgroup's transfer keeps a handle from being named (R195). -/
def foreignHandle (s : State) (h : Nat) : Bool :=
  let x := handleAt s s.core h
  x.st != .free && x.owner != some ((cur s).launch, (cur s).wg)

/-- CPWAIT (R194, R205). -/
def execCpwait (g h w : Nat) (s : State) : Out :=
  let i := Instr.cpwait g h w
  let act := active s g
  checked i act (legalForm i) [] (fun s =>
    let x := handleAt s s.core h
    if act = 0 then advance (wordsOf i) s
    else if foreignHandle s h ∨ x.st ≠ (if w = 0 then .full else .free) then blockAt .handle s
    else if x.fault then takeTrap (copyFaultRec s act h) s
    else advance (wordsOf i) s) s

/-- The handle that a held matrix instruction will read. -/
def heldHandle (i : Instr) : Option Nat :=
  match i with
  | .mma _ _ _ b _ src _ _ _ => if src = 0 then some b else none
  | .mmaSp _ _ _ b _ _ src _ _ _ => if src = 0 then some b else none
  | _ => none

/-- Whether a held matrix instruction of the core has yet to read a handle: freeing it takes effect only after that (R141, R216 note 10). -/
def matrixReads (s : State) (h : Nat) : Bool := s.held.any fun x => x.core == s.core && heldHandle x.ins == some h

/-- CPFREE (R194, R205). -/
def execCpfree (g h : Nat) (s : State) : Out :=
  let i := Instr.cpfree g h
  let act := active s g
  checked i act (legalForm i) [] (fun s =>
    let x := handleAt s s.core h
    if act = 0 then advance (wordsOf i) s
    else if foreignHandle s h ∨ x.st = .filling ∨ x.st = .draining ∨ matrixReads s h then blockAt .handle s
    else advance (wordsOf i) (pokeCore s.core (setHandle s.core h { x with st := .free, fault := false, cause := 0, failVa := 0 } s))) s

/-- experimental-stepping (R68, R357). -/
def steppingRec (s : State) (m : Mask) : TrapRec :=
  trapRec s 0x03 m [(0, 1, (curObj s).stepping), (1, 1, s.mgmt.stepping), (2, 1, 0x4F)]

/-- The fields that HSTAT reads (R206). -/
def handleWord (x : Handle) : Nat := x.st.code + (if x.fault then 4 + 256 * x.cause else 0)

/-- HSTAT (R68, R206): stepping 2 alone, in an object made for it. The stepping is tested whether or not a thread is active (DEDUCED, log
entry 79). -/
def execHstat (g d h : Nat) (s : State) : Out :=
  let i := Instr.hstat g d h
  let act := active s g
  checked i act (legalForm i) [] (fun s =>
    if s.mgmt.stepping ≠ 2 ∨ (curObj s).stepping ≠ 2 then takeTrap (steppingRec s act) s
    else finish i (fun f => emit f act (.s d) fun _ => (BitVec.ofNat 32 (handleWord (handleAt s s.core h)), 0)) s) s

/-! ### The engine's events -/

/-- One step of a collective's fold (R203). -/
def collCombine (o : Nat) (x y : Nat) : Nat :=
  match o with
  | 0 => (x + y) % 2 ^ 32
  | 1 => (faddCode fmtF32 x y).1
  | 2 => if toSigned 32 y < toSigned 32 x then y else x
  | 3 => if toSigned 32 x < toSigned 32 y then y else x
  | 4 => min x y
  | 5 => max x y
  | 6 => fminmaxCode fmtF32 false x y
  | _ => fminmaxCode fmtF32 true x y

/-- Whether the accesses that an engine waits for are all performed (R200, R215). -/
def afterDone (s : State) (after : List (Nat × Mask)) : Bool := !after.any (stillOpen s)

/-- The collective request that a core has on a handle for a launch, once what its issue releases is performed (R204). -/
def collOn (s : State) (l h c : Nat) : Option CollReq :=
  match (handleAt s c h).coll with
  | some r => if r.launch = l ∧ afterDone s (handleAt s c h).after then some r else none
  | none => none

/-- A collective that fails on a core (R203): the spec names no cause for it, so the cause is a free value (log entry 17). -/
def collFails (c h : Nat) (s : State) : State :=
  takeFree (settleHandle c h true ((Config.freeWord s.fresh).toNat % 256) 0 s)

/-- The cores that take part in a collective with those of a list: whom their requests name, and who names one of them. -/
def collParts (open_ : List (Nat × CollReq)) : Nat → List Nat → List Nat
  | 0, l => l
  | n + 1, l =>
    collParts open_ n (open_.foldl (fun a q =>
      if a.contains q.1 || q.2.cores.any a.contains then q.2.cores.foldl setInsert (setInsert a q.1) else a) l)

/-- Completes a collective once every core that takes part in it has issued its own (R203). -/
def collRun (c h : Nat) (r : CollReq) (s : State) : State :=
  let open_ := (clusterCores (launchOf s r.launch) c).filterMap fun k => (collOn s r.launch h k).map fun q => (k, q)
  let parts := collParts open_ open_.length [c]
  let reqs := r.cores.filterMap (collOn s r.launch h)
  if parts.any (fun k => !open_.any fun q => q.1 == k) then s
  else
    let agree := open_.all fun q => !parts.contains q.1 ||
      (q.2.own && q.2.cores == r.cores && q.2.op == r.op && q.2.offs.length == r.offs.length)
    if !agree then parts.foldl (fun s c => collFails c h s) s
    else
      let vals := reqs.map fun q => q.offs.map fun o => leNat (winBytes (wgOf s q.launch q.wg) o 4)
      let result := match vals with
        | [] => []
        | v :: vs => vs.foldl (List.zipWith (collCombine r.op)) v
      let put (q : CollReq) (s : State) : State :=
        updWg q.launch q.wg (fun w => (q.offs.zip result).foldl (fun w x => winPuts x.1 (leBytes 4 x.2) w) w) s
      let s := reqs.foldl (fun s q => put q s) s
      parts.foldl (fun s c => handleLands c h s) s

/-- Whether a handle's transfer may go on: its workgroup is on the core, no fault entry holds it, and what it is kept after is performed. -/
def jobRuns (s : State) (c h : Nat) : Option CopyJob :=
  match (handleAt s c h).job with
  | some j => if j.tag.isNone ∧ onCore (wgOf s j.launch j.wg) ∧ afterDone s (handleAt s c h).after then some j else none
  | none => none

/-- A copy engine waits on a page that is not resident (R195, R257). -/
def copyWaits (c h : Nat) (j : CopyJob) (va level : Nat) (s : State) : State :=
  let tag := s.mgmt.nextTag
  let x := handleAt s c h
  newFault j.dom va (if j.out then 1 else 0) level (.copy c h) none
    (setHandle c h { x with job := x.job.map fun k => { k with tag := some tag } } s)

/-- COPY_LAST_BYTE_LANDED (R194, R200, R203): the engine moves what it can; a page that fails makes that failure due. -/
def execCopyLastByteLanded (core handle : Nat) (s : State) : Out :=
  .next (match (handleAt s core handle).coll with
    | some r => collRun core handle r s
    | none =>
      match jobRuns s core handle with
      | none => s
      | some j =>
        match runCopy core handle j s with
        | (s, .ended) => handleLands core handle s
        | (s, .fails _ _) => due (.copyPageFailure core handle) s
        | (s, .waits va level) => copyWaits core handle j va level s)

/-- COPY_PAGE_FAILURE (R194, R200): the copy ends at its first element whose page fails. -/
def execCopyPageFailure (core handle : Nat) (s : State) : Out :=
  .next (match jobRuns s core handle with
    | none => s
    | some j =>
      match runCopy core handle j s with
      | (s, .fails cause va) => settleHandle core handle true cause va s
      | (s, .ended) => handleLands core handle s
      | (s, .waits va level) => copyWaits core handle j va level s)

def updMcast (uid : Nat) (f : Mcast → Mcast) (s : State) : State := { s with mcasts := updFirst (fun m => m.uid == uid) f s.mcasts }

/-- Reads the block of a multicast, once (R202). -/
def mcastRead (m : Mcast) (j : CopyJob) (s : State) : State :=
  let ag : Agent := { dom := j.dom, priv := j.priv, core := m.core }
  let (s, i, d, rest, stop) := pullAll ag j.rest m.image s
  let m := { m with image := i, data := m.data ++ d }
  match stop with
  | .ended => updMcast m.uid (fun _ => { m with job := none }) s
  | .fails cause va => updMcast m.uid (fun _ => { m with job := none, fail := some (cause, va) }) s
  | .waits va level =>
    let tag := s.mgmt.nextTag
    newFault j.dom va 0 level (.mcast m.uid) none (updMcast m.uid (fun _ => { m with job := some { j with rest := rest, tag := some tag } }) s)

/-- The lowest-indexed resident workgroup of a launch on a core. -/
def lowestResident (s : State) (l c : Nat) : Option Wg :=
  (s.wgs.filter fun w => w.launch == l && w.core == c && w.phase == .resident).foldl (fun a w => match a with
    | some b => if w.index < b.index then some w else some b
    | none => some w) none

/-- Delivers a block into one destination core. R202 gives no order of its two failures and no address for a window that is too small: a
failed read of the slice gives cause and address, a window alone gives address 0 (DESIGN CHOICE, log entry 93). -/
def mcastLand (m : Mcast) (core : Nat) (w : Wg) (s : State) : State :=
  let i := { m.image with owner := some (w.launch, w.index) }
  let bad := match m.fail with
    | some x => some x
    | none => if w.wn < m.reach then some (0x11, 0) else none
  let i := match bad with
    | some x => { i with fault := true, cause := x.1, failVa := x.2 }
    | none => i
  let s := if w.wn < m.reach then s else updWg w.launch w.index (landIn m.data) s
  let s := setHandle core m.handle i s
  let s := updMcast m.uid (fun m => { m with cores := setErase m.cores core }) s
  { s with mcasts := s.mcasts.filter fun m => m.cores != [] }

/-- MCAST_DELIVERY (R44, R202): waits for a resident workgroup of the launch and for its handle. -/
def execMcastDelivery (uid core : Nat) (s : State) : Out :=
  let get (s : State) : Option Mcast := s.mcasts.find? fun m => m.uid == uid && m.cores.contains core
  .next (match get s with
    | none => s
    | some m =>
      let s := match m.job with
        | some j => if j.tag.isNone && afterDone s m.after then mcastRead m j s else s
        | none => s
      match get s with
      | none => s
      | some m =>
        if m.job.isSome then s
        else match lowestResident s m.launch core with
          | none => s
          | some w => if (handleAt s core m.handle).st = .free then mcastLand m core w s else s)

end Sys2Proof.Machine
end

