-- ==== Sys2Proof/Machine/Elementary.lean ====
section
/-! DEFINITION. The correctly rounded functions of R117. Reciprocals are rounded from an exact quotient with a sticky bit; the others
from a fixed-point enclosure whose two ends round alike (log entry 5). -/

namespace Sys2Proof.Machine

/-- Bits of the whole square root still to be tried, from the top. -/
def isqrtGo (n : Nat) : Nat → Nat → Nat
  | 0, r => r
  | k + 1, r => if (r + 2 ^ k) * (r + 2 ^ k) ≤ n then isqrtGo n k (r + 2 ^ k) else isqrtGo n k r

/-- The whole square root. -/
def isqrt (n : Nat) : Nat := isqrtGo n (Nat.log2 n / 2 + 1) 0

/-- A quotient with one more bit that says whether anything was left: rounds as the exact value does. -/
def withSticky (q : Nat) (left : Bool) : Nat := 2 * q + (if left then 1 else 0)

/-- 1/x of a finite value that is not zero. -/
def recipVal (neg : Bool) (m : Nat) (e : Int) : FVal :=
  let k := Nat.log2 m + 64
  .fin neg (withSticky (2 ^ k / m) (2 ^ k % m != 0)) (-(k : Int) - 1 - e)

/-- 1/√x of a finite value above zero. -/
def rsqrtVal (m : Nat) (e : Int) : FVal :=
  let m' := if e % 2 = 0 then m else 2 * m
  let e' := if e % 2 = 0 then e else e - 1
  let k := Nat.log2 m' + 64
  let r := isqrt (2 ^ (2 * k) / m')
  .fin false (withSticky r (r * r * m' != 2 ^ (2 * k))) (-(k : Int) - 1 - e' / 2)

/-- Fixed-point terms of a power series: term := term · x / 2^P / (step i), summed with the sign that alternates when alt holds. -/
def seriesGo (P : Nat) (x : Int) (den : Nat → Int) (alt : Bool) : Nat → Nat → Int → Int → Int
  | 0, _, _, acc => acc
  | fuel + 1, i, term, acc =>
    let t := term * x / 2 ^ P / den i
    let t := if alt then -t else t
    seriesGo P x den alt fuel (i + 1) t (acc + t)

/-- Terms z^(2i+1)/(2i+1): atanh z, or atan z when alt holds, at P fractional bits. -/
def arctanGo (P : Nat) (zz : Int) (alt : Bool) : Nat → Nat → Int → Int → Int
  | 0, _, _, acc => acc
  | fuel + 1, i, pw, acc =>
    let t := pw / (2 * (i : Int) + 1)
    arctanGo P zz alt fuel (i + 1) (pw * zz / 2 ^ P) (if alt && i % 2 == 1 then acc - t else acc + t)

/-- ln 2 at 320 fractional bits: 2 atanh(1/3). -/
def ln2Fix : Int := 2 * arctanGo 320 (2 ^ 320 / 9) false 110 0 (2 ^ 320 / 3) 0

/-- π at 704 fractional bits: 16 atan(1/5) - 4 atan(1/239). -/
def piFix : Int :=
  16 * arctanGo 704 (2 ^ 704 / 25) true 160 0 (2 ^ 704 / 5) 0 - 4 * arctanGo 704 (2 ^ 704 / 57121) true 60 0 (2 ^ 704 / 239) 0

/-- An enclosure of a real number: a whole number of units 2^(-P), with slack on both sides. -/
structure Enclosure where
  mid : Int
  slack : Nat
  frac : Nat
  deriving DecidableEq, Repr

/-- One end of an enclosure as an exact value. -/
def endVal (n : Int) (P : Nat) (e : Int) : FVal := .fin (decide (n < 0)) n.natAbs (e - P)

/-- The rounding of a real number 2^e · x, x enclosed: none where the two ends round differently. -/
def roundEnclosed (f : Fmt) (ftz : Bool) (b : Enclosure) (e : Int) : Option (Nat × Nat) :=
  let lo := fround79 f .rn false ftz (endVal (b.mid - b.slack) b.frac e)
  let hi := fround79 f .rn false ftz (endVal (b.mid + b.slack) b.frac e)
  if lo = hi then some lo else none

/-- 2^x for x = m · 2^e that is not whole and below 2^10 in magnitude: an enclosure of 2^(x - floor x), and floor x. -/
def exp2Enclosed (neg : Bool) (m : Nat) (e : Int) : Enclosure × Int :=
  let s : Int := if neg then -(m : Int) else m
  let k := (-e).toNat
  let whole := s / 2 ^ k
  let frac := s - whole * 2 ^ k
  let x := frac * ln2Fix / 2 ^ k
  let one : Int := 2 ^ 320
  ({ mid := seriesGo 320 x (fun i => (i : Int) + 1) false 70 0 one one, slack := 2 ^ 16, frac := 320 }, whole)

/-- log2 of m · 2^e above zero and not a power of two. -/
def log2Enclosed (m : Nat) (e : Int) : Enclosure :=
  let n := Nat.log2 m
  let big := decide (3 * 2 ^ n < 2 * m)
  let x := (e + n) + (if big then 1 else 0)
  let n := if big then n + 1 else n
  let num : Int := (m : Int) - 2 ^ n
  let z : Int := num * 2 ^ 320 / ((m : Int) + 2 ^ n)
  let ln := 2 * arctanGo 320 (z * z / 2 ^ 320) false 80 0 z 0
  { mid := x * 2 ^ 320 + ln * 2 ^ 320 / ln2Fix, slack := 2 ^ 20, frac := 320 }

/-- sin and cos of r at 704 fractional bits, r within a quarter turn. -/
def sinFix (r : Int) : Int := seriesGo 704 (r * r / 2 ^ 704) (fun i => (2 * (i : Int) + 2) * (2 * (i : Int) + 3)) true 80 0 r r
def cosFix (r : Int) : Int :=
  seriesGo 704 (r * r / 2 ^ 704) (fun i => (2 * (i : Int) + 1) * (2 * (i : Int) + 2)) true 80 0 (2 ^ 704) (2 ^ 704)

/-- sin x or cos x of a finite value that is not zero: the quarter turn it lies in, then the series. -/
def trigEnclosed (wantCos neg : Bool) (m : Nat) (e : Int) : Enclosure :=
  let x : Int := scaledTo (-704) neg m e
  let half := piFix / 2
  let n := (2 * x + half) / (2 * half)
  let r := x - n * half
  let k := (n + (if wantCos then 1 else 0)) % 4
  let v := if k = 0 then sinFix r else if k = 1 then cosFix r else if k = 2 then -sinFix r else -cosFix r
  { mid := v, slack := 2 ^ 150, frac := 704 }

/-- The unary functions of majors 0x16 to 0x1B. -/
inductive UnaryFn where
  | rcp
  | rsq
  | ex2
  | lg2
  | sin
  | cos
  deriving DecidableEq, Repr

/-- A number for each function, by which its free values are told apart. -/
def unaryNumber : UnaryFn → Nat
  | .rcp => 0
  | .rsq => 1
  | .ex2 => 2
  | .lg2 => 3
  | .sin => 4
  | .cos => 5

/-- A power of two as a whole number, where m · 2^e is one. -/
def pow2Exponent (m : Nat) (e : Int) : Option Int := if m = 2 ^ Nat.log2 m then some ((Nat.log2 m : Int) + e) else none

/-- A rounded real number, with a free value where the enclosure does not decide (log entry 5). -/
def orFree (fn : UnaryFn) (f : Fmt) (a : Nat) (r : Option (Nat × Nat)) : Nat × Nat :=
  match r with
  | some x => x
  | none => ((Config.undecided (unaryNumber fn) (f.ebits + f.mbits) a).toNat % 2 ^ (f.ebits + f.mbits + 1), flInexact)

/-- R117 per element: special results first, then the correctly rounded value. -/
def unaryCode (fn : UnaryFn) (f : Fmt) (ftz : Bool) (a : Nat) : Nat × Nat :=
  let bad := (nanCode f, flInvalid)
  let inf (neg : Bool) := (withSign f neg (infCode f), 0)
  let zero (neg : Bool) := (withSign f neg 0, 0)
  let one := fround79 f .rn false false (.fin false 1 0)
  match fdecode f (flushIn f ftz a) with
  | .nan => (nanCode f, 0)
  | .inf neg =>
    match fn with
    | .rcp => zero neg
    | .rsq => if neg then bad else zero false
    | .ex2 => if neg then zero false else inf false
    | .lg2 => if neg then bad else inf false
    | .sin => bad
    | .cos => bad
  | .fin neg m e =>
    if m = 0 then
      match fn with
      | .rcp => inf neg
      | .rsq => inf neg
      | .ex2 => one
      | .lg2 => inf true
      | .sin => zero neg
      | .cos => one
    else
      match fn with
      | .rcp => fround79 f .rn false ftz (recipVal neg m e)
      | .rsq => if neg then bad else fround79 f .rn false ftz (rsqrtVal m e)
      | .ex2 =>
        if (10 : Int) ≤ (Nat.log2 m : Int) + e then roundFin f .rn false ftz false 3 (if neg then -2000 else 2000)
        else if 0 ≤ e then roundFin f .rn false ftz false 1 ((if neg then -1 else 1) * ((m : Int) * 2 ^ e.toNat))
        else if m % 2 ^ (-e).toNat = 0 then
          roundFin f .rn false ftz false 1 ((if neg then -1 else 1) * ((m / 2 ^ (-e).toNat : Nat) : Int))
        else
          let (b, whole) := exp2Enclosed neg m e
          orFree fn f a (roundEnclosed f ftz b whole)
      | .lg2 =>
        if neg then bad
        else match pow2Exponent m e with
          | some x => roundFin f .rn false ftz (decide (x < 0)) x.natAbs 0
          | none => orFree fn f a (roundEnclosed f ftz (log2Enclosed m e) 0)
      | .sin => orFree fn f a (roundEnclosed f ftz (trigEnclosed false neg m e) 0)
      | .cos => orFree fn f a (roundEnclosed f ftz (trigEnclosed true neg m e) 0)

end Sys2Proof.Machine
end

