-- ==== Sys2Proof/Machine/VecFloat.lean ====
section
/-! DEFINITION. Float instructions (R101, R114 to R121). -/

namespace Sys2Proof.Machine

/-- The format of a float major's type code (R56). -/
def floatFmt (t : Nat) : Fmt := if t = 0 then fmtF32 else if t = 1 then fmtBf16 else fmtF16

/-- The packed types of the float majors (R56). -/
def isPackedFloat (t : Nat) : Bool := t != 0

/-- A two-operand float major: op gives code and flags in a format. -/
def floatOp (i : Instr) (g d a b c t : Nat) (op : Fmt → Nat → Nat → Nat × Nat) (s : State) : Out :=
  binOp i g d a b c (isPackedFloat t) (fun _ x y => op (floatFmt t) x y) s

/-- FADD (R114). -/
def execFadd (g d a b c t : Nat) (s : State) : Out := floatOp (.fadd g d a b c t) g d a b c t faddCode s

/-- FSUB (R114). -/
def execFsub (g d a b c t : Nat) (s : State) : Out := floatOp (.fsub g d a b c t) g d a b c t fsubCode s

/-- FMUL (R114). -/
def execFmul (g d a b c t : Nat) (s : State) : Out := floatOp (.fmul g d a b c t) g d a b c t fmulCode s

/-- FMIN (R115). -/
def execFmin (g d a b c t : Nat) (s : State) : Out :=
  floatOp (.fmin g d a b c t) g d a b c t (fun f x y => (fminmaxCode f false x y, 0)) s

/-- FMAX (R115). -/
def execFmax (g d a b c t : Nat) (s : State) : Out :=
  floatOp (.fmax g d a b c t) g d a b c t (fun f x y => (fminmaxCode f true x y, 0)) s

/-- FCMP (R101, R116). -/
def execFcmp (g k p a b c t : Nat) (s : State) : Out :=
  predOp (.fcmp g k p a b c t) (active s g) p [srcOf c a, srcB c b]
    (fun f th => fcmpCond k (fdecode fmtF32 (readSrc f (srcOf c a) th).toNat) (fdecode fmtF32 (readSrc f (srcB c b) th).toNat)) s

/-- FCMP_I (R101, R116). -/
def execFcmpI (g k p a c t imm : Nat) (s : State) : Out :=
  predOp (.fcmpI g k p a c t imm) (active s g) p [srcOf c a]
    (fun f th => fcmpCond k (fdecode fmtF32 (readSrc f (srcOf c a) th).toNat) (fdecode fmtF32 imm)) s

/-- A unary float major of R117. -/
def unaryOp (i : Instr) (fn : UnaryFn) (g d a f c t : Nat) (s : State) : Out :=
  unOp i g d a c (isPackedFloat t) (fun _ x => unaryCode fn (floatFmt t) (f == 1) x) s

/-- FRCP (R117). -/
def execFrcp (g d a f c t : Nat) (s : State) : Out := unaryOp (.frcp g d a f c t) .rcp g d a f c t s

/-- FRSQ (R117). -/
def execFrsq (g d a f c t : Nat) (s : State) : Out := unaryOp (.frsq g d a f c t) .rsq g d a f c t s

/-- FEX2 (R117). -/
def execFex2 (g d a f c t : Nat) (s : State) : Out := unaryOp (.fex2 g d a f c t) .ex2 g d a f c t s

/-- FLG2 (R117). -/
def execFlg2 (g d a f c t : Nat) (s : State) : Out := unaryOp (.flg2 g d a f c t) .lg2 g d a f c t s

/-- FSIN (R117). -/
def execFsin (g d a f c t : Nat) (s : State) : Out := unaryOp (.fsin g d a f c t) .sin g d a f c t s

/-- FCOS (R117). -/
def execFcos (g d a f c t : Nat) (s : State) : Out := unaryOp (.fcos g d a f c t) .cos g d a f c t s

/-- FCLASS (R118). -/
def execFclass (g d a c t : Nat) (s : State) : Out :=
  unOp (.fclass g d a c t) g d a c (isPackedFloat t) (fun _ x => (fclassCode (floatFmt t) x, 0)) s

/-- FSCALE (R119): the scale is read as a signed element of the operand's width. -/
def execFscale (g d a b c t : Nat) (s : State) : Out :=
  binOp (.fscale g d a b c t) g d a b c (isPackedFloat t) (fun w x y => fscaleCode (floatFmt t) x (toSigned w y)) s

/-- FROUND (R120). -/
def execFround (g d a f r c t : Nat) (s : State) : Out :=
  unOp (.fround g d a f r c t) g d a c (isPackedFloat t)
    (fun _ x => froundCode (floatFmt t) ((rmodeOf r).getD .rn) (f == 1) x) s

/-- FFMA (R121): bit 3 of the format field is .ftz, the rest the rounding code. -/
def execFfma (g d a b c t cc fm : Nat) (s : State) : Out :=
  regOp (.ffma g d a b c t cc fm) (active s g) (dstOf c d) [srcOf c a, srcB c b, srcOf c cc]
    (fun f th => perElement (isPackedFloat t)
      (fun _ x y z => ffmaCode (floatFmt t) ((rmodeOf (fm % 8)).getD .rn) (8 ≤ fm) x y z)
      (readSrc f (srcOf c a) th) (readSrc f (srcB c b) th) (readSrc f (srcOf c cc) th)) s

end Sys2Proof.Machine
end

