-- ==== Sys2Proof/Machine/VecInt.lean ====
section
/-! DEFINITION. Integer and bit instructions, moves and special values (R63, R64, R104 to R113, R128). -/

namespace Sys2Proof.Machine

/-- The packed types of the integer majors (R56, R82). -/
def isPacked (t : Nat) : Bool := decide (2 ≤ t)

/-- The signed types of the integer majors (R56). -/
def isSignedType (t : Nat) : Bool := t % 2 == 1

/-- An integer major of R104: op gives the exact result, taken modulo 2^w. -/
def intOp (i : Instr) (g d a b c t : Nat) (op : Nat → Nat → Nat → Int) (s : State) : Out :=
  binOp i g d a b c (isPacked t) (fun w x y => (wrapInt w (op w x y), 0)) s

/-- IADD (R104). -/
def execIadd (g d a b c t : Nat) (s : State) : Out := intOp (.iadd g d a b c t) g d a b c t (fun _ x y => (x : Int) + y) s

/-- ISUB (R104). -/
def execIsub (g d a b c t : Nat) (s : State) : Out := intOp (.isub g d a b c t) g d a b c t (fun _ x y => (x : Int) - y) s

/-- IMUL (R104). -/
def execImul (g d a b c t : Nat) (s : State) : Out := intOp (.imul g d a b c t) g d a b c t (fun _ x y => (x : Int) * y) s

/-- AND (R104). -/
def execAndB (g d a b c t : Nat) (s : State) : Out := intOp (.andB g d a b c t) g d a b c t (fun _ x y => ((x &&& y : Nat) : Int)) s

/-- OR (R104). -/
def execOrB (g d a b c t : Nat) (s : State) : Out := intOp (.orB g d a b c t) g d a b c t (fun _ x y => ((x ||| y : Nat) : Int)) s

/-- XOR (R104). -/
def execXorB (g d a b c t : Nat) (s : State) : Out := intOp (.xorB g d a b c t) g d a b c t (fun _ x y => ((x ^^^ y : Nat) : Int)) s

/-- SHL (R104). -/
def execShl (g d a b c t : Nat) (s : State) : Out :=
  intOp (.shl g d a b c t) g d a b c t (fun w x y => ((x * 2 ^ (y % w) : Nat) : Int)) s

/-- SHR (R104): zeros enter, or copies of the sign bit. -/
def execShr (g d a b c t : Nat) (s : State) : Out :=
  intOp (.shr g d a b c t) g d a b c t (fun w x y => readAs (isSignedType t) w x / 2 ^ (y % w)) s

/-- IABSD (R104). -/
def execIabsd (g d a b c t : Nat) (s : State) : Out :=
  intOp (.iabsd g d a b c t) g d a b c t
    (fun w x y => ((readAs (isSignedType t) w x - readAs (isSignedType t) w y).natAbs : Int)) s

/-- The smaller or the larger of two elements, compared as the type says (R105). -/
def minMax (wantMax signed : Bool) (w x y : Nat) : Nat :=
  let less := decide (readAs signed w x < readAs signed w y)
  if wantMax == less then y else x

/-- IMIN (R105). -/
def execImin (g d a b c t : Nat) (s : State) : Out :=
  binOp (.imin g d a b c t) g d a b c false (fun w x y => (minMax false (isSignedType t) w x y, 0)) s

/-- IMAX (R105). -/
def execImax (g d a b c t : Nat) (s : State) : Out :=
  binOp (.imax g d a b c t) g d a b c false (fun w x y => (minMax true (isSignedType t) w x y, 0)) s

/-- The counts of R106: set bits, leading zeros, trailing zeros. -/
def countBits (kind w x : Nat) : Nat :=
  match kind with
  | 0 => (List.range w).countP x.testBit
  | 1 => if x = 0 then w else w - 1 - Nat.log2 x
  | _ => ((List.range w).find? x.testBit).getD w

/-- BITCOUNT (R106). -/
def execBitcount (g d a b c t : Nat) (s : State) : Out :=
  unOp (.bitcount g d a b c t) g d a c (isPacked t) (fun w x => (countBits b w x, 0)) s

/-- Position and width of a bit field (R107). -/
def fieldPos (x : Nat) : Nat := bits x 4 0
def fieldWidth (x : Nat) : Nat := min (bits x 13 8) 32

/-- The field of R107: bits above 31 read as 0. -/
def extractField (signed : Bool) (x y : Nat) : Nat :=
  let wid := fieldWidth y
  let f := x / 2 ^ fieldPos y % 2 ^ wid
  if wid = 0 then 0 else if signed then wrapInt 32 (toSigned wid f) else f

/-- BFE (R107). -/
def execBfe (g d a b c t : Nat) (s : State) : Out :=
  binOp (.bfe g d a b c t) g d a b c false (fun _ x y => (extractField (isSignedType t) x y, 0)) s

/-- MOV (R111): forms v from v, v from s, s from s, and s from the lowest active thread's v. -/
def execMov (g d a f n : Nat) (s : State) : Out :=
  let src : Src := if f = 0 ∨ f = 3 then .v a else .s a
  regOp (.mov g d a f n) (activeNeg s g n) (if f < 2 then .v d else .s d) [src] (fun k t => (readSrc k src t, 0)) s

/-- SEL (R112): the named predicate selects, for every thread of the path that has not exited. -/
def execSel (p d a b c : Nat) (s : State) : Out :=
  regOp (.sel p d a b c) (liveMask (cur s) (curPath s)) (dstOf c d) [srcOf c a, srcB c b]
    (fun f t => (if inMask (getP f p) t then readSrc f (srcOf c a) t else readSrc f (srcB c b) t, 0)) s

/-- Whether element e of B wins against A: ties keep A (R113). -/
def picksB (signed : Bool) (e : Nat) (x y : Word) : Bool := decide (readAs signed 16 (half x e) < readAs signed 16 (half y e))

/-- MAX2SEL (R113). -/
def execMax2sel (g d a b q t u : Nat) (s : State) : Out :=
  let i := Instr.max2sel g d a b q t u
  let m := active s g
  let srcb : Src := if u = 1 then .s b else .v b
  let wins (f : Flock) (e th : Nat) : Bool := picksB (t == 1) e (getV f th a) (readSrc f srcb th)
  let value (f : Flock) (th : Nat) : Word × Nat :=
    let x := getV f th a
    let y := readSrc f srcb th
    (joinHalves (half (if wins f 0 th then y else x) 0) (half (if wins f 1 th then y else x) 1), 0)
  checked i m (legalForm i) ([d, a] ++ srcRegs srcb)
    (finish i fun f =>
      let r := emit f m (.v d) (value f)
      if q = 3 then r else putP (putP r (2 * q) m (maskOf (wins f 0))) (2 * q + 1) m (maskOf (wins f 1))) s

/-- The special values of R64, as thread t reads them. -/
def special (s : State) (sel t : Nat) : Nat :=
  let f := cur s
  let l := curLaunch s
  match sel with
  | 0x00 => 32 * f.index + t
  | 0x01 => t
  | 0x02 => f.index
  | 0x03 => f.wg
  | 0x04 => s.core % 24
  | 0x05 => s.core / 24
  | 0x06 => l.fx
  | 0x07 => l.fy
  | 0x08 => l.fw
  | 0x09 => l.fh
  | 0x0A => l.n
  | 0x0B => l.f
  | 0x0C => clockOf s s.core
  | 0x0D => s.time
  | 0x0E => (coreAt s s.core).pts.toNat
  | 0x0F => f.status.toNat
  | _ => f.budget

/-- SREG (R63, R64): reads a special value and, with .clr, clears the sticky flags after the read. -/
def execSreg (g d sx u c : Nat) (s : State) : Out :=
  let i := Instr.sreg g d sx u c
  let m := active s g
  let dst : Dst := if u = 1 then .s d else .v d
  checked i m (legalForm i) (dstRegs dst)
    (finish i fun f =>
      let r := emit f m dst fun t => (BitVec.ofNat 32 (special s sx t), 0)
      if c = 1 ∧ m ≠ 0 then { r with status := statusClear r.status } else r) s

/-- The integer conditions of R101. -/
def icmpCond (k : Nat) (x y : Int) : Bool :=
  match k with
  | 0 => decide (x = y)
  | 1 => decide (x ≠ y)
  | 2 => decide (x < y)
  | 3 => decide (x ≤ y)
  | 4 => decide (y < x)
  | _ => decide (y ≤ x)

/-- ICMP (R101, R128). -/
def execIcmp (g k p a b c t : Nat) (s : State) : Out :=
  predOp (.icmp g k p a b c t) (active s g) p [srcOf c a, srcB c b]
    (fun f th => icmpCond k (readAs (isSignedType t) 32 (readSrc f (srcOf c a) th).toNat)
      (readAs (isSignedType t) 32 (readSrc f (srcB c b) th).toNat)) s

/-- ICMP_I (R101, R128). -/
def execIcmpI (g k p a c t imm : Nat) (s : State) : Out :=
  predOp (.icmpI g k p a c t imm) (active s g) p [srcOf c a]
    (fun f th => icmpCond k (readAs (isSignedType t) 32 (readSrc f (srcOf c a) th).toNat) (readAs (isSignedType t) 32 imm)) s

/-- The range of a type (R85). -/
def typeMin (signed : Bool) (w : Nat) : Int := if signed then -(2 ^ (w - 1) : Int) else 0
def typeMax (signed : Bool) (w : Nat) : Int := if signed then (2 ^ (w - 1) : Int) - 1 else (2 ^ w : Int) - 1

/-- An element of IMAD (R108), modular or saturating. -/
def madElement (sat signed : Bool) (w x y z : Nat) : Nat × Nat :=
  let e := readAs signed w x * readAs signed w y + readAs signed w z
  if sat then
    let r := clampInt (typeMin signed w) (typeMax signed w) e
    (wrapInt w r.1, r.2)
  else (wrapInt w e, 0)

/-- The 64-bit result of the widening IMAD (R108). -/
def madWide (signed : Bool) (x y lo hi : Nat) : Nat :=
  wrapInt 64 (readAs signed 32 x * readAs signed 32 y + ((hi * 2 ^ 32 + lo : Nat) : Int))

/-- IMAD (R108). -/
def execImad (g d a b c t cc fm : Nat) (s : State) : Out :=
  let i := Instr.imad g d a b c t cc fm
  let m := active s g
  let sa := srcOf c a
  let sb := srcB c b
  if fm = 2 then
    let wide (f : Flock) (th : Nat) : Nat :=
      madWide (isSignedType t) (readSrc f sa th).toNat (readSrc f sb th).toNat (readSrc f (srcOf c cc) th).toNat
        (readSrc f (srcOf c (cc + 1)) th).toNat
    checked i m (legalForm i)
      (dstRegs (dstOf c d) ++ dstRegs (dstOf c (d + 1)) ++ [sa, sb, srcOf c cc, srcOf c (cc + 1)].flatMap srcRegs)
      (finish i fun f => emit (emit f m (dstOf c d) fun th => (BitVec.ofNat 32 (wide f th), 0)) m (dstOf c (d + 1))
        fun th => (BitVec.ofNat 32 (wide f th / 2 ^ 32), 0)) s
  else
    regOp i m (dstOf c d) [sa, sb, srcOf c cc]
      (fun f th => perElement (isPacked t) (madElement (fm == 1) (isSignedType t)) (readSrc f sa th) (readSrc f sb th)
        (readSrc f (srcOf c cc) th)) s

/-- The result of BFI (R109): bits that would fall above bit 31 are dropped. -/
def insertField (x y z : Nat) : Nat :=
  let pos := fieldPos z
  let wid := fieldWidth z
  (x % 2 ^ pos + y % 2 ^ wid * 2 ^ pos + x / 2 ^ (pos + wid) * 2 ^ (pos + wid)) % 2 ^ 32

/-- BFI (R109). -/
def execBfi (g d a b c t cc fm : Nat) (s : State) : Out :=
  regOp (.bfi g d a b c t cc fm) (active s g) (dstOf c d) [srcOf c a, srcB c b, srcOf c cc]
    (fun f th => (BitVec.ofNat 32 (insertField (readSrc f (srcOf c a) th).toNat (readSrc f (srcB c b) th).toNat
      (readSrc f (srcOf c cc) th).toNat), 0)) s

/-- MOV_I (R111). -/
def execMovI (g d c t imm : Nat) (s : State) : Out :=
  regOp (.movI g d c t imm) (active s g) (dstOf c d) [] (fun _ _ => (BitVec.ofNat 32 imm, 0)) s

/-- IADD_I (R110): a packed immediate adds half by half. -/
def execIaddI (g d a c t imm : Nat) (s : State) : Out :=
  regOp (.iaddI g d a c t imm) (active s g) (dstOf c d) [srcOf c a]
    (fun f th => perElement (isPacked t) (fun w x y _ => (wrapInt w ((x : Int) + y), 0)) (readSrc f (srcOf c a) th)
      (BitVec.ofNat 32 imm) 0) s

end Sys2Proof.Machine
end

