-- ==== Sys2Proof/Machine/FabricImage.lean ====
section
/-! DEFINITION. Fabric images: their records, the checks of R295 and the sufficiency check of R296. -/

namespace Sys2Proof.Machine

/-! ### Operator and switch records (R293, R294) -/

def opKind (op : Nat) : Nat := bits op 63 58
def opA (op : Nat) : Nat := bits op 57 51
def opB (op : Nat) : Nat := bits op 50 44
def opBase (op : Nat) : Nat := bits op 43 37
def opMask (op : Nat) : Nat := bits op 36 33
def opFmt (op : Nat) : Nat := bits op 32 31
def opVariant (op : Nat) : Nat := bits op 30 28
def opConst (op : Nat) : Nat := bits op 23 8
def opDelay (op : Nat) : Nat := bits op 7 0

/-- The queue field that names no queue: the constant, or an unused port. -/
def noQueue : Nat := 0x7F

/-- An idle lane's record. -/
def idleOp : Nat := 0x7F * 2 ^ 51 + 0x7F * 2 ^ 44

/-- The constant as the operator's format reads it (R293). -/
def opConstant (op : Nat) : Nat :=
  if opFmt op = 0 then opConst op * 65536
  else if opFmt op = 2 then wrapInt 32 (toSigned 16 (opConst op))
  else opConst op

/-- The queues of route bits lo to hi. -/
def routeBits (op lo hi : Nat) : List Nat := ((upFrom lo (hi - lo + 1)).filter fun i => bitAt (opMask op) i).map (opBase op + ·)

/-- The destination queues of an operator's route. -/
def route (op : Nat) : List Nat := routeBits op 0 3

/-- Port k of a switch record. -/
def portOf (sw k : Nat) : Nat := bits sw (57 - 7 * k) (51 - 7 * k)
def usedPorts (sw : Nat) : List Nat := ((List.range 8).map (portOf sw)).filter fun q => q != noQueue

/-! ### Parsing (R291, R292, R295) -/

/-- A parsed image: operators by lane, switch records by lane, and for each queue its preferred and required depth. -/
structure Image where
  ops : List Nat
  switches : SMap Nat
  entries : List (Nat × Nat × Nat)
  deriving DecidableEq, Repr

/-- A field of an image. -/
def imgNat (b : List Byte) (off n : Nat) : Nat := leNat ((b.drop off).take n)

/-- Whether a record's fields suit its kind (R293, R300): what the kind does not use is idle. -/
def opLegal (op : Nat) : Bool :=
  let k := opKind op
  let noB := opB op == noQueue
  let plain := opVariant op == 0
  let common := bits op 27 24 == 0 && (opDelay op == 0 || k == 0x0D)
  common && (match k with
    | 0x00 => op == idleOp
    | 0x07 => decide (opVariant op < 6) || decide (opFmt op < 2)
    | 0x08 => opFmt op == 1 && plain && noB
    | 0x0D => plain && noB
    | 0x10 => opA op == noQueue && noB && opFmt op == 0 && opConst op == 0 && decide (opVariant op < 2)
    | 0x11 => noB && opBase op == 0 && opMask op == 0 && opFmt op == 0 && opConst op == 0 && decide (opVariant op < 2)
    | 0x13 => plain && noB
    | k => plain && (decide (k < 0x0D) || k == 0x12))

/-- The consumption of queues: each input, and each port of a `collect` lane, with its lane (R295). -/
def consumers (i : Image) : List (Nat × Nat) :=
  (i.ops.zipIdx.flatMap fun x => ([opA x.1, opB x.1].filter fun q => q != noQueue).map fun q => (q, x.2)) ++
  i.switches.flatMap fun x => if opKind (i.ops.getD x.1 0) = 0x13 then (usedPorts x.2).map fun q => (q, x.1) else []

def noRepeats (l : List Nat) : Bool := l.eraseDups.length == l.length

/-- The checks of R295 on what the tables hold. -/
def imageLegal (i : Image) : Bool :=
  let used := (consumers i).map (·.1)
  let named := i.entries.map (·.1)
  let isSwitch (l : Nat) : Bool := opKind (i.ops.getD l 0) == 0x12 || opKind (i.ops.getD l 0) == 0x13
  i.ops.all (fun op => opLegal op && (route op).all fun q => decide (q < noQueue) && used.contains q) &&
  i.switches.all (fun x => isSwitch x.1 && bits x.2 1 0 == 0 &&
    (opKind (i.ops.getD x.1 0) == 0x13 || (usedPorts x.2).all used.contains)) &&
  (List.range i.ops.length).all (fun l => !isSwitch l || (i.switches.any fun x => x.1 == l)) &&
  noRepeats used && noRepeats named && used.all named.contains && named.all used.contains &&
  i.entries.all (fun e => decide (1 ≤ e.2.2) && decide (e.2.2 ≤ e.2.1)) &&
  decide ((i.entries.map (·.2.1)).sum ≤ 4096) && decide ((i.ops.map opDelay).sum ≤ 4096)

/-- Parses an image whose record gives extent bytes: none where it is malformed (R295). A table that has an offset and no entries, or
entries and no offset, is malformed too, though R295 does not list it (DESIGN CHOICE, log entry 38). -/
def parseImage (b : List Byte) (extent : Nat) : Option Image :=
  let n := imgNat b 6 1
  let nsw := imgNat b 7 1
  let ns := imgNat b 8 2
  let len := imgNat b 12 4
  let so := imgNat b 16 4
  let oo := imgNat b 20 4
  let wo := imgNat b 24 4
  let headerOk := imgNat b 0 4 == 0x5CA7FAB0 && imgNat b 4 2 == 1 && imgNat b 10 2 == 0 && imgNat b 0x1C 36 == 0 &&
    decide (1 ≤ n) && decide (n ≤ 64) && decide (nsw ≤ 16) && decide (ns ≤ 127) && len % 8 == 0 && decide (64 ≤ len) && decide (len ≤ extent)
  let placesOk := so % 8 == 0 && oo % 8 == 0 && wo % 8 == 0 && (so == 0) == (ns == 0) && (wo == 0) == (nsw == 0) &&
    decide (so + 4 * ns ≤ len) && decide (oo + 8 * n ≤ len) && decide (wo + 8 * nsw ≤ len)
  if !headerOk || !placesOk then none
  else
    let words := (List.range ns).map fun k => imgNat b (so + 4 * k) 4
    let sws := (List.range nsw).map fun k => imgNat b (wo + 8 * k) 8
    let lanes := sws.map fun w => bits w 63 58
    let i : Image :=
      { ops := (List.range n).map fun k => imgNat b (oo + 8 * k) 8
        switches := sws.foldl (fun m w => smapPut m (bits w 63 58) w) []
        entries := words.map fun w => (bits w 31 25, bits w 24 13, bits w 12 1) }
    if imageLegal i && noRepeats lanes && words.all (fun w => bits w 0 0 == 0) then some i else none

/-! ### Sufficiency (R296) -/

def up16 (n : Nat) : Nat := (n + 15) / 16 * 16

/-- The octet that holds a queue: its consumer's. -/
def queueOctet (i : Image) (q : Nat) : Nat := (((consumers i).find? fun c => c.1 == q).map (·.2)).getD 0 / 8

/-- Register blocks of an octet that resident flocks hold. -/
def heldBlocks (s : State) (core octet : Nat) : Nat :=
  ((coreAt s core).flocks.map fun f => if f.2.launch ≠ 0 ∧ f.2.octet = octet then f.2.budget / 8 else 0).sum

/-- Words of an octet that delay lines take. -/
def delayWords (ops : List Nat) (octet : Nat) : Nat :=
  (ops.zipIdx.map fun x => if x.2 / 8 = octet then up16 (opDelay x.1) else 0).sum

/-- The depths of one octet's queues, none where the required ones do not fit. -/
def octetDepths (s : State) (core : Nat) (i : Image) (octet : Nat) : Option (List (Nat × Nat)) :=
  let free := 256 * (64 - heldBlocks s core octet)
  let qs := i.entries.filter fun e => queueOctet i e.1 == octet
  let fixed := delayWords i.ops octet
  let want := fixed + (qs.map fun e => up16 e.2.1).sum
  let need := fixed + (qs.map fun e => up16 e.2.2).sum
  if want ≤ free then some (qs.map fun e => (e.1, e.2.1))
  else if need ≤ free then some (qs.map fun e => (e.1, e.2.2))
  else none

/-- The sufficiency check: the depth of every queue. -/
def chooseDepths (s : State) (core : Nat) (i : Image) : Option (SMap Nat) :=
  (List.range 8).foldl (fun a o =>
    match a, octetDepths s core i o with
    | some m, some l => some (l.foldl (fun m e => smapPut m e.1 e.2) m)
    | _, _ => none) (some [])

/-! ### A loaded fabric (R287) -/

/-- A lane without state. -/
def emptyLane : Lane :=
  { state := 0, line := [], flags := 0, turnB := false, tokens := 0, cmds := [], running := false, pos := 0, moved := 0,
    markerSent := false, ended := false, field := 0, short := false, stuck := none }

/-- A lane as its operator starts (R300, R301): scan's state and the delay line hold the constant. -/
def freshLane (op : Nat) : Lane :=
  { emptyLane with
    state := if opKind op = 0x08 then BitVec.ofNat 32 (opConst op * 65536) else 0
    line := List.replicate (opDelay op) (BitVec.ofNat 32 (opConstant op)) }

/-- A fabric just loaded. -/
def newFabric (i : Image) (va len control : Nat) (depth : SMap Nat) : Fabric :=
  { image := va, length := len, control := control, ops := i.ops.map fun x => BitVec.ofNat 64 x,
    switches := i.switches.map fun x => (x.1, BitVec.ofNat 64 x.2), depth := depth, queues := [],
    lanes := i.ops.zipIdx.foldl (fun m x => smapSet emptyLane m x.2 (freshLane x.1)) [], flying := [], draining := none }

end Sys2Proof.Machine
end

