-- ==== Sys2Proof/Machine/FabricOp.lean ====
section
/-! DEFINITION. How operators fire: queues, tags, flags and results (R297 to R303), and a fabric's end (R289). -/

namespace Sys2Proof.Machine

/-! ### Lanes and queues -/

def laneAt (f : Fabric) (l : Nat) : Lane := smapGet emptyLane f.lanes l
def setLane (l : Nat) (x : Lane) (f : Fabric) : Fabric := { f with lanes := smapSet emptyLane f.lanes l x }
def opAt (f : Fabric) (l : Nat) : Nat := (f.ops.getD l (BitVec.ofNat 64 idleOp)).toNat
def switchAt (f : Fabric) (l : Nat) : Nat := (smapGet 0 f.switches l).toNat
def queueAt (f : Fabric) (q : Nat) : List QEntry := smapGet [] f.queues q
def setQueue (q : Nat) (x : List QEntry) (f : Fabric) : Fabric := { f with queues := smapSet [] f.queues q x }

/-- Whether a queue has room for one more entry. -/
def hasRoom (f : Fabric) (q : Nat) : Bool := decide ((queueAt f q).length < smapGet 0 f.depth q)

/-- Takes a queue's head; the constant is never used up. -/
def dropHead (q : Nat) (f : Fabric) : Fabric := if q = noQueue then f else setQueue q (queueAt f q).tail f

/-- Appends an entry to queues. -/
def appendAll (qs : List Nat) (e : QEntry) (f : Fabric) : Fabric := qs.foldl (fun f q => setQueue q (queueAt f q ++ [e]) f) f

def dataEntry (x : Nat) : QEntry := { word := BitVec.ofNat 32 x, tag := .data, flags := 0 }
def errorEntry : QEntry := { word := 0, tag := .error, flags := 0 }
def markerEntry (fl : Nat) : QEntry := { word := 0, tag := .marker, flags := fl }

/-- An input's head: a queue's, or the constant. -/
def inputHead (f : Fabric) (op q : Nat) : Option QEntry :=
  if q = noQueue then some (dataEntry (opConstant op)) else (queueAt f q).head?

/-- An output word as its format writes it (R300): BF16 leaves bits 31:16 zero. -/
def formatted (op x : Nat) : Nat := if opFmt op = 1 then x % 65536 else x % 2 ^ 32

/-! ### Tags (R298) -/

/-- What a firing takes and what it puts out, by the tags of its heads. -/
structure TagPlan where
  takeA : Bool
  takeB : Bool
  out : QTag
  deriving DecidableEq, Repr

/-- The table of R298. A constant goes with data and with a marker. -/
def tagPlan (constA constB : Bool) (a b : QTag) : TagPlan :=
  match a, b with
  | .data, .data => { takeA := true, takeB := true, out := .data }
  | .marker, .marker => { takeA := true, takeB := true, out := .marker }
  | .marker, .data => if constB then { takeA := true, takeB := true, out := .marker } else { takeA := false, takeB := true, out := .error }
  | .data, .marker => if constA then { takeA := true, takeB := true, out := .marker } else { takeA := true, takeB := false, out := .error }
  | .error, .marker => { takeA := true, takeB := false, out := .error }
  | .marker, .error => { takeA := false, takeB := true, out := .error }
  | _, _ => { takeA := true, takeB := true, out := .error }

/-! ### Results on data (R300, R301) -/

/-- The float format of an operator. -/
def opFloat (op : Nat) : Fmt := if opFmt op = 0 then fmtF32 else fmtBf16

/-- An arithmetic operator, by kind 1 to 5, and fma: value and flags. -/
def arithResult (op a b : Nat) : Nat × Nat :=
  let k := opKind op
  if opFmt op < 2 then
    let f := opFloat op
    let x := formatted op a
    let y := formatted op b
    match k with
    | 1 => faddCode f x y
    | 2 => fsubCode f x y
    | 3 => fmulCode f x y
    | 4 => (fminmaxCode f false x y, 0)
    | 5 => (fminmaxCode f true x y, 0)
    | _ => ffmaCode f .rn false x y (formatted op (opConstant op))
  else
    match k with
    | 1 => (wrapInt 32 ((a : Int) + b), 0)
    | 2 => (wrapInt 32 ((a : Int) - b), 0)
    | 3 => (wrapInt 32 ((a : Int) * b), 0)
    | 4 => (minMax false (opFmt op == 2) 32 a b, 0)
    | 5 => (minMax true (opFmt op == 2) 32 a b, 0)
    | _ => (wrapInt 32 ((a : Int) * b + opConstant op), 0)

/-- cmp (R300): the condition of R101 on the format's values. -/
def cmpResult (op a b : Nat) : Bool :=
  if opFmt op < 2 then
    fcmpCond (opVariant op) (fdecode (opFloat op) (formatted op a)) (fdecode (opFloat op) (formatted op b))
  else icmpCond (opVariant op) (readAs (opFmt op == 2) 32 a) (readAs (opFmt op == 2) 32 b)

/-- scan (R301): the new state, the output and the flags of both roundings. -/
def scanResult (state a : Nat) : Nat × Nat × Nat :=
  let st := fresult fmtF32 .rn false false (faddVal .rn (fdecode fmtF32 state) (fdecode fmtBf16 (a % 65536)))
  let out := fround79 fmtBf16 .rn false false (fdecode fmtF32 st.1)
  (st.1, out.1, flOr st.2 out.2)

/-- One firing's effect on data: the lane, the word and where it goes. -/
structure Fired where
  lane : Lane
  word : Nat
  dest : List Nat

/-- Where split sends a value for a control word (R300). -/
def splitRoute (op control : Nat) : List Nat := if control ≠ 0 then routeBits op 0 1 else routeBits op 2 3

/-- The result of an operator of R298's rows on data. -/
def fireData (op a b : Nat) (x : Lane) : Fired :=
  match opKind op with
  | 0x07 => { lane := x, word := if cmpResult op a b then 1 else 0, dest := route op }
  | 0x08 =>
    let r := scanResult x.state.toNat a
    { lane := { x with state := BitVec.ofNat 32 r.1, flags := flOr x.flags r.2.2 }, word := r.2.1, dest := route op }
  | 0x09 => { lane := x, word := formatted op (if a ≠ 0 then b else opConstant op), dest := route op }
  | 0x0B => { lane := x, word := formatted op a, dest := splitRoute op b }
  | 0x0C => { lane := x, word := formatted op a, dest := if b ≠ 0 then route op else [] }
  | 0x0D =>
    let line := x.line ++ [BitVec.ofNat 32 (formatted op a)]
    { lane := { x with line := line.tail }, word := (line.headD 0).toNat, dest := route op }
  | _ =>
    let r := arithResult op a b
    { lane := { x with flags := flOr x.flags r.2 }, word := r.1, dest := route op }

/-! ### Firing -/

/-- The marker a lane puts out: its flags ride in it and are cleared (R299). -/
def markerOut (x : Lane) (fields : Nat) : QEntry × Lane := (markerEntry (flOr fields x.flags), { x with flags := 0 })

/-- The lane after it puts out an error token (R298): its flag is set where it did not receive one. -/
def errorOut (received : Bool) (x : Lane) : Lane := if received then x else { x with flags := flOr x.flags flToken }

/-- Fires an operator of one or two inputs (R298). -/
def firePlain (l op : Nat) (f : Fabric) : Option Fabric :=
  match inputHead f op (opA op), inputHead f op (opB op) with
  | some a, some b =>
    let p := tagPlan (opA op == noQueue) (opB op == noQueue) a.tag b.tag
    let x := laneAt f l
    if !(route op).all (hasRoom f) then none
    else
      let g := if p.takeA then dropHead (opA op) f else f
      let g := if p.takeB then dropHead (opB op) g else g
      some (match p.out with
        | .marker =>
          let r := markerOut x (flOr a.flags b.flags)
          let x := if opKind op = 0x08 then { r.2 with state := BitVec.ofNat 32 (opConst op * 65536) } else r.2
          appendAll (route op) r.1 (setLane l x g)
        | .error =>
          let x := errorOut (a.tag == .error || b.tag == .error) x
          let qs := if opKind op = 0x0B ∧ p.takeB ∧ b.tag = .data then splitRoute op b.word.toNat else route op
          appendAll qs errorEntry (setLane l x g)
        | .data =>
          let r := fireData op a.word.toNat b.word.toNat x
          appendAll r.dest (dataEntry r.word) (setLane l r.lane g))
  | _, _ => none

/-- Fires merge (R300): inputs by turns; a marker only when both heads are markers. -/
def fireMerge (l op : Nat) (f : Fabric) : Option Fabric :=
  let x := laneAt f l
  let q := if x.turnB then opB op else opA op
  if !(route op).all (hasRoom f) then none
  else match inputHead f op q with
    | none => none
    | some e =>
      if e.tag = .marker then
        match inputHead f op (opA op), inputHead f op (opB op) with
        | some a, some b =>
          if (tagPlan (opA op == noQueue) (opB op == noQueue) a.tag b.tag).out = .marker then
            let r := markerOut x (flOr a.flags b.flags)
            some (appendAll (route op) r.1 (setLane l { r.2 with turnB := false } (dropHead (opA op) (dropHead (opB op) f))))
          else none
        | _, _ => none
      else
        let out := if e.tag = .data then dataEntry (formatted op e.word.toNat) else errorEntry
        some (appendAll (route op) out (setLane l { x with turnB := !x.turnB } (dropHead q f)))

/-- Fires distribute (R302): B goes to the port that A names; a queue takes one end marker, however many ports and route bits name it. A
marker in one input only, or an error token in A, is taken as R298's table takes it, and puts an error token out on the route, cases of
which R302 says nothing (DESIGN CHOICE, log entry 36). -/
def fireDistribute (l op : Nat) (f : Fabric) : Option Fabric :=
  match inputHead f op (opA op), inputHead f op (opB op) with
  | some a, some b =>
    let p := tagPlan (opA op == noQueue) (opB op == noQueue) a.tag b.tag
    let x := laneAt f l
    let port := if a.tag = .data ∧ a.word.toNat < 8 then portOf (switchAt f l) a.word.toNat else noQueue
    let named := a.tag = .data ∧ p.takeA ∧ p.takeB ∧ port ≠ noQueue
    let dest := if p.out = .marker then (usedPorts (switchAt f l) ++ route op).eraseDups else if named then [port] else route op
    if !(route op ++ dest).all (hasRoom f) then none
    else
      let g := if p.takeA then dropHead (opA op) f else f
      let g := if p.takeB then dropHead (opB op) g else g
      some (match p.out with
        | .marker =>
          let r := markerOut x (flOr a.flags b.flags)
          appendAll dest r.1 (setLane l r.2 g)
        | .data =>
          if named then appendAll dest (dataEntry (formatted op b.word.toNat)) g
          else appendAll dest errorEntry (setLane l (errorOut false x) g)
        | .error => appendAll dest errorEntry (setLane l (errorOut (a.tag == .error || b.tag == .error) x) g))
  | _, _ => none

/-- Fires collect (R302): the head of the port that A names goes to its route. R302 says nothing of an end marker or an error token in A:
either goes to the route at once, with no port taken. An end marker at the head of the port that A names passes as data does (DESIGN CHOICE,
log entry 36). -/
def fireCollect (l op : Nat) (f : Fabric) : Option Fabric :=
  match inputHead f op (opA op) with
  | none => none
  | some a =>
    let x := laneAt f l
    if !(route op).all (hasRoom f) then none
    else
      let g := dropHead (opA op) f
      match a.tag with
      | .marker =>
        let r := markerOut x a.flags
        some (appendAll (route op) r.1 (setLane l r.2 g))
      | .error => some (appendAll (route op) errorEntry g)
      | .data =>
        let port := if a.word.toNat < 8 then portOf (switchAt f l) a.word.toNat else noQueue
        if port = noQueue then some (appendAll (route op) errorEntry (setLane l (errorOut false x) g))
        else match (queueAt f port).head? with
          | none => none
          | some h =>
            let g := dropHead port g
            match h.tag with
            | .marker =>
              let r := markerOut x h.flags
              some (appendAll (route op) r.1 (setLane l r.2 g))
            | .error => some (appendAll (route op) errorEntry g)
            | .data => some (appendAll (route op) (dataEntry (formatted op h.word.toNat)) g)

/-- Fires a lane's operator, where it can fire (R297). -/
def fire (l : Nat) (f : Fabric) : Option Fabric :=
  let op := opAt f l
  match opKind op with
  | 0x00 => none
  | 0x0A => fireMerge l op f
  | 0x10 => none
  | 0x11 => none
  | 0x12 => fireDistribute l op f
  | 0x13 => fireCollect l op f
  | _ => firePlain l op f

/-! ### The end of a fabric (R289) -/

/-- Flags of every operator. -/
def fabricFlags (f : Fabric) : Nat := flAll (f.lanes.map fun e => e.2.flags)

/-- A mode switch releases the reuse latches of a core's flocks (R41). -/
def dropLatches (c : Nat) (s : State) : State :=
  let k := coreAt s c
  let drop (e : Nat × Flock) : Nat × Flock := (e.1, { smapGet emptyFlock k.flocks e.1 with latch := none })
  setCore c { k with flocks := (k.flocks.map drop).filter fun e => e.2 != emptyFlock } s

/-- Returns a core to SIMT mode: the operators' flags go into the control flock's status, and the rest is discarded. A save that waited for
the drain is due at once. -/
def leaveFabric (c : Nat) (s : State) : State :=
  let k := coreAt s c
  match k.fabric with
  | none => s
  | some f =>
    let x := flockAt s c f.control
    let s := setFlock c f.control { x with status := statusSet x.status (fabricFlags f % 64) } s
    let s := dropLatches c (setCore c { coreAt s c with fabric := none } s)
    if f.draining.isSome then due (.workgroupSave x.launch x.wg) s else s

/-- Whether any stream command of a core has not reached its completion event. -/
def streamsBusy (s : State) (c : Nat) : Bool :=
  match (coreAt s c).fabric with
  | some f => f.lanes.any fun e => e.2.cmds != []
  | none => false

end Sys2Proof.Machine
end

