-- ==== Sys2Proof/Machine/Accum.lean ====
section
/-! DEFINITION. The carry-save accumulator of the matrix unit (R94 to R98): products and partials are added exactly into segments of 16
columns with one exponent, and rounded to FP32 once. -/

namespace Sys2Proof.Machine

/-- The window of R94: significand width, scale offset and floor. -/
def accWidth (narrow : Bool) : Nat := if narrow then 48 else 64
def accOffset (narrow : Bool) : Int := if narrow then 24 else 40
def accFloor (narrow : Bool) : Int := if narrow then 36 else 52

/-- An element in its reset state. -/
def elemZero : Elem := { sig := 0, sticky := false, special := 0 }

/-- A segment in its reset state (R94). -/
def segZero : Seg := { norm := false, e := -1024, els := List.replicate 16 elemZero }

/-- AccShift (R95): a rescale by n bits; discarded bits leave sticky. -/
def accShift (g : Seg) (n : Nat) : Seg :=
  { g with
    els := g.els.map fun x => { x with sticky := x.sticky || decide (x.sig % 2 ^ n ≠ 0), sig := x.sig / 2 ^ n }
    e := g.e + n }

/-- SpecialSum (R95) of an element's special field with another special (0 for a finite value): the new field, and invalid. -/
def specialSum (a b : Nat) : Nat × Bool :=
  if a = 3 ∨ b = 3 then (3, false)
  else if a = 0 then (b, false)
  else if b = 0 ∨ a = b then (a, false)
  else (3, true)

/-- The special field of a value. -/
def specialOf (v : FVal) : Nat :=
  match v with
  | .nan => 3
  | .inf neg => if neg then 2 else 1
  | .fin .. => 0

/-- The last step of an addition: a rescale by one where an element has reached 2^(W-2). -/
def accSettle (narrow : Bool) (g : Seg) : Seg :=
  if g.els.any fun x => decide (2 ^ (accWidth narrow - 2) ≤ x.sig.natAbs) then accShift g 1 else g

/-- AccAdd (R95) without the re-entry of a normalised segment: the segment, and whether invalid is set. -/
def accAddRaw (narrow : Bool) (g : Seg) (j : Nat) (p : FVal) : Seg × Bool :=
  let x0 := g.els.getD j elemZero
  if specialOf p ≠ 0 ∨ x0.special ≠ 0 then
    let (sp, bad) := specialSum x0.special (specialOf p)
    ({ g with els := g.els.set j { x0 with special := sp } }, bad)
  else match p with
    | .fin neg m k =>
      if m = 0 then (g, false)
      else
        let x : Int := (Nat.log2 m : Int) + k
        let g := if g.e + 10 < x then accShift g (x - g.e).toNat else g
        let xj := g.els.getD j elemZero
        if x < g.e - accFloor narrow then ({ g with els := g.els.set j { xj with sticky := true } }, false)
        else
          let sh := k + accOffset narrow - g.e
          let a : Nat := if 0 ≤ sh then m * 2 ^ sh.toNat else m / 2 ^ (-sh).toNat
          let lost := decide (sh < 0) && (m % 2 ^ (-sh).toNat != 0)
          let y := { xj with sticky := xj.sticky || lost, sig := if neg then xj.sig - a else xj.sig + a }
          let g := { g with els := g.els.set j y }
          (if 2 ^ (accWidth narrow - 2) ≤ y.sig.natAbs then accShift g 1 else g, false)
    | _ => (g, false)

/-- Adds FP32 values to the elements of a segment in ascending column order. -/
def accAddAll (narrow : Bool) : Nat → List Nat → Seg → Seg
  | _, [], g => g
  | j, y :: r, g => accAddAll narrow (j + 1) r (accAddRaw narrow g j (fdecode fmtF32 y)).1

/-- The FP32 code a normalised element holds. -/
def heldF32 (x : Elem) : Nat := x.sig.toNat % 4294967296

/-- AccReenter (R98): a normalised segment returns to carry-save form, raising no flag. -/
def accReenter (narrow : Bool) (g : Seg) : Seg := if g.norm then accAddAll narrow 0 (g.els.map heldF32) segZero else g

/-- AccAdd (R95, R98). -/
def accAdd (narrow : Bool) (g : Seg) (j : Nat) (p : FVal) : Seg × Bool := accAddRaw narrow (accReenter narrow g) j p

/-- AccMerge (R96): t combined with u, and whether an invalid sum was met. -/
def accMerge (narrow : Bool) (t u : Seg) : Seg × Bool :=
  let t := accReenter narrow t
  let u := accReenter narrow u
  let n := max t.e u.e
  let t := accShift t (n - t.e).toNat
  let u := accShift u (n - u.e).toNat
  let els := List.zipWith (fun a b =>
    ({ sig := a.sig + b.sig, sticky := a.sticky || b.sticky, special := (specialSum a.special b.special).1 } : Elem)) t.els u.els
  let bad := (List.zipWith (fun a b => (specialSum a.special b.special).2) t.els u.els).any id
  (accSettle narrow { t with els := els }, bad)

/-- AccNormalise (R97) of one element: its FP32 code and flags. -/
def accNormElem (narrow : Bool) (e : Int) (x : Elem) : Nat × Nat :=
  if x.special = 3 then (nanCode fmtF32, 0)
  else if x.special ≠ 0 then (withSign fmtF32 (x.special = 2) (infCode fmtF32), 0)
  else if x.sig = 0 then (0, if x.sticky then flOr flInexact flUnderflow else 0)
  else
    let k := e - accOffset narrow
    let r := roundFin fmtF32 (if x.sticky then .rna else .rn) false false (decide (x.sig < 0)) x.sig.natAbs k
    if x.sticky then
      let tiny := decide ((Nat.log2 x.sig.natAbs : Int) + k < -126) &&
        decide ((roundFin { fmtF32 with ebits := 16, bias := 32767 } .rna false false false x.sig.natAbs k).1 <
          (32767 - 126) * 2 ^ 23)
      (r.1, flOr r.2 (if tiny then flOr flInexact flUnderflow else flInexact))
    else r

/-- Normalising a segment in place (R98): the segment, and the flags raised. What E and each element's sticky and special hold beside an
FP32 result the spec does not say: E stays, they are cleared (DESIGN CHOICE, log entry 83). -/
def accNormalise (narrow : Bool) (g : Seg) : Seg × Nat :=
  if g.norm then (g, 0)
  else
    let rs := g.els.map (accNormElem narrow g.e)
    ({ norm := true, e := g.e, els := rs.map fun r => { sig := (r.1 : Int), sticky := false, special := 0 } },
      flAll (rs.map fun r => flElement r.2))

end Sys2Proof.Machine
end

