-- ==== Sys2Proof/Machine/MatrixOp.lean ====
section
/-! DEFINITION. Accumulator tiles, their holders, regions and the operands of the matrix unit (R137 to R149). -/

namespace Sys2Proof.Machine

/-! ### Tiles (R137, R138) -/

/-- A tile in its reset state. -/
def noTile : Tile := { ctl := 0, last := none, segs := [], releasing := false }

def tileAt (s : State) (c t : Nat) : Tile := smapGet noTile (coreAt s c).tiles t
def setTile (c t : Nat) (x : Tile) (s : State) : State :=
  let k := coreAt s c
  setCore c { k with tiles := smapSet noTile k.tiles t x } s

def tilePublished (x : Tile) : Bool := bitAt x.ctl.toNat 31
def tileMerged (x : Tile) : Bool := bitAt x.ctl.toNat 30
def tileNarrow (x : Tile) : Bool := bitAt x.ctl.toNat 29
def tileRegion (x : Tile) : Nat := bits x.ctl.toNat 28 24
def tileHolder (x : Tile) : Nat := bits x.ctl.toNat 21 16
def tileHeld (x : Tile) : Bool := bitAt x.ctl.toNat 0

/-- A control word from its fields (R137). -/
def tileCtl (published merged narrow : Bool) (region holder : Nat) (held : Bool) : Word :=
  BitVec.ofNat 32 ((if published then 2 ^ 31 else 0) + (if merged then 2 ^ 30 else 0) + (if narrow then 2 ^ 29 else 0) +
    region % 32 * 2 ^ 24 + holder % 64 * 2 ^ 16 + (if held then 1 else 0))

/-- Whether a flock holds a tile, and may go on using it. -/
def holds (x : Tile) (slot : Nat) : Bool := tileHeld x && tileHolder x == slot && !x.releasing

/-- Whether a tile can be claimed. -/
def claimable (x : Tile) : Bool := !tileHeld x && !tilePublished x && !x.releasing

/-- A claimed tile (R138): a new launch finds it reset. -/
def claimed (l : Launch) (slot : Nat) (x : Tile) : Tile :=
  if x.last = some l.num then { x with ctl := tileCtl false (tileMerged x) (isNarrow l) (tileRegion x) slot true }
  else { noTile with ctl := tileCtl false false (isNarrow l) 0 slot true, last := some l.num }

/-- Claims a tile for the issuing flock, or waits for it; then the body works on it. A held instruction claimed it at its issue, and its
flock may have asked for its release since (R138). An instruction that issues after that request waits until the release takes effect and
claims the tile anew (DESIGN CHOICE, log entry 96). -/
def withTile (t : Nat) (body : State → State) (s : State) : State :=
  let x := tileAt s s.core t
  if holds x s.slot || (s.performing && !claimable x) then body s
  else if claimable x then body (setTile s.core t (claimed (curLaunch s) s.slot x) s)
  else blockAt .tile s

/-! ### Regions (R147, R148) -/

/-- A region descriptor: whether N runs along y, and the cores along N and along K. -/
def regionFlip (d : Nat) : Bool := bitAt d 4
def regionN (d : Nat) : Nat := 2 ^ bits d 3 2
def regionK (d : Nat) : Nat := 2 ^ bits d 1 0

/-- A core's offset from its field's origin, along N and along K. -/
def regionOffset (l : Launch) (core d : Nat) : Nat × Nat :=
  let x := core % 24 - l.fx
  let y := core / 24 - l.fy
  if regionFlip d then (y, x) else (x, y)

/-- K-row of a core. -/
def kRow (l : Launch) (core d : Nat) : Nat := (regionOffset l core d).2 % regionK d

/-- Whether the rectangle of a descriptor lies inside the field. -/
def regionFits (l : Launch) (core d : Nat) : Bool :=
  let (n, k) := regionOffset l core d
  let (fn, fk) := if regionFlip d then (l.fh, l.fw) else (l.fw, l.fh)
  decide (n / regionN d * regionN d + regionN d ≤ fn) && decide (k / regionK d * regionK d + regionK d ≤ fk)

/-- Whether a core normalises its column. -/
def isNormaliser (l : Launch) (core d : Nat) : Bool := kRow l core d == regionK d - 1

/-- The core of another K-row of the same column. -/
def columnCore (l : Launch) (core d r : Nat) : Nat :=
  let k := kRow l core d
  if regionFlip d then core + r - k else core + 24 * r - 24 * k

/-- The lower K-rows' cores of a normaliser, ascending. -/
def partialCores (l : Launch) (core d : Nat) : List Nat := (List.range (regionK d - 1)).map (columnCore l core d)

/-- Whether a core's tile is a partial of this launch with this descriptor (R148). -/
def qualifies (s : State) (l : Launch) (d t c : Nat) : Bool :=
  let x := tileAt s c t
  tilePublished x && x.last == some l.num && tileRegion x == d

/-- A release takes effect (R138): the tile is published where its core is not its region's normaliser, and free otherwise. -/
def releaseTile (c t : Nat) (s : State) : State :=
  let x := tileAt s c t
  let l := launchOf s (x.last.getD 0)
  let pub := !isNormaliser l c (tileRegion x)
  setTile c t { x with releasing := false, ctl := tileCtl pub (tileMerged x) (tileNarrow x) (tileRegion x) 0 false } s

/-- acc.free of a tile that a flock holds (R138). -/
def freeTile (c slot t : Nat) (s : State) : State :=
  let x := tileAt s c t
  if holds x slot then due (.tileReleaseEffective c t) (setTile c t { x with releasing := true } s) else s

/-- acc.free of every tile of a core that a flock holds. -/
def freeTiles (c slot : Nat) (s : State) : State := (List.range 4).foldl (fun s t => freeTile c slot t s) s

def segOf (x : Tile) (key : Nat) : Seg := smapGet segZero x.segs key

/-- The segments of several tiles merged key by key, in order (R96, R148): the first tile's segment leads. -/
def mergeTiles (narrow : Bool) (ts : List Tile) : SMap Seg × Bool :=
  let keys := ts.foldl (fun a t => t.segs.foldl (fun a e => setInsert a e.1) a) []
  keys.foldl (fun a k =>
    match ts.map fun t => segOf t k with
    | [] => a
    | g :: gs =>
      let r := gs.foldl (fun (r : Seg × Bool) u => let m := accMerge narrow r.1 u; (m.1, r.2 || m.2)) (g, false)
      (smapSet segZero a.1 k r.1, a.2 || r.2)) ([], false)

/-- The merge at a normaliser (R148): the partials are consumed, the tile is marked merged. -/
def mergeRegion (t : Nat) (s : State) : State :=
  let x := tileAt s s.core t
  let l := curLaunch s
  let cs := partialCores l s.core (tileRegion x)
  let r := mergeTiles (tileNarrow x) (cs.map (fun c => tileAt s c t) ++ [x])
  let s := cs.foldl (fun s c => setTile c t { noTile with last := (tileAt s c t).last } s) s
  raise (if r.2 then flInvalid else 0)
    (setTile s.core t { x with segs := r.1, ctl := tileCtl false true (tileNarrow x) (tileRegion x) (tileHolder x) true } s)

/-! ### Operands (R140, R141) -/

/-- Bits of an element of a page format. -/
def fmtBits (fmt : Nat) : Nat := if fmt = 6 ∨ fmt = 7 then 16 else if fmt = 10 ∨ fmt = 13 then 4 else 8

/-- The page format that an A format code stands for, given B's recorded format (R140). -/
def aFormat (fm bfmt : Nat) : Nat :=
  match fm with
  | 0 => 6
  | 1 => 7
  | 2 => 8
  | 3 => 9
  | 4 => if bfmt = 9 ∨ bfmt = 12 then 9 else 8
  | 5 => if bfmt = 12 then 12 else 11
  | 6 => 10
  | _ => 13

/-- The dense depth of an A format code (R140). -/
def depthOf (fm : Nat) : Nat := if fm < 2 then 8 else if fm < 6 then 16 else 32

/-- The exact value of a code of a format (R88). -/
def codeValue (fmt code scale : Nat) (book : Nat → Nat) : FVal :=
  match fmt with
  | 6 => fdecode fmtBf16 code
  | 7 => fdecode fmtF16 code
  | _ => decodeElement fmt code 0 scale book

/-- Element k of row 4t+i of the A group, as its code. -/
def aCode (f : Flock) (a w t i k : Nat) : Nat :=
  (getV f t (a + 4 * i + k * w / 32)).toNat / 2 ^ (k * w % 32) % 2 ^ w

/-- What B is: the values by row and column, or what stops the instruction. -/
inductive BRead where
  | ok (fmt : Nat) (code : Nat → Nat → Nat) (scale : Nat → Nat → Nat) (slot : Nat)
  | trap (r : TrapRec)
  | waits

/-- Whether a format is MX: its operand in scratchpad carries 128 scale bytes (R141). -/
def scaledOperand (fmt : Nat) : Bool := decide (10 ≤ fmt) && decide (fmt ≤ 12)

/-- The code at (k, n) of an operand laid out row by row from its bytes. -/
def codeAt (byte : Nat → Nat) (w k n : Nat) : Nat :=
  let p := (k * 128 + n) * w
  if w = 16 then byte (p / 8) + 256 * byte (p / 8 + 1) else byte (p / 8) / 2 ^ (p % 8) % 2 ^ w

/-- The record of a handle's destination in which byte n stands, in copy order, and which byte of it that is: the named buffers of a
reduction across cores follow one another (R203). -/
def destRecord : BitVec 256 → List (BitVec 256) → Nat → Nat × Nat
  | r, [], n => (r.toNat, n)
  | r, q :: l, n =>
    let size := elemBytes (rcdSize r.toNat) (rcdInner r.toNat * rcdOuter r.toNat)
    if n < size then (r.toNat, n) else destRecord q l (n - size)

/-- Byte n of a handle's destination, in copy order: in the window of the workgroup that owns the handle, whichever it is (DEDUCED, log
entry 79). -/
def handleByte (s : State) (x : Handle) (n : Nat) : Nat :=
  let (r, n) := destRecord x.rcd x.more n
  let w := match x.owner with
    | some o => wgOf s o.1 o.2
    | none => noWg
  let byte (e : Nat) (b : Nat) : Nat := (smapGet 0 w.window (rcdBase r + ((placeOf r e).getD (0, 0)).1 + b)).toNat
  if rcdSize r = 4 then
    let nib (e : Nat) : Nat := byte e 0 / 16 ^ ((placeOf r e).getD (0, 0)).2 % 16
    nib (2 * n) + 16 * nib (2 * n + 1)
  else byte (n / sizeBytes (rcdSize r)) (n % sizeBytes (rcdSize r))

/-- Byte n of a scratchpad operand. -/
def recordByte (s : State) (r n : Nat) : Nat := (smapGet 0 (curWg s).window (rcdBase r + ((placeOf r n).getD (0, 0)).1)).toNat

/-- A handle that cannot serve as an operand of so many bytes (R141). -/
def handleUnfit (x : Handle) (need : Nat) : Bool := x.st != .full || x.fault || decide (x.bytes < need)

/-- The checks of a scratchpad operand of so many bytes, in the order of R155. -/
def operandTrap (s : State) (m : Mask) (reg need : Nat) : Option TrapRec :=
  let r := (getB (cur s) reg).toNat
  let win := (curWg s).wn
  let first (p : Nat → Bool) : Option Nat := (List.range need).find? p
  if rcdSize r ≠ 0 ∨ !baseAligned r then some (copyRec s 0x12 m reg 0 [])
  else if rcdInvalid r then some (copyRec s 0x10 m reg 0 [])
  else match first fun e => (placeOf r e).isNone with
    | some e => some (copyRec s 0x10 m reg e [])
    | none =>
      match if rcdScratch r then first (fun e => decide (win ≤ rcdBase r + ((placeOf r e).getD (0, 0)).1)) else none with
      | some e => some (copyRec s 0x11 m reg e [(12, 4, win)])
      | none => if !rcdScratch r || !rcdRead r then some (pageRec s .read m 0 0x14 0xFF 0 0) else none

/-- B for K rows, from a handle or from scratchpad (R141). In a handle of an MX format a zero that .clamp put in place of an element is 0,
and another element from a page without scales takes a free scale (DESIGN CHOICE, log entry 20). -/
def readB (s : State) (m : Mask) (fm src b rows : Nat) : BRead :=
  if src = 0 then
    let x := handleAt s s.core b
    if x.st = .filling then .waits
    else
      let raw := x.fmt == 0
      let fmt := if raw then aFormat fm 0 else x.fmt
      let w := fmtBits fmt
      let size := rows * 16 * w
      if x.st = .full ∧ 1 ≤ x.fmt ∧ x.fmt ≤ 5 then .trap (copyRec s 0x12 m b 0 [])
      else if x.st = .full ∧ !raw ∧ x.tails.any (fun t => decide (t < size)) then .trap (copyRec s 0x12 m b 0 [])
      else if handleUnfit x (size + if raw && scaledOperand fmt then 128 else 0) then .trap (copyFaultRec s m b)
      else
        let code := codeAt (handleByte s x) w
        let scale (k n : Nat) : Nat :=
          if raw then handleByte s x (size + n)
          else
            let p := (k * 128 + n) * w / 4
            match smapFind x.scales (if w = 4 then p else p / 2 * 2) with
              | some a => (smapGet 0 x.blocks a).toNat
              | none => if code k n = 0 then 0 else (Config.unscaled p).toNat
        .ok fmt code scale x.cb
  else
    let r := (getB (cur s) b).toNat
    let fmt := aFormat fm 0
    let w := fmtBits fmt
    let size := rows * 16 * w
    match operandTrap s m b (size + if scaledOperand fmt then 128 else 0) with
    | some t => .trap t
    | none => .ok fmt (codeAt (recordByte s r) w) (fun _ n => recordByte s r (size + n)) (rcdSlot r)

/-! ### Adding products (R95, R143) -/

/-- Adds one product to an element of a segment: an exact zero is added as nothing (R95), and a normalised segment does not re-enter for it
(DEDUCED, log entry 79). -/
def addProduct (narrow : Bool) (g : Seg × Bool) (j : Nat) (x y : FVal) : Seg × Bool :=
  let (p, bad) := fmulVal x y
  match p with
  | .fin _ 0 _ => g
  | p =>
    let r := accAdd narrow g.1 j p
    (r.1, g.2 || bad || r.2)

/-- A term of a row's sum: the value of A, and the row of B that it meets, by column; none where B has no entry there. -/
abbrev RowTerm := FVal × (Nat → Option FVal)

/-- Adds a row's terms to one segment: terms in order, and for each the columns in order. -/
def addTerms (narrow : Bool) (seg : Nat) (ts : List RowTerm) (g : Seg) : Seg × Bool :=
  ts.foldl (fun g t => (List.range 16).foldl (fun g j =>
    match t.2 (16 * seg + j) with
    | some y => addProduct narrow g j t.1 y
    | none => g) g) (g, false)

/-- Adds the terms of every row of the active threads to a tile; the rows' terms are given. -/
def addRows (t : Nat) (m : Mask) (terms : Nat → Nat → List RowTerm) (s : State) : State :=
  let x := tileAt s s.core t
  let narrow := tileNarrow x
  let keys := (threadsOf m).flatMap fun th => (List.range 4).flatMap fun i => (List.range 8).map fun g => (th, i, g)
  let r := keys.foldl (fun (a : SMap Seg × Bool) k =>
    let key := 8 * (4 * k.1 + k.2.1) + k.2.2
    let g := addTerms narrow k.2.2 (terms k.1 k.2.1) (smapGet segZero a.1 key)
    (smapSet segZero a.1 key g.1, a.2 || g.2)) (x.segs, false)
  raise (if r.2 then flInvalid else 0) (setTile s.core t { x with segs := r.1 } s)

/-- The bytes of an operand: its elements, and its scales where they stand behind them (R141). -/
def operandSize (s : State) (fm src b rows : Nat) : Nat :=
  let x := handleAt s s.core b
  let raw := src != 0 || x.fmt == 0
  let fmt := if raw then aFormat fm 0 else x.fmt
  rows * 16 * fmtBits fmt + if raw && scaledOperand fmt then 128 else 0

/-- Window offsets as runs: first offset and number. -/
def runsOf (l : List Nat) : List (Nat × Nat) :=
  l.foldr (fun o r => match r with
    | [] => [(o, 1)]
    | x :: r => if o + 1 = x.1 then (o, x.2 + 1) :: r else (o, 1) :: x :: r) []

/-- Where byte n of a record's elements, in order, stands in the window. -/
def spotOf (r n : Nat) : Option Nat :=
  if rcdSize r = 4 then (placeOf r ((2 * n : Nat) : Int)).map fun p => rcdBase r + p.1
  else (placeOf r ((n / sizeBytes (rcdSize r) : Nat) : Int)).map fun p => rcdBase r + p.1 + n % sizeBytes (rcdSize r)

/-- The bytes of the flock's window that an operand of n bytes is read from: none in a window of another workgroup, whose handle B names. -/
def operandRuns (s : State) (src b n : Nat) : List (Nat × Nat) :=
  let x := handleAt s s.core b
  if src = 0 ∧ x.owner ≠ some ((cur s).launch, (cur s).wg) then []
  else runsOf ((List.range n).filterMap fun k =>
    let p := if src = 0 then destRecord x.rcd x.more k else ((getB (cur s) b).toNat, k)
    spotOf p.1 p.2)

/-- Waits at issue until what an operation of the issuing flock keeps before it is performed. -/
def waitInFlock (l : OpenOp) (body : State → State) (s : State) : State :=
  if waits (openOps s s.core s.slot) l then waitFor .issue s else body s

/-- Work on a tile that accesses no memory, as an operation of its flock. -/
def tileAct : Op := { act := .tile, acq := false, rel := false, scratch := true }
def tileUse (s : State) (m : Mask) (t : Nat) : OpenOp := { flockOp s tileAct m with tile := some t }

/-- The read of B, and the work on a tile, of a matrix instruction as an operation of its flock (R141, R143, R216). -/
def matrixUse (s : State) (m : Mask) (t fm src b rows : Nat) : OpenOp :=
  { flockOp s mmaAct m with tile := some t, places := (operandRuns s src b (operandSize s fm src b rows)).map fun x => (0, x.1, x.2) }

/-- The reuse latch after a matrix instruction: the A group, and the registers of C, numbered as latchAfter numbers them (R41, R145). -/
def setLatch (ru a : Nat) (c : List Nat) (s : State) : State := setCur { cur s with latch := if ru = 1 then some (a, c) else none } s

/-- A matrix instruction in the order of its flock: where earlier accesses keep it waiting it issues, with its latch, and is held (R141,
R187). -/
def matrixOrder (i : Instr) (f ru a : Nat) (c : List Nat) (l : OpenOp) (body : State → State) (s : State) : State :=
  if s.performing || !keptBehind s l then body s else setLatch ru a c (holdBack i f l s)

end Sys2Proof.Machine
end

