-- ==== Sys2Proof/Machine/Matrix.lean ====
section
/-! DEFINITION. Matrix instructions: tiles, mma and its sparse forms, compress and term decomposition (R137 to R156). -/

namespace Sys2Proof.Machine

/-! ### Tiles -/

/-- An instruction that the flock executes once on a tile it claims first (R138, R139). -/
def tileOp (i : Instr) (m : Mask) (t : Nat) (body : State → State) (s : State) : Out :=
  checked i m (legalForm i) [] (fun s => if m = 0 then advance (wordsOf i) s else withTile t body s) s

/-- ACC_TAKE (R138, R139). -/
def execAccTake (g t : Nat) (s : State) : Out := tileOp (.accTake g t) (active s g) t (advance (wordsOf (.accTake g t))) s

/-- ACC_FREE (R138, R139): a tile the flock does not hold is left alone. -/
def execAccFree (g t : Nat) (s : State) : Out :=
  let i := Instr.accFree g t
  let m := active s g
  checked i m (legalForm i) [] (fun s => advance (wordsOf i) (if m = 0 then s else freeTile s.core s.slot t s)) s

/-- ACC_ZERO (R139): every segment to its reset state, merged cleared, the region kept. It is not long-latency, so it waits at issue for the
held instructions of the flock on the tile (R49, R143). -/
def execAccZero (g t : Nat) (s : State) : Out :=
  let i := Instr.accZero g t
  let m := active s g
  tileOp i m t (fun s => waitInOrder (tileUse s m t) (fun s =>
    let x := tileAt s s.core t
    advance (wordsOf i) (setTile s.core t
      { x with segs := [], ctl := tileCtl false false (tileNarrow x) (tileRegion x) (tileHolder x) true } s)) s) s

/-- TILE_RELEASE_EFFECTIVE (R138): once the matrix instructions issued on the tile have completed. -/
def execTileReleaseEffective (core tile : Nat) (s : State) : Out :=
  let x := tileAt s core tile
  let f := flockAt s core (tileHolder x)
  .next (if x.releasing && !f.pending.any (fun p => p.tile == some tile) then releaseTile core tile s else s)

/-- REGION (R147): a descriptor that names no region raises illegal-opcode. It waits at issue as acc.zero does. -/
def execRegion (g t sx : Nat) (s : State) : Out :=
  let i := Instr.region g t sx
  let m := active s g
  checked i m (legalForm i) [] (fun s =>
    let d := (getS (cur s) sx).toNat
    if m = 0 then advance (wordsOf i) s
    else if 32 ≤ d ∨ bits d 1 0 = 3 ∨ !regionFits (curLaunch s) s.core d then takeTrap (illegalRec (encode i) m s) s
    else withTile t (fun s => waitInOrder (tileUse s m t) (fun s =>
      let x := tileAt s s.core t
      advance (wordsOf i) (setTile s.core t { x with ctl := tileCtl false false (tileNarrow x) d (tileHolder x) true } s)) s) s) s

/-- Normalises one segment of a tile in place: its flags come with the tile (R98). -/
def normaliseSeg (key : Nat) (x : Tile) : Tile × Nat :=
  let r := accNormalise (tileNarrow x) (segOf x key)
  ({ x with segs := smapSet segZero x.segs key r.1 }, r.2)

/-- Normalises the segments of the rows of active threads (R146). -/
def normaliseRows (m : Mask) (seg : Nat) (x : Tile) : Tile × Nat :=
  (threadsOf m).foldl (fun a t => (List.range 4).foldl (fun a i =>
    let r := normaliseSeg (8 * (4 * t + i) + seg) a.1
    (r.1, flOr a.2 r.2)) a) (x, 0)

/-- ACC_RD (R146): waits for the region's partials, merges them once, then normalises and reads a 4-column group; it is held behind the held
matrix instructions of its flock on the tile (R143). A tile whose descriptor is not its reset value is a region tile (DEDUCED, log entry
79). -/
def execAccRd (g d t f c : Nat) (s : State) : Out :=
  let i := Instr.accRd g d t f c
  let m := active s g
  longOp i m f ((List.range 16).map (d + ·)) (withTile t (fun s =>
    let x := tileAt s s.core t
    let l := curLaunch s
    let r := tileRegion x
    let due_ := r != 0 && isNormaliser l s.core r && !tileMerged x
    if due_ && !(partialCores l s.core r).all (qualifies s l r t) then blockAt .tile s
    else inOrder i f (tileUse s m t) (fun s =>
      let s := if due_ then mergeRegion t s else s
      let (x, fl) := normaliseRows m (c / 4) (tileAt s s.core t)
      let vw := (threadsOf m).flatMap fun th => (List.range 4).flatMap fun i => (List.range 4).map fun j =>
        (vKey (d + 4 * i + j) th, BitVec.ofNat 32 (heldF32 ((segOf x (8 * (4 * th + i) + c / 4)).els.getD ((4 * c + j) % 16) elemZero)))
      finishLong i f { noPending with vw := vw, tile := some t } (raise fl (setTile s.core t x s))) s)) s

/-! ### mma -/

/-- A product instruction on a tile: what B is checked for comes before anything changes (R155); the tile is claimed, then a filling handle
is waited for at issue, with the tile held (R141, R143). -/
def withB (m : Mask) (t fm src b rows : Nat) (body : Nat → (Nat → Nat → Nat) → (Nat → Nat → Nat) → Nat → State → State)
    (s : State) : State :=
  match readB s m fm src b rows with
  | .trap r => takeTrap r s
  | .waits => withTile t (waitFor .issue) s
  | .ok fmt code scale slot => withTile t (body fmt code scale slot) s

/-- A's value at element k of row 4t+i (R140): its scale is byte i of the C register, its codebook the slot that C names. -/
def aValue (s : State) (fmt fm a cc t i k : Nat) : FVal :=
  let f := cur s
  let w := fmtBits fmt
  codeValue fmt (aCode f a w t i k) ((getV f t cc).toNat / 256 ^ i % 256) (bookOf (curWg s) (if fm = 7 then cc % 8 else 0))

/-- The v registers that an A operand and its scales name (R62, R140). -/
def aRegs (fm a cc : Nat) : List Nat := (List.range 16).map (a + ·) ++ if fm = 5 ∨ fm = 6 then [cc] else []

/-- The C register of mma where C is a register (R143, R145). -/
def scaleReg (fm cc : Nat) : List Nat := if fm = 5 ∨ fm = 6 then [cc] else []

/-- MMA (R143). -/
def execMma (g ti a b ru src cc fm f : Nat) (s : State) : Out :=
  let i := Instr.mma g ti a b ru src cc fm f
  let m := active s g
  longOp i m f (aRegs fm a cc) (withB m ti fm src b (depthOf fm) (fun bfmt code scale slot s =>
    matrixOrder i f ru a (scaleReg fm cc) (matrixUse s m ti fm src b (depthOf fm)) (fun s =>
      let afmt := aFormat fm bfmt
      let book := bookOf (curWg s) slot
      let bval (k n : Nat) : FVal := codeValue bfmt (code k n) (scale k n) book
      let terms (t r : Nat) : List RowTerm :=
        (List.range (depthOf fm)).map fun k => (aValue s afmt fm a cc t r k, fun n => some (bval k n))
      finishLong i f { noPending with tile := some ti, product := true } (setLatch ru a (scaleReg fm cc) (addRows ti m terms s))) s)) s

/-- The N and M of a pattern code (R150). -/
def patternN (p : Nat) : Nat := if p = 1 then 4 else 2
def patternM (p : Nat) : Nat := if p = 0 then 4 else 8

/-- MMA_SP (R151): kept value j of a row meets row (j div N)·M + (ν mod M) of B. -/
def execMmaSp (g ti a b ru pat src cc fm f : Nat) (s : State) : Out :=
  let i := Instr.mmaSp g ti a b ru pat src cc fm f
  let m := active s g
  let kept := depthOf fm
  let rows := kept * patternM pat / patternN pat
  let nus := (List.range 8).map (cc + ·)
  longOp i m f (aRegs fm a cc ++ nus) (withB m ti fm src b rows (fun bfmt code scale slot s =>
    matrixOrder i f ru a nus (matrixUse s m ti fm src b rows) (fun s =>
      let afmt := aFormat fm bfmt
      let book := bookOf (curWg s) slot
      let bval (k n : Nat) : FVal := codeValue bfmt (code k n) (scale k n) book
      let nu (t r j : Nat) : Nat := (getV (cur s) t (cc + 2 * r + j / 8)).toNat / 16 ^ (j % 8) % 16
      let terms (t r : Nat) : List RowTerm := (List.range kept).map fun j =>
        let k := j / patternN pat * patternM pat + nu t r j % patternM pat
        (aValue s afmt fm a cc t r j, fun n => some (bval k n))
      finishLong i f { noPending with tile := some ti, product := true } (setLatch ru a nus (addRows ti m terms s))) s)) s

/-! ### Structured sparsity: compress (R150) -/

/-- The format of a code of R150. -/
def compressFmt (x : Nat) : Fmt := if x = 0 then fmtBf16 else if x = 1 then fmtF16 else if x = 2 then fmtE4m3 else fmtE5m2

/-- Mag of R150: a number that orders magnitudes, NaN above infinity. -/
def magOf (f : Fmt) (code : Nat) : Nat := if fdecode f code = .nan then signWeight f else code % signWeight f

/-- The index of the largest magnitude of a list, the first among equals. -/
def largestAt (mag : Nat → Nat) : List Nat → Option Nat
  | [] => none
  | x :: r =>
    match largestAt mag r with
    | some y => if mag x < mag y then some y else some x
    | none => some x

/-- The n largest of a list of indices, lower places first among equals. -/
def largestN (mag : Nat → Nat) : Nat → List Nat → List Nat
  | 0, _ => []
  | n + 1, l =>
    match largestAt mag l with
    | some x => x :: largestN mag n (l.erase x)
    | none => []

/-- What COMPRESS keeps of a thread's run: for each kept element its index in the run, group by group. -/
def keptOf (mag : Nat → Nat) (n m groups : Nat) : List Nat :=
  (List.range groups).flatMap fun g =>
    let idx := upFrom (g * m) m
    let best := largestN mag n idx
    idx.filter best.contains

/-- COMPRESS (R150): the kept elements into D, their positions into nibbles of the metadata registers. Where several registers lie beyond
the allocation, the record names the first in the order of the operands, D, A, metadata, which R62 leaves open (log entry 79). -/
def execCompress (g d a m k mlo p x : Nat) (s : State) : Out :=
  let i := Instr.compress g d a m k mlo p x
  let act := active s g
  let f := compressFmt x
  let w := f.ebits + f.mbits + 1
  let e := 32 / w
  let meta_ := 2 * (2 * m + mlo)
  let count := 8 * e * patternN p / patternM p
  let o := d % 4 * e
  let dregs := (List.range (count / e)).map (d + ·)
  let mregs := (List.range ((o + count - 1) / 8 + 1 - o / 8)).map (meta_ + o / 8 + ·)
  longOp i act k (dregs ++ (List.range 8).map (a + ·) ++ mregs) (fun s =>
    let code (t j : Nat) : Nat := (getV (cur s) t (a + j / e)).toNat / 2 ^ (w * (j % e)) % 2 ^ w
    let one (t : Nat) : List (Nat × Word × Word) :=
      let kept := keptOf (fun j => magOf f (code t j)) (patternN p) (patternM p) (8 * e / patternM p)
      kept.zipIdx.flatMap fun j =>
        [(vKey (d + j.2 / e) t, BitVec.ofNat 32 ((2 ^ w - 1) * 2 ^ (w * (j.2 % e))), BitVec.ofNat 32 (code t j.1 * 2 ^ (w * (j.2 % e)))),
         (vKey (meta_ + (o + j.2) / 8) t, BitVec.ofNat 32 (15 * 16 ^ ((o + j.2) % 8)),
           BitVec.ofNat 32 (j.1 % patternM p * 16 ^ ((o + j.2) % 8)))]
    finishLong i k { noPending with vm := (threadsOf act).flatMap one } s) s

/-! ### Term decomposition (R152 to R154) -/

/-- A stored entry of B: row, column and code. -/
structure DecEntry where
  k : Nat
  n : Nat
  code : Nat
  deriving DecidableEq, Repr

/-- The stored entries in scan order, from the positions whose bitmap bit is set: entry q is the q-th value (R152). -/
def storedEntries (value : Nat → Nat) (marked : List (Nat × Nat)) : List DecEntry :=
  marked.zipIdx.map fun x => { k := x.1.1, n := x.1.2, code := value x.2 }

/-- One term (R153): in every column and group of M rows, the up to N largest entries, lower k first among equals. -/
def termOf (f : Fmt) (n m rows : Nat) (rem : List DecEntry) : List DecEntry :=
  let pick (c g : Nat) : List DecEntry :=
    let es := rem.filter fun e => e.n == c && e.k / m == g
    (largestN (fun q => ((es[q]?).map fun e => magOf f e.code).getD 0) n (List.range es.length)).filterMap fun q => es[q]?
  let best := (List.range 128).flatMap fun c => (List.range (rows / m)).flatMap fun g => pick c g
  rem.filter best.contains

/-- Terms until none is left to form or the limit is reached: the terms and what remains. -/
def termsOf (f : Fmt) (n m rows : Nat) : Nat → List DecEntry → List (List DecEntry) × List DecEntry
  | 0, rem => ([], rem)
  | t + 1, rem =>
    let x := termOf f n m rows rem
    if x = [] then ([], rem)
    else
      let r := termsOf f n m rows t (rem.filter fun e => !x.contains e)
      (x :: r.1, r.2)

/-- The exact sum of the magnitudes of entries; none where one is NaN or infinite. -/
def sumMag (f : Fmt) (es : List DecEntry) : Option FVal :=
  es.foldl (fun a e =>
    match a, fdecode f e.code with
    | some v, .fin _ m x => some (faddVal .rn v (.fin false m x)).1
    | _, _ => none) (some (.fin false 0 0))

/-- BoundHolds of R153: all is what B held before the terms. -/
def boundHolds (f : Fmt) (bound : Nat) (all drop : List DecEntry) : Bool :=
  match sumMag f drop with
  | none => false
  | some d =>
    match fdecode fmtF32 bound with
    | .nan => false
    | .inf neg => !neg
    | .fin neg m e =>
      match sumMag f all with
      | none => !neg && decide (0 < m)
      | some t => !fltVal (fmulVal (.fin neg m e) t).1 d

/-- What the operand loader makes of B: terms, residual and dropped entries (R153). -/
def decompose (f : Fmt) (n m rows limit : Nat) (lossy : Bool) (rem : List DecEntry) :
    List (List DecEntry) × List DecEntry × List DecEntry :=
  let r := termsOf f n m rows limit rem
  if lossy then (r.1, [], r.2)
  else if r.2.length ≤ 64 then (r.1, r.2, [])
  else
    let best := largestN (fun q => ((r.2[q]?).map fun e => magOf f e.code).getD 0) 64 (List.range r.2.length)
    let res := (r.2.zipIdx.filter fun e => best.contains e.2).map (·.1)
    (r.1, res, r.2.filter fun e => !res.contains e)

/-- The bytes of a raw operand, or what stops the instruction: first the bitmap, then as many values as it marks (R141, R152). Only a bitmap
that may be read says how many values there are, so its own causes come first (DEDUCED, log entry 79). -/
def readRaw (s : State) (m : Mask) (src b rows w : Nat) : Except (Option TrapRec) ((Nat → Nat) × List (Nat × Nat)) :=
  let cells : List (Nat × Nat) := (List.range rows).flatMap fun k => (List.range 128).map fun n => (k, n)
  let marked (byte : Nat → Nat) : List (Nat × Nat) :=
    cells.filter fun c => bitAt (byte ((c.1 * 128 + c.2) / 8)) ((c.1 * 128 + c.2) % 8)
  let need (l : List (Nat × Nat)) : Nat := rows * 16 + l.length * (w / 8)
  if src = 0 then
    let x := handleAt s s.core b
    let byte := handleByte s x
    if x.st = .filling then .error none
    else if handleUnfit x (rows * 16) || handleUnfit x (need (marked byte)) then .error (some (copyFaultRec s m b))
    else .ok (byte, marked byte)
  else
    let byte := recordByte s (getB (cur s) b).toNat
    match operandTrap s m b (rows * 16) with
    | some t => .error (some t)
    | none =>
      match operandTrap s m b (need (marked byte)) with
      | some t => .error (some t)
      | none => .ok (byte, marked byte)

/-- decomposition (R153, R357). -/
def decompositionRec (s : State) (m : Mask) (terms drop bound : Nat) (sum : Nat) : TrapRec :=
  trapRec s 0x1D m [(0, 1, terms), (2, 2, drop), (4, 4, sum), (8, 4, bound)]

/-- Σ|dropped| as FP32 rounded toward plus infinity (R357); a sum with a NaN or an infinity is plus infinity. -/
def droppedSum (f : Fmt) (drop : List DecEntry) : Nat :=
  match sumMag f drop with
  | some v => (fround79 fmtF32 .rp false false v).1
  | none => infCode fmtF32

/-- MMA_DEC (R152 to R154). Its bound test is decided on B before the flock's next instruction issues (R155), so it waits at issue for what
in its flock the read of B comes after. It completes after the earlier products of other flocks (R142). -/
def execMmaDec (g ti a b ru pat src cc lossy fm f : Nat) (s : State) : Out :=
  let i := Instr.mmaDec g ti a b ru pat src cc lossy fm f
  let m := active s g
  let rows := depthOf fm
  let fmt := compressFmt fm
  let w := fmt.ebits + fmt.mbits + 1
  longOp i m f (aRegs fm a 0) (waitInFlock { flockOp s mmaAct m with tile := some ti } fun s =>
    match readRaw s m src b rows w with
    | .error none => withTile ti (waitFor .issue) s
    | .error (some r) => takeTrap r s
    | .ok (byte, marked) =>
      let value (q : Nat) : Nat :=
        let p := rows * 16 + q * (w / 8)
        if w = 16 then byte p + 256 * byte (p + 1) else byte p
      let rem := (storedEntries value marked).filter fun e => e.code % signWeight fmt != 0
      let limit := min ((getS (cur s) (cc + 1)).toNat % 8) 4
      let bound := (getS (cur s) cc).toNat
      let (terms, res, drop) := decompose fmt (patternN pat) (patternM pat) rows limit (lossy == 1) rem
      if drop ≠ [] ∧ !boundHolds fmt bound rem drop then
        takeTrap (decompositionRec s m terms.length drop.length bound (droppedSum fmt drop)) s
      else
        withTile ti (fun s =>
          let afmt := aFormat fm 0
          let cell (es : List DecEntry) (k n : Nat) : Option FVal :=
            (es.find? fun e => e.k == k && e.n == n).map fun e => fdecode fmt e.code
          let rowTerms (t r : Nat) : List RowTerm :=
            (terms.flatMap fun es => (List.range rows).map fun k => (aValue s afmt fm a 0 t r k, fun n => cell es k n)) ++
            res.map fun e => (aValue s afmt fm a 0 t r e.k, fun n => if n = e.n then some (fdecode fmt e.code) else none)
          finishLong i f { noPending with
              tile := some ti, product := true
              sw := [(cc + 2, BitVec.ofNat 32 terms.length), (cc + 3, BitVec.ofNat 32 (drop.length * 65536 + res.length))] }
            (setLatch ru a [64 + cc, 64 + cc + 1] (addRows ti m rowTerms s))) s) s

end Sys2Proof.Machine
end

