-- ==== Sys2Proof/Machine/MemInstr.lean ====
section
/-! DEFINITION. The memory instructions (R126, R178 to R193). -/

namespace Sys2Proof.Machine

/-! ### Loads and stores -/

/-- The displacement of the stride bit (R57). -/
def strideOf (sx : Nat) : Int := if sx = 1 then 32 else 0

/-- LD (R181). -/
def execLd (g d a r f sx z c : Nat) (s : State) : Out :=
  let m := active s g
  loadOp (askLanes (.ld g d a r f sx z c) m r (indexOf s false a (strideOf sx)) (dataBytes z) (c == 1) true false .read rcdRead
    (!dataSigned z)) z d f 0 (dataRegs z d ++ [a]) s

/-- LDSP (R181). -/
def execLdsp (g d a r f sx z c : Nat) (s : State) : Out :=
  let m := active s g
  loadOp (askLanes (.ldsp g d a r f sx z c) m r (indexOf s false a (strideOf sx)) (dataBytes z) (c == 1) false true .read rcdRead
    false) z d f 0 (dataRegs z d ++ [a]) s

/-- LDO (R180, R181): either space, with a uniform index, a displacement and an acquire. -/
def execLdo (g d a r ord sc z f u cl disp : Nat) (s : State) : Out :=
  let m := active s g
  loadOp (askLanes (.ldo g d a r ord sc z f u cl disp) m r (indexOf s (u == 1) a (dispOf disp)) (dataBytes z) (cl == 1) true true .read
    (fun k => rcdRead k && scopeFits sc k) (!dataSigned z)) z d f sc (dataRegs z d ++ if u = 1 then [] else [a]) s

/-- ST (R182). -/
def execSt (g d a r f sx z c : Nat) (s : State) : Out :=
  let m := active s g
  storeOp (askLanes (.st g d a r f sx z c) m r (indexOf s false a (strideOf sx)) (dataBytes z) (c == 1) true false .write rcdWrite
    false) z d f 0 (dataRegs z d ++ [a]) s

/-- STSP (R182). -/
def execStsp (g d a r f sx z c : Nat) (s : State) : Out :=
  let m := active s g
  storeOp (askLanes (.stsp g d a r f sx z c) m r (indexOf s false a (strideOf sx)) (dataBytes z) (c == 1) false true .write rcdWrite
    false) z d f 0 (dataRegs z d ++ [a]) s

/-- STO (R180, R182). -/
def execSto (g d a r ord sc z f u cl disp : Nat) (s : State) : Out :=
  let m := active s g
  storeOp (askLanes (.sto g d a r ord sc z f u cl disp) m r (indexOf s (u == 1) a (dispOf disp)) (dataBytes z) (cl == 1) true true .write
    (fun k => rcdWrite k && scopeFits sc k) false) z d f sc (dataRegs z d ++ if u = 1 then [] else [a]) s

/-! ### Atomics and reductions -/

/-- What an atomic needs of its record (R157). -/
def grantsAtomic (r : Nat) : Bool := rcdRead r && rcdWrite r && rcdAtomic r

/-- The datum of an atomic in a register, or in a pair. -/
def datumOf (z d : Nat) (s : State) (t : Nat) : Datum := { b := storeData s z d t, c := 0, d := 0 }

/-- The compare and new values of .cas (R178): the register after the compare value, or the pair after it. -/
def casOf (z cc : Nat) (s : State) (t : Nat) : Datum :=
  { b := 0, c := storeData s z cc t, d := storeData s z (cc + if z = 5 then 2 else 1) t }

/-- ATOM (R185): relaxed at .dv. -/
def execAtom (g d a r f n o : Nat) (s : State) : Out :=
  let m := active s g
  atomicOp (askLanes (.atom g d a r f n o) m r (indexOf s false a 0) 4 false true false .atomic grantsAtomic false) o 4 f 4 false false
    (datumOf 4 d) (if n = 1 then some d else none) [d, a] s

/-- ATOMSP (R185): relaxed at .wg, in the window. -/
def execAtomsp (g d a r f n o : Nat) (s : State) : Out :=
  let m := active s g
  atomicOp (askLanes (.atomsp g d a r f n o) m r (indexOf s false a 0) 4 false false true .atomic grantsAtomic false) o 4 f 2 false false
    (datumOf 4 d) (if n = 1 then some d else none) [d, a] s

/-- The data registers of an atomic of the long form: .cas takes the compare value and the new one. -/
def atomoRegs (z o cc : Nat) : List Nat := dataRegs z cc ++ if o = 7 then dataRegs z (cc + if z = 5 then 2 else 1) else []

/-- ATOMO (R180, R185). -/
def execAtomo (g d a r n o cc ord sc z f u cl disp : Nat) (s : State) : Out :=
  let m := active s g
  atomicOp (askLanes (.atomo g d a r n o cc ord sc z f u cl disp) m r (indexOf s (u == 1) a (dispOf disp)) (dataBytes z) (cl == 1) true
      true .atomic (fun k => grantsAtomic k && scopeFits sc k) false)
    o z f sc (ord % 2 == 1) (decide (2 ≤ ord)) (if o = 7 then casOf z cc else datumOf z cc) (if n = 1 then some d else none)
    ((if n = 1 then dataRegs z d else []) ++ (if u = 1 then [] else [a]) ++ atomoRegs z o cc) s

/-- What a reduction needs of its record (R157). -/
def grantsReduction (r : Nat) : Bool := rcdWrite r && rcdAtomic r

/-- RED (R186): relaxed at .dv. -/
def execRed (g d a r f o : Nat) (s : State) : Out :=
  let m := active s g
  reduceOp (askLanes (.red g d a r f o) m r (indexOf s false a 0) 4 false true false .atomic grantsReduction false) o f 4 false
    (fun s t => storeData s 4 d t) [d, a] s

/-- REDO (R186). -/
def execRedo (g a r o cc ord sc z f u cl disp : Nat) (s : State) : Out :=
  let m := active s g
  reduceOp (askLanes (.redo g a r o cc ord sc z f u cl disp) m r (indexOf s (u == 1) a (dispOf disp)) (dataBytes z) (cl == 1) true false
      .atomic grantsReduction false) o f sc (ord == 2) (fun s t => storeData s z cc t)
    ((if u = 1 then [] else [a]) ++ dataRegs z cc) s

/-! ### Full-empty loads and stores -/

/-- LDFE (R187). -/
def execLdfe (g d a r f t c : Nat) (s : State) : Out :=
  let m := active s g
  let q := askLanes (.ldfe g d a r f t c) m r (indexOf s false a 0) 4 (c == 1) true false (if t = 1 then .atomic else .read)
    (if t = 1 then fun k => rcdRead k && rcdAtomic k else rcdRead) false
  feOp { q with fullEmpty := true } t d f [d, a] s

/-- STFE (R187, R188). -/
def execStfe (g d a r f t c : Nat) (s : State) : Out :=
  let m := active s g
  let q := askLanes (.stfe g d a r f t c) m r (indexOf s false a 0) 4 (c == 1) true false .write rcdWrite false
  let q := { q with fullEmpty := true }
  if t = 1 then feStrictOp q d f [d, a] s else feOp q 2 d f [d, a] s

/-! ### Order -/

/-- A fence as an operation of its path, for all its threads (R189, R216 note 2). -/
def fenceOp (s : State) (o : Nat) (m : Mask) : OpenOp :=
  flockOp s { act := .fence, acq := o % 2 == 1, rel := decide (2 ≤ o), scratch := false } m

/-- FENCE (R189): the path goes on; where earlier accesses of the path that it keeps are not performed, it stands between them and every
later access of the path. -/
def execFence (sx o : Nat) (s : State) : Out :=
  let i := Instr.fence sx o
  let m := liveMask (cur s) (curPath s)
  checked i m (legalForm i) [] (fun s =>
    let l := fenceOp s o m
    let h : Held := { what := l, core := s.core, slot := s.slot, second := s.second, flag := none, ins := i, flock := snapshot (cur s) s.second
                      book := [] }
    advance (wordsOf i) (if keptBehind s l then takeFree { s with held := s.held ++ [h] } else s)) s

/-! ### Records, codebooks and ranges -/

/-- LDB (R190): four 8-byte elements become a buffer record. -/
def execLdb (g d sx r f : Nat) (s : State) : Out :=
  let i := Instr.ldb g d sx r f
  let m := active s g
  longOp i m f [] (fun s =>
    let q := askRange i m r 4 (getS (cur s) sx).toNat 8 .read rcdRead
    withRange { q with formats := some [0, 4], align := 32 } f (fun u b s =>
      finishLong i f { noPending with bw := some (d, BitVec.ofNat 256 (leNat b)), units := u } s) s) s

/-- The entries of a codebook slot after a load (R126). -/
def fillSlot (slot : Nat) (b : List Byte) (w : Wg) : Wg :=
  { w with cb := (List.range 16).foldl (fun m k =>
      smapSet 0 m (16 * slot + k) (BitVec.ofNat 16 (leNat ((b.drop (2 * k)).take 2)))) w.cb }

/-- CBLOAD (R126): the slot changes whole, before the flock's next instruction. Its elements are 16 successive ones of the record's inner
dimension. -/
def execCbload (g sx r b : Nat) (s : State) : Out :=
  let i := Instr.cbload g sx r b
  let m := active s g
  checked i m (legalForm i) [] (fun s =>
    if m = 0 then advance (wordsOf i) s
    else
      let q := askRange i m b 16 (getS (cur s) r).toNat 2 .read rcdRead
      withRangeNow { q with formats := some [0, 6], late := true } (fun d s =>
        advance (wordsOf i) (updWg (cur s).launch (cur s).wg (fillSlot sx d) s)) s) s

/-- A range of maintenance (R191, R280, R282): a count register, an index register and a record. -/
def askMaintain (i : Instr) (m : Mask) (s : State) (n sx r : Nat) : Ask :=
  { askRange i m r (getS (cur s) n).toNat (getS (cur s) sx).toNat 1 .read (fun k => rcdRead k || rcdWrite k) with
    anySize := true, skipAbsent := true }

/-- Writes a line back and drops the issuing core's copies of it (R191). -/
def maintainLine (o : Nat) (s : State) (k : Nat × Nat) : State :=
  let s := if o % 2 = 1 then lineClean k.1 k.2 (if padMode s k.1 = 2 then foldLine k.1 k.2 s else s) else s
  if 2 ≤ o then
    let c := coreAt s s.core
    updLine k.1 k.2 (fun l => { l with copies := setErase l.copies s.core })
      (setCore s.core { c with leases := c.leases.filter fun l => !(l.pad == k.1 && l.base == k.2) } s)
  else s

/-- CACHE (R191): after the flock's earlier stores, which its write-back takes along (R216 note 6). -/
def execCache (g n sx r f o : Nat) (s : State) : Out :=
  let i := Instr.cache g n sx r f o
  let m := active s g
  longOp i m f [] (fun s =>
    withLanes (askMaintain i m s n sx r) (fun ls s =>
      inOrder i f (flockOp s maintainAct m) (fun s =>
        finishLong i f { noPending with units := laneUnits ls } ((lanePads s ls).foldl (maintainLine o) s)) s) s) s

/-- Prefetches one element's line (R192): into its paddock, and for an update-mode line into the core's L1 path. -/
def prefetchOne (o : Nat) (ag : Agent) (s : State) (va : Nat) : State :=
  match pageFor ag .read va s with
  | (s, .ok x) =>
    if leafHome x = 2 then
      let pad := leafPad x
      let base := lineBase s pad (leafLoc x va)
      let s := fillLine pad base (leafMaterial s x) s
      if o = 0 ∧ padMode s pad = 0 then shareLine s.core pad base s else s
    else s
  | (s, _) => s

/-- PREFETCH (R192): elements that cannot be reached are skipped. -/
def execPrefetch (g n sx r f o : Nat) (s : State) : Out :=
  let i := Instr.prefetch g n sx r f o
  let m := active s g
  longOp i m f [] (fun s =>
    let k := (getB (cur s) r).toNat
    let first := (getS (cur s) sx).toNat
    let vas := if rcdInvalid k || rcdScratch k || !rcdRead k then []
      else (List.range (getS (cur s) n).toNat).filterMap fun e => (placeOf k (first + e : Nat)).map fun p => rcdBase k + p.1
    finishLong i f { noPending with units := vas.foldl (fun u va => setInsert u (va / 65536)) [] }
      (vas.foldl (prefetchOne o (curAgent s)) s)) s

/-- TICK (R193): the core's program timestamp moves on, with the sweep of R224. -/
def execTick (g a u : Nat) (s : State) : Out :=
  let i := Instr.tick g a u
  let m := active s g
  checked i m (legalForm i) [] (fun s =>
    let n := if u = 1 then (getS (cur s) a).toNat % 16384 else a
    advance (wordsOf i) (if m = 0 then s else setPts s.core ((coreAt s s.core).pts + BitVec.ofNat 16 n) false s)) s

end Sys2Proof.Machine
end

