-- ==== Sys2Proof/Machine/Sched.lean ====
section
/-! DEFINITION. Which flocks and paths can use an issue turn (R253, R278, R286, R366). -/

namespace Sys2Proof.Machine

/-- Whether a workgroup's flock may still issue: it is resident, or it began to stop in this clock and the flock has not met its boundary
(R358, R359). -/
def wgIssues (s : State) (w : Wg) (index : Nat) : Bool :=
  match w.phase with
  | .resident => true
  | .stopping _ => w.stopAt == s.time && !w.halted.contains index
  | _ => false

/-- Whether a flock may be given an issue turn: its workgroup issues, it is not parked (R286), no continuation is under way (R366). -/
def mayIssue (s : State) (c f : Nat) : Bool :=
  let x := flockAt s c f
  x.launch != 0 && wgIssues s (wgOf s x.launch x.wg) x.index &&
  match (coreAt s c).fabric with
  | none => true
  | some fab => fab.control == f && !fab.lanes.any fun e => e.2.cmds.any fun d => d.uid.isNone

/-- Whether a flock is parked: its core is in spatial mode under another flock (R286). -/
def parked (s : State) (c f : Nat) : Bool := (coreAt s c).fabric.any fun x => x.control != f

/-- What a path can do with an issue turn. -/
inductive Ready where
  | runs
  /-- Waits at an instruction or clause start that is tried again. -/
  | polls
  | blocked
  deriving DecidableEq, Repr

def readiness (clk : Nat) (p : Path) : Ready :=
  match p.wait with
  | .none => .runs
  | .bar _ => .blocked
  | .nap stop => if stop ≤ clk then .runs else .blocked
  | _ => .polls

/-- The flocks that hold a path which can run, or one that can be tried again. -/
def candidates (s : State) (want : Ready) : List (Nat × Nat) :=
  s.cores.flatMap fun k => (k.2.flocks.filter fun f =>
    mayIssue s k.1 f.1 && [f.2.path0, f.2.path1].any fun p => match p with
      | some p => readiness (clockOf s k.1) p == want
      | none => false).map fun f => (k.1, f.1)

/-- The next of a list after the issuing flock, in turn. -/
def nextAfter (c f : Nat) (l : List (Nat × Nat)) : Option (Nat × Nat) :=
  match l.find? fun x => decide (c < x.1) || (x.1 == c && decide (f < x.2)) with
  | some x => some x
  | none => l.head?

end Sys2Proof.Machine
end

