-- ==== Sys2Proof/Machine/Control.lean ====
section
/-! DEFINITION. Control flow and synchronisation: clause starts, transfers, calls, exit, barriers, yield, nap, trap, code changes, sysop
and the events of flocks (R46 to R52, R253 to R255, R264 to R285). -/

namespace Sys2Proof.Machine

/-! ### Clauses (R46 to R48) -/

/-- Whether a word's major may stand only last in its clause (R47). -/
def endsClause (w : Nat) : Bool := [0x50, 0x51, 0x52, 0x53, 0x54, 0x55, 0x5B, 0x72, 0x73].contains (bits w 31 25)

/-- Whether the instruction words of a clause are legal: no long form lacks its second word, and no instruction but the last is one that
ends a clause (R47). -/
def clauseWords : List Nat → Bool
  | [] => true
  | [w] => !isLongMajor (bits w 31 25)
  | [w, x] => if isLongMajor (bits w 31 25) then true else !endsClause w && clauseWords [x]
  | w :: x :: r => !endsClause w && (if isLongMajor (bits w 31 25) then clauseWords r else clauseWords (x :: r))

/-- Whether a header word is legal (R47). -/
def headerLegal (w : Nat) : Bool :=
  bits w 31 28 == 0b1100 && bits w 3 0 == 0 && !(decide (12 ≤ bits w 12 9) && decide (bits w 12 9 < 15)) &&
  !(decide (12 ≤ bits w 8 5) && decide (bits w 8 5 < 15))

/-- The merge of R253 at a clause start: two paths at one clause header become one in slot 0, and slot 1 is refilled. What either had
fetched ahead goes, since a fetch barrier of the other may lie after it (R281). So does the rest of a nap there (DESIGN CHOICE, log entry
80). -/
def mergePaths (clk : Nat) (f : Flock) : Option Flock :=
  match f.path0, f.path1 with
  | some p, some q =>
    if p.pc = q.pc ∧ p.left = 0 ∧ q.left = 0 ∧ !p.hint ∧ !q.hint then
      some (restartCount clk (refill { f with path0 := some (pathAt p.pc (p.mask ||| q.mask)), path1 := none, ahead := [] } true))
    else none
  | _, _ => none

/-- Merges the issuing path with the other slot's, where they meet. -/
def mergeCur (s : State) : State :=
  match mergePaths (clockOf s s.core) (cur s) with
  | some f => { setCurStack f s with second := false }
  | none => s

/-- illegal-clause (0x02): the header word, and the threads of the path that have not exited. -/
def clauseRec (w : Nat) (s : State) : TrapRec := trapRec s 0x02 (liveMask (cur s) (curPath s)) [(0, 4, w)]

/-- Enters a clause at its header: its words are fetched, checked, and its wait mask tested once. The check leaves words fetched ahead for
the instructions that execute them (R353). What the header and the words raise comes before the wait mask is tested (DESIGN CHOICE, log
entry 106). -/
def enterClause (s : State) : State :=
  let pc := (curPath s).pc
  match fetchWord pc s with
  | (s, none) => s
  | (s, some h) =>
    if !headerLegal h then takeTrap (clauseRec h s) s
    else
      let n := bits h 27 25 + 1
      match peekWords n (pc + 4) s with
      | (s, none) => s
      | (s, some ws) =>
        if !clauseWords ws then takeTrap (clauseRec h s) s
        else if (List.range 12).any (fun k => bitAt h (13 + k) && getCf (cur s) k != 0) then waitFor (.flags (bits h 24 13)) s
        else mapCurPath (fun p =>
          { p with pc := pc + 4, left := n, hint := bitAt h 4, setA := bits h 12 9, setB := bits h 8 5, wait := .none }) s

/-- CLAUSE_START (R48, R52, R253): a hinted clause that a nap ended, or a barrier on the stack, yields first. A clause start merges once: a
stacked path of the same PC that the merge brings into slot 1 meets the merged path at a later clause start (DESIGN CHOICE, log entry 80).
-/
def execClauseStart (s : State) : Out :=
  .next (match pathOf (cur s) s.second with
    | none => s
    | some p =>
      if p.left ≠ 0 then s
      else if p.hint then
        setCurStack (yieldPoint true (clockOf s s.core) s.second (withPath (cur s) s.second (some { p with hint := false }))) s
      else enterClause (mergeCur s))

/-! ### Transfers (R264 to R273) -/

/-- Whether a target lies in the code section (R264). -/
def inCode (s : State) (pc : Int) : Bool :=
  let o := curObj s
  decide (0 ≤ pc) && pc % 4 == 0 && decide ((o.codeOff : Int) ≤ pc) && decide (pc < (o.codeOff + o.codeSize : Nat))

/-- The function entry at a code offset (R270). -/
def functionAt (s : State) (pc : Nat) : Option Entry := (curObj s).entries.find? fun e => e.kind == 1 && e.off == pc

/-- The groups of a transfer of the issuing path: dest gives the address of each thread that goes, the others fall through. -/
def groupsFor (go : Mask) (dest : Nat → Nat) (s : State) : List (Nat × Mask) :=
  let fall := nextHeader (curPath s)
  groupsOf fall (liveMask (cur s) (curPath s)) fun t => if inMask go t then dest t else fall

/-- Moves the threads of the issuing path, of which m are active and go go; a full stack traps and nothing moves. miss says whether hintmiss
is set (R266, R269), body what the transfer writes beside. -/
def moveThreads (m go : Mask) (dest : Nat → Nat) (backward miss : Bool) (body : Flock → Flock) (s : State) : State :=
  let gs := groupsFor go dest s
  if Config.stackLimit < (cur s).stack.length + pushCount (cur s) s.second gs.length then
    takeTrap (trapRec s 0x06 m [(0, 1, Config.stackLimit)]) s
  else
    let s := setCur (body (cur s)) s
    let s := if miss then raise flHintmiss s else s
    transfer gs backward s

/-- Whether some of the issuing path's threads take a branch and others stay (R266). -/
def divides (m : Mask) (s : State) : Bool := m != 0 && (liveMask (cur s) (curPath s) &&& ~~~m) != 0

/-- BRA and BRA_L: a target of the instruction's own (R266). -/
def branchOp (i : Instr) (m : Mask) (h : Nat) (target : Int) (s : State) : Out :=
  checked i m (legalForm i && inCode s target) [] (fun s =>
    moveThreads m m (fun _ => target.toNat) (decide (target ≤ (curPath s).pc)) (h == 3 && divides m s) (fun f => f) s) s

/-- BRA (R266). -/
def execBra (g o h n : Nat) (s : State) : Out :=
  branchOp (.bra g o h n) (activeNeg s g n) h ((curPath s).pc + 4 * toSigned 18 o) s

/-- BRA_L (R266). -/
def execBraL (g h n off : Nat) (s : State) : Out :=
  branchOp (.braL g h n off) (activeNeg s g n) h ((curPath s).pc + toSigned 32 off) s

/-- The entry of a target set that a thread selects, where its index is below the set's length (R269); none where the index register lies
beyond the allocation, which traps. Sets and entries are as they were when the object was loaded (DESIGN CHOICE, log entry 99). -/
def setEntry (s : State) (sx ix u t : Nat) : Option Nat :=
  if u ≠ 1 ∧ (cur s).budget ≤ ix then none
  else ((curObj s).sets.getD sx [])[(if u = 1 then getS (cur s) ix else getV (cur s) t ix).toNat]?

/-- BRX (R269). -/
def execBrx (g ix sx h n u : Nat) (s : State) : Out :=
  let i := Instr.brx g ix sx h n u
  let m := activeNeg s g n
  let entry := setEntry s sx ix u
  let legal := decide (sx < (curObj s).sets.length) && (threadsOf m).all fun t => (entry t).all fun e => inCode s e
  checked i m (legalForm i && legal) (if u = 1 then [] else [ix]) (fun s =>
    let backward := (threadsOf m).any fun t => (entry t).any fun e => decide (e ≤ (curPath s).pc)
    let dest (t : Nat) : Nat := (entry t).getD (nextHeader (curPath s))
    moveThreads m m dest backward (h == 3 && decide (1 < (groupsFor m dest s).length)) (fun f => f) s) s

/-- A call (R270 to R272): callers and their targets; those named are checked whether or not a thread goes there. -/
def callOp (i : Instr) (m : Mask) (l : Nat) (regs named : List Nat) (legal : Bool) (entry : Nat → Option Nat) (s : State) : Out :=
  let targets := named ++ (threadsOf m).filterMap entry
  let callers := maskOf fun t => inMask m t && (entry t).isSome
  checked i m (legalForm i && legal && targets.all fun e => inCode s e && (functionAt s e).isSome) (l :: regs) (fun s =>
    match (targets.filterMap (functionAt s)).find? fun e => decide ((cur s).budget < e.budget) with
    | some e => takeTrap (budgetRec l e.budget m s) s
    | none =>
      let fall := nextHeader (curPath s)
      moveThreads m callers (fun t => (entry t).getD fall) false false (fun f => putVs f l callers fun _ => BitVec.ofNat 32 fall) s) s

/-- A call of the instruction's own target (R271). -/
def callTo (i : Instr) (m : Mask) (l : Nat) (target : Int) (s : State) : Out :=
  callOp i m l [] [target.toNat] (decide (0 ≤ target)) (fun _ => some target.toNat) s

/-- CALL (R271). -/
def execCallI (g l o n : Nat) (s : State) : Out :=
  callTo (.callI g l o n) (activeNeg s g n) l ((curPath s).pc + 4 * toSigned 12 o) s

/-- CALL_L (R271). -/
def execCallL (g l n off : Nat) (s : State) : Out :=
  callTo (.callL g l n off) (activeNeg s g n) l ((curPath s).pc + toSigned 32 off) s

/-- CALLX (R272). -/
def execCallx (g l ix sx n u : Nat) (s : State) : Out :=
  callOp (.callx g l ix sx n u) (activeNeg s g n) l (if u = 1 then [] else [ix]) [] (decide (sx < (curObj s).sets.length))
    (setEntry s sx ix u) s

/-- RET (R273). -/
def execRet (g l n : Nat) (s : State) : Out :=
  let i := Instr.ret g l n
  let m := activeNeg s g n
  let dest (t : Nat) : Nat := (getV (cur s) t l).toNat
  checked i m (legalForm i && (decide ((cur s).budget ≤ l) || (threadsOf m).all fun t => inCode s (dest t))) [l]
    (moveThreads m m dest false false (fun f => f)) s

/-! ### exit (R274, R275) -/

/-- The open collective rounds of the issuing workgroup that a flock has not joined trap it (R199). -/
def slicesCheck (l k flock pcSlot pc : Nat) (m : Mask) (core : Nat) (s : State) : State :=
  if (coreAt s core).handles.any (fun e =>
      e.2.st == .filling && e.2.owner == some (l, k) && e.2.slices != [] && e.2.job.isNone && !(e.2.slices.any fun x => x.1 == flock)) then
    sliceMissing l k flock pcSlot pc m s
  else s

/-- EXIT (R274): the active threads leave their path; an empty slot is refilled, and barriers, slices, acc.free of the tiles of a flock that
has exited (R138) and retirement follow. -/
def execExitI (g n : Nat) (s : State) : Out :=
  let i := Instr.exitI g n
  let m := activeNeg s g n
  checked i m (legalForm i) [] (fun s =>
    if m = 0 then advance (wordsOf i) s
    else
      let p := curPath s
      let l := (cur s).launch
      let k := (cur s).wg
      let clk := clockOf s s.core
      let f := restartCount clk { cur s with exited := (cur s).exited ||| m }
      let all := f.exited = BitVec.allOnes 32
      let slot := if s.second then 1 else 0
      let f := if all then { f with exitAt := some (p.pc, slot, m) } else f
      let f := if p.mask &&& ~~~m = 0 then refill (withPath f s.second none) s.second
        else advancePath (wordsOf i) clk s.second (withPath f s.second (some { p with mask := p.mask &&& ~~~m }))
      let s := barriersCheck l k (setCurStack f s)
      if all then retireCheck s.core s.slot (slicesCheck l k (cur s).index slot p.pc m s.core (freeTiles s.core s.slot s)) else s) s

/-! ### Meeting points (R276 to R278) -/

/-- BAR (R276): the path arrives and waits; the last arrival releases every waiting path. -/
def execBar (n : Nat) (s : State) : Out :=
  let i := Instr.bar n
  let m := liveMask (cur s) (curPath s)
  checked i m (legalForm i) [] (fun s =>
    let f := cur s
    let s := waitFor (.bar n) (setCur { f with arrived := smapSet 0 f.arrived n (smapGet 0 f.arrived n ||| m) } s)
    let s := barrierCheck f.launch f.wg n s
    setCurStack (yieldPoint false (clockOf s s.core) s.second (cur s)) s) s

/-- YIELD (R45, R277): the slot's path changes places with the stack's, or the flock's next issue turn goes to another. -/
def execYield (g : Nat) (s : State) : Out :=
  let i := Instr.yield g
  let m := active s g
  checked i m (legalForm i) [] (fun s =>
    if m = 0 then advance (wordsOf i) s
    else
      let f := withPath (cur s) s.second ((pathOf (cur s) s.second).map (stepPath (wordsOf i)))
      setCurStack (yieldPoint true (clockOf s s.core) s.second f) s) s

/-- NAP (R278): the path stands past the nap and issues nothing for 16·n clocks. -/
def execNap (g n u : Nat) (s : State) : Out :=
  let i := Instr.nap g n u
  let m := active s g
  checked i m (legalForm i) [] (fun s =>
    if m = 0 then advance (wordsOf i) s
    else
      let clk := clockOf s s.core
      let k := if u = 1 then (getS (cur s) (n / 64)).toNat % 65536 else n
      let rest (p : Path) : Path := { stepPath (wordsOf i) p with wait := if k = 0 then .none else .nap (clk + 16 * k) }
      setCurStack (yieldPoint false clk s.second (withPath (cur s) s.second ((pathOf (cur s) s.second).map rest))) s) s

/-- NAP_END (R278). -/
def execNapEnd (core slot : Nat) (second : Bool) (s : State) : Out :=
  let f := flockAt s core slot
  .next (match pathOf f second with
    | some p =>
      match p.wait with
      | .nap stop => if stop ≤ clockOf s core then setFlock core slot (withPath f second (some { p with wait := .none })) s else s
      | _ => s
    | none => s)

/-- Whether a path stands at a yield point that blocks it (R255). -/
def atYieldPoint (p : Path) : Bool :=
  match p.wait with
  | .bar _ => true
  | .nap _ => true
  | .handle => true
  | .tile => true
  | _ => false

/-- SWAP_COUNT_EXPIRY (R255): a slot blocked at a yield point swaps once the flock's count reaches 4,096; a parked flock's paths stay as
they were (R286). -/
def execSwapCountExpiry (core slot : Nat) (second : Bool) (s : State) : Out :=
  let f := flockAt s core slot
  .next (match pathOf f second with
    | some p => if atYieldPoint p && !parked s core slot then setFlockStack core slot (yieldPoint false (clockOf s core) second f) s else s
    | none => s)

/-- TRAP (R279). -/
def execTrapI (g n : Nat) (s : State) : Out :=
  let i := Instr.trapI g n
  let m := active s g
  checked i m (legalForm i) [] (fun s =>
    if m = 0 then advance (wordsOf i) s else takeTrap (trapRec s (if n = 4095 then 0x31 else 0x30) m [(0, 2, n)]) s) s

/-- RESERVED_MAJOR (R69): illegal-opcode. -/
def execReservedMajor (w w2 : Nat) (s : State) : Out :=
  let i := Instr.reservedMajor w w2
  checked i (active s (bits w 24 22)) (legalForm i) [] (fun s => s) s

/-! ### Changing code (R280, R281) -/

/-- The first element of a range that lies outside its record (R158, R280). -/
def rangeBad (r first n : Nat) : Option Nat :=
  let whole := rcdInner r * rcdOuter r
  if whole < first + n then some (max first whole) else (upFrom first n).find? fun e => (placeOf r e).isNone

/-- The checks of a range that a flock names without translating it (R280): bounds, then the record's permission. -/
def withExtent (i : Instr) (m : Mask) (n sx reg : Nat) (body : State → State) (s : State) : State :=
  let r := (getB (cur s) reg).toNat
  let first := (getS (cur s) sx).toNat
  let q := askMaintain i m s n sx reg
  let at_ (e : Nat) : TrapRec := laneRec s q 0x10 (e - first) []
  if (getS (cur s) n).toNat = 0 then body s
  else if rcdInvalid r then takeTrap (at_ first) s
  else match rangeBad r first (getS (cur s) n).toNat with
    | some e => takeTrap (at_ e) s
    | none => if rcdScratch r || !rcdRead r then takeTrap (pageRec s .read m 0 0x14 0xFF 0 0) s else body s

/-- The bytes of a range: virtual address and length of each element. -/
def rangeBytes (s : State) (n sx reg : Nat) : List (Nat × Nat) :=
  let r := (getB (cur s) reg).toNat
  (upFrom (getS (cur s) sx).toNat (getS (cur s) n).toNat).filterMap fun (e : Nat) =>
    (placeOf r (e : Int)).map fun p => (rcdBase r + p.1, max (sizeBytes (rcdSize r)) 1)

/-- Whether a word, by its key, has a byte in one of a domain's ranges. -/
def wordMet (dom : Nat) (ranges : List (Nat × Nat)) (key : Nat) : Bool :=
  key / 2 ^ 57 == dom && ranges.any fun x => decide (x.1 < key % 2 ^ 57 + 4) && decide (key % 2 ^ 57 < x.1 + x.2)

/-- ICINV (R280): the core's copies of the instruction words that the range touches are dropped; nothing is translated. It follows the
flock's earlier stores and write-backs that are still held (R216 note 6), and waits at issue for them, since the flock's next instruction
follows the drop. -/
def execIcinv (g c sx r : Nat) (s : State) : Out :=
  let i := Instr.icinv g c sx r
  let m := active s g
  checked i m (legalForm i) [] (fun s =>
    if m = 0 then advance (wordsOf i) s
    else
      withExtent i m c sx r (waitInOrder (flockOp s maintainAct m) fun s =>
        let gone := wordMet (curLaunch s).dom (rangeBytes s c sx r)
        advance (wordsOf i) (dropWords gone s.core (noteDrop gone s))) s) s

/-- FETCHB (R281): the words that the path has fetched ahead are discarded, so every later word is fetched later. -/
def execFetchb (s : State) : Out :=
  let i := Instr.fetchb
  checked i (liveMask (cur s) (curPath s)) (legalForm i) [] (fun s =>
    advance (wordsOf i) (fencePath (setCur { cur s with ahead := dropAhead s.second (cur s).ahead } s))) s

/-! ### sysop (R282, R283) -/

/-- The pages of a range in ascending unit order: the trap of the first that is unresolvable or fails the domain check (R282). -/
def sysopPages (m : Mask) : List (Nat × Page) → State → Option TrapRec
  | [], _ => none
  | (u, p) :: r, s =>
    match p with
    | .bad 0x13 level _ _ _ => some (pageRec s .read m (u * 65536) 0x13 level 0 0)
    | .bad _ _ _ _ (some x) =>
      if domainOk s (curAgent s) x (u * 65536) then sysopPages m r s else some (pageRec s .read m (u * 65536) 0x15 0xFF 0 0)
    | _ => sysopPages m r s

/-- The units that a range's bytes touch, ascending. -/
def extentUnits (xs : List (Nat × Nat)) : List Nat :=
  xs.foldl (fun u x => setInsert (setInsert u (x.1 / 65536)) ((x.1 + x.2 - 1) / 65536)) []

/-- A privileged operation over a range (R282). -/
def sysopOp (i : Instr) (m : Mask) (n sx reg : Nat) (body : List (Nat × Page) → State → State) (s : State) : Out :=
  checked i m (legalForm i) [] (fun s =>
    if m = 0 then advance (wordsOf i) s
    else if !(curLaunch s).priv then takeTrap (trapRec s 0x04 m [(0, 1, 0x5F)]) s
    else withExtent i m n sx reg (fun s =>
      let (s, ps) := pagesFor (curAgent s) .read (extentUnits (rangeBytes s n sx reg)) s
      match sysopPages m ps s with
      | some r => takeTrap r s
      | none => body ps s) s) s

/-- The dirty bit of a page's leaf entry (R163, R230): bit 6. -/
def dirtyBit : Nat := 64

/-- Harvests one page (R230): its record sets the dirty bit of its leaf entry, and is cleared with it. -/
def harvestPage (dom : Nat) (s : State) (u : Nat × Page) : State :=
  match pageLeaf u.2 with
  | none => s
  | some x =>
    let va := u.1 * 65536
    let size := pageSize (leafSize x)
    let loc := leafLoc x (va / size * size)
    let mine (d : Nat) : Bool := decide (loc ≤ d) && decide (d < loc + size)
    if !s.dirty.any mine then s
    else match walkFrom s va 4 0 (domRoot (domDesc s dom)) with
      | .leaf y pa =>
        physWrite pa (leBytes 16 (if bitAt y 6 then y else y + dirtyBit)) { s with dirty := s.dirty.filter fun d => !mine d }
      | .failed _ pa => physVerify pa 16 s
      | _ => s

/-- SYSOP_HARVEST (R283). -/
def execSysopHarvest (g c sx r : Nat) (s : State) : Out :=
  let i := Instr.sysopHarvest g c sx r
  sysopOp i (active s g) c sx r (fun ps s => advance (wordsOf i) (ps.foldl (harvestPage (curLaunch s).dom) s)) s

/-- Zeros one poisoned sector at its home (R283). -/
def zeroSector (x va : Nat) (s : State) : State :=
  if isPoisoned s (sectorOf (leafLoc x va)) then
    let s := storeBytes (some s.core) x va (List.replicate 32 0) s
    let s := settleLine (leafPad x) (lineBase s (leafPad x) (leafLoc x va)) s
    let s := leaseStamps (some s.core) (match leaseLine s x va with
      | some l => [l]
      | none => []) s
    clearCovered [(leafLoc x va, 32)] s
  else s

/-- What is zeroed for a sector that the range touches: every lost line that lies poisoned whole around it; its line, where every sector of
that is poisoned; else the sector (R231, R283; log entry 66). -/
def poisonedExtent (s : State) (x va : Nat) : List Nat :=
  let loc := leafLoc x va
  let len := if leafHome x = 2 then padLine s (leafPad x) else 128
  let span (e : Nat × Nat) : List Nat := (List.range (e.2 / 32)).map fun i => va - (loc - e.1) + 32 * i
  let lines := ((loc / len * len, len) :: s.lost).filter fun e =>
    decide (e.1 ≤ loc) && decide (loc < e.1 + e.2) && stillLost s.poison e
  if lines = [] then [va] else lines.flatMap span

/-- The poisoned sectors that are zeroed for a range: the leaf of each with its virtual address. -/
def unpoisonSpots (ps : List (Nat × Page)) (xs : List (Nat × Nat)) (s : State) : List (Nat × Nat) :=
  let secs := xs.foldl (fun a x => setInsert (setInsert a (x.1 / 32)) ((x.1 + x.2 - 1) / 32)) []
  secs.flatMap fun sec => match pageLeaf (pageOf ps (32 * sec)) with
    | some x => ((poisonedExtent s x (32 * sec)).filter fun va => isPoisoned s (sectorOf (leafLoc x va))).map fun va => (x, va)
    | none => []

/-- SYSOP_UNPOISON (R283): every poisoned line or sector that the range touches is written with zeros, as a relaxed store at .dv: in the
order of the flock's earlier accesses, for which it waits at issue, since its next instruction follows the whole range (R215, R282). -/
def execSysopUnpoison (g c sx r : Nat) (s : State) : Out :=
  let i := Instr.sysopUnpoison g c sx r
  let m := active s g
  sysopOp i m c sx r (fun ps s =>
    let spots := unpoisonSpots ps (rangeBytes s c sx r) s
    if spots = [] then advance (wordsOf i) s
    else waitInOrder { flockOp s (storeAct false) m with places := spots.map fun x => (0, leafLoc x.1 x.2, 32) }
      (fun s => advance (wordsOf i) (spots.foldl (fun s x => zeroSector x.1 x.2 s) s)) s) s

/-! ### Completions (R49, R275) -/

/-- Whether a pending instruction still waits for something. -/
def stillWaits (s : State) (core : Nat) (p : Pending) : Bool :=
  (p.product && unitBusy s core p.uid) ||
  p.fe.any (fun i => i.mask != 0) || s.held.any (fun h => h.what.uid == p.uid) || p.lane.isSome || p.pad.isSome ||
  p.lines.any fun l => match findLine s l.1 l.2 with
    | some x => x.st == .updating
    | none => false

/-- Writes what a completion delivers, and counts its flag down. -/
def deliver (p : Pending) (f : Flock) : Flock :=
  let put (f : Flock) (k : Nat) (x : Word) : Flock := { f with v := smapSet 0 f.v k x, latch := latchAfter f.latch (k / 32) }
  let f := p.vw.foldl (fun f w => put f w.1 w.2) f
  let f := p.vm.foldl (fun f w => put f w.1 ((smapGet 0 f.v w.1 &&& ~~~w.2.1) ||| (w.2.2 &&& w.2.1))) f
  let f := p.sw.foldl (fun f w => putS f w.1 w.2) f
  let f := match p.bw with
    | some w => putB f w.1 w.2
    | none => f
  let f := match p.flag with
    | some n => putCf f n (getCf f n - 1)
    | none => f
  { f with pending := f.pending.filter fun q => q.uid != p.uid }

/-- Makes a release that waited for a completed matrix instruction due (R138). -/
def tileAwaits (core slot : Nat) (tile : Option Nat) (s : State) : State :=
  match tile with
  | some t => if (tileAt s core t).releasing ∧ tileHolder (tileAt s core t) = slot then due (.tileReleaseEffective core t) s else s
  | none => s

/-- Takes a flock out of its slot: the tiles it holds, and those whose release was under way, are released, its blocks are free (R16, R138).
-/
def retireFlock (core slot : Nat) (s : State) : State :=
  let s := (List.range 4).foldl (fun s t =>
    if tileHeld (tileAt s core t) && tileHolder (tileAt s core t) == slot then releaseTile core t s else s) s
  let f := flockAt s core slot
  updWg f.launch f.wg (fun w => { w with slots := setErase w.slots slot, gone := smapPut w.gone f.index f })
    (setFlock core slot emptyFlock s)

/-- FLOCK_RETIREMENT (R138, R275): every thread has exited and every long-latency instruction is complete; the tiles it holds are released,
and a core whose control flock it is leaves spatial mode, after its stream commands (R290). -/
def execFlockRetirement (core slot : Nat) (s : State) : Out :=
  let f := flockAt s core slot
  let control := (coreAt s core).fabric.any fun x => x.control == slot
  .next (if f.launch = 0 ∨ f.exited ≠ BitVec.allOnes 32 ∨ f.pending ≠ [] ∨ (control ∧ streamsBusy s core) then s
    else
      let s := if control then leaveFabric core s else s
      completeCheck f.launch f.wg (barriersCheck f.launch f.wg (retireFlock core slot s)))

end Sys2Proof.Machine
end

