-- ==== Sys2Proof/Machine/Convert.lean ====
section
/-! DEFINITION. Conversions between number formats that work on registers (R83, R84, R122 to R125, R127). -/

namespace Sys2Proof.Machine

/-- The destination formats of CVT (R122). -/
def cvtFmt (f : Nat) : Fmt :=
  if f = 0 then fmtBf16 else if f = 1 then fmtF16 else if f = 2 then fmtE4m3 else if f = 3 then fmtE5m2 else fmtE2m1

/-- CVT (R122). -/
def execCvt (g d a f sx r : Nat) (s : State) : Out :=
  regOp (.cvt g d a f sx r) (active s g) (.v d) [.v a]
    (fun k th =>
      let x := cvtCode (cvtFmt f) ((rmodeOf r).getD .rn) (sx == 1) (getV k th a).toNat
      (BitVec.ofNat 32 x.1, x.2)) s

/-- The width and signedness of CVTI's integer destinations (R123). -/
def cvtiWidth (f : Nat) : Nat := if f < 2 then 32 else if f < 4 then 16 else 8
def cvtiSigned (f : Nat) : Bool := f % 2 == 0

/-- The result of CVTI for one operand (R123). -/
def cvtiResult (f : Nat) (mode : RMode) (x : Nat) : Nat × Nat :=
  if f < 6 then
    let w := cvtiWidth f
    let lo : Int := if cvtiSigned f then -(2 ^ (w - 1) : Int) else 0
    let hi : Int := if cvtiSigned f then (2 ^ (w - 1) : Int) - 1 else (2 ^ w : Int) - 1
    let r := cvtiToInt mode lo hi x
    (wrapInt 32 r.1, r.2)
  else cvtiFromInt (if f = 6 then fmtF32 else if f = 7 then fmtBf16 else fmtF16) mode (toSigned 32 x)

/-- CVTI (R123). -/
def execCvti (g d a f r : Nat) (s : State) : Out :=
  regOp (.cvti g d a f r) (active s g) (.v d) [.v a]
    (fun k th =>
      let x := cvtiResult f ((rmodeOf r).getD .rn) (getV k th a).toNat
      (BitVec.ofNat 32 x.1, x.2)) s

/-- PACK (R124). -/
def execPack (g d a b c t : Nat) (s : State) : Out :=
  regOp (.pack g d a b c t) (active s g) (dstOf c d) [srcOf c a, srcB c b]
    (fun f th =>
      let x := (readSrc f (srcOf c a) th).toNat
      let y := (readSrc f (srcB c b) th).toNat
      (BitVec.ofNat 32 (if t = 0 then y % 65536 * 65536 + x % 65536 else y % 256 * 256 + x % 256), 0)) s

/-- Element i of a register as UNPACK widens it (R124). -/
def unpackElement (t i x : Nat) : Nat :=
  let w := if t = 8 then 4 else if t = 0 ∨ t = 1 ∨ t = 4 ∨ t = 5 then 16 else 8
  let e := x / 2 ^ (w * i) % 2 ^ w
  match t with
  | 0 => e
  | 1 => wrapInt 32 (toSigned 16 e)
  | 2 => e
  | 3 => wrapInt 32 (toSigned 8 e)
  | 4 => widenF32 fmtBf16 e
  | 5 => widenF32 fmtF16 e
  | 6 => widenF32 fmtE4m3 e
  | 7 => widenF32 fmtE5m2 e
  | _ => widenF32 fmtE2m1 e

/-- UNPACK (R124). -/
def execUnpack (g d a t u ix : Nat) (s : State) : Out :=
  let src : Src := if u = 1 then .s a else .v a
  regOp (.unpack g d a t u ix) (active s g) (if u = 1 then .s d else .v d) [src]
    (fun f th => (BitVec.ofNat 32 (unpackElement t ix (readSrc f src th).toNat), 0)) s

/-- Entry c of a codebook slot of a workgroup; a slot never filled holds +0 (R84). -/
def cbEntry (w : Wg) (slot c : Nat) : Nat := (smapGet 0 w.cb (16 * slot + c)).toNat

/-- CBDEC (R125): the slot is sampled whole at issue (R89). -/
def execCbdec (g d a sx u ix : Nat) (s : State) : Out :=
  let src : Src := if u = 1 then .s a else .v a
  let w := curWg s
  regOp (.cbdec g d a sx u ix) (active s g) (if u = 1 then .s d else .v d) [src]
    (fun f th =>
      let x := (readSrc f src th).toNat
      (BitVec.ofNat 32 (cbEntry w sx (bits x (8 * ix + 7) (8 * ix + 4)) * 65536 + cbEntry w sx (bits x (8 * ix + 3) (8 * ix))), 0)) s

/-- MXSCALE (R127): the shared scale comes from every active thread, then each element under it. -/
def execMxscale (g d a e : Nat) (s : State) : Out :=
  let m := active s g
  regOp (.mxscale g d a e) m (.v d) [.v a]
    (fun f th =>
      let value (t : Nat) : FVal := fdecode fmtF32 (getV f t a).toNat
      let k := mxScaleByte e ((threadsOf m).map value)
      let x := mxElement e k (value th)
      (BitVec.ofNat 32 (k * 256 + x.1), x.2)) s

end Sys2Proof.Machine
end

