-- ==== Sys2Proof/Machine/CrossLane.lean ====
section
/-! DEFINITION. Predicate and cross-lane instructions (R129 to R135): only the active threads contribute and receive. -/

namespace Sys2Proof.Machine

/-- POP (R129). -/
def execPop (g d a b o : Nat) (s : State) : Out :=
  predOp (.pop g d a b o) (active s g) d []
    (fun f t =>
      let x := inMask (getP f a) t
      let y := inMask (getP f b) t
      if o = 0 then x && y else if o = 1 then x || y else if o = 2 then x != y else x && !y) s

/-- BALLOT (R130). -/
def execBallot (g d p u : Nat) (s : State) : Out :=
  let m := active s g
  regOp (.ballot g d p u) m (if u = 1 then .s d else .v d) [] (fun f _ => (m &&& getP f p, 0)) s

/-- AGREE (R131): k of the n active threads are true. -/
def execAgree (g d a t : Nat) (s : State) : Out :=
  let m := active s g
  predOp (.agree g d a t) m d []
    (fun f _ =>
      let n := (threadsOf m).length
      let k := (threadsOf (m &&& getP f a)).length
      if t = 0 then decide (1 ≤ k) else if t = 1 then k == n else k == 0 || k == n) s

/-- The bits that MATCH compares (R132). -/
def matchKey (w : Nat) (x : Word) : Nat := if w = 0 then x.toNat else if w = 1 then x.toNat % 65536 else x.toNat % 256

/-- MATCH (R132). -/
def execMatchK (g d a w : Nat) (s : State) : Out :=
  let m := active s g
  regOp (.matchK g d a w) m (.v d) [.v a]
    (fun f t => (maskOf fun u => inMask m u && matchKey w (getV f u a) == matchKey w (getV f t a), 0)) s

/-- The source thread of XPICK (R133). -/
def pickThread (mode t b : Nat) : Nat := if mode = 0 then b % 32 else if mode = 1 then (t + b) % 32 else t ^^^ (b % 32)

/-- XPICK (R133): an inactive source gives the thread its own value. -/
def execXpick (g d a b sx md : Nat) (s : State) : Out :=
  let m := active s g
  let src : Src := if sx = 0 then .v b else if sx = 1 then .s b else .imm (BitVec.ofNat 32 b)
  regOp (.xpick g d a b sx md) m (.v d) [.v a, src]
    (fun f t =>
      let u := pickThread md t (readSrc f src t).toNat
      (if inMask m u then getV f u a else getV f t a, 0)) s

/-- Combine of XFOLD (R134). -/
def foldCombine (o : Nat) (signed : Bool) (r x : Word) : Word :=
  match o with
  | 0 => r + x
  | 1 => if readAs signed 32 x.toNat < readAs signed 32 r.toNat then x else r
  | 2 => if readAs signed 32 r.toNat < readAs signed 32 x.toNat then x else r
  | 3 => r &&& x
  | 4 => r ||| x
  | _ => r ^^^ x

/-- XFOLD (R134). -/
def execXfold (g d a t u o : Nat) (s : State) : Out :=
  let m := active s g
  regOp (.xfold g d a t u o) m (if u = 1 then .s d else .v d) [.v a]
    (fun f _ =>
      match (threadsOf m).map fun th => getV f th a with
      | [] => (0, 0)
      | x :: r => (r.foldl (foldCombine o (t == 1)) x, 0)) s

/-- LEAD (R135). -/
def execLead (g p a md : Nat) (s : State) : Out :=
  let m := active s g
  predOp (.lead g p a md) m p (if md = 1 then [.v a] else [])
    (fun f t => lowest (m &&& if md = 1 then getV f t a else BitVec.allOnes 32) == some t) s

end Sys2Proof.Machine
end

