-- ==== Sys2Proof/Machine/Paddock.lean ====
section
/-! DEFINITION. Paddocks: definition records, resizes, lines that leave, automatic ticks, and the memory system's own events (R165 to
R175, R207, R221, R225). -/

namespace Sys2Proof.Machine

/-! ### Definition records (R167 to R169) -/

/-- The ways of a way-group code: first way and count (R167). -/
def waysOf (code : Nat) : Nat × Nat :=
  let size := 16 / 2 ^ Nat.log2 code
  ((code - 2 ^ Nat.log2 code) * size, size)

/-- Whether two way groups of one bank overlap. -/
def waysMeet (a b : Nat) : Bool :=
  let x := waysOf a
  let y := waysOf b
  decide (x.1 < y.1 + y.2) && decide (y.1 < x.1 + x.2)

def recId (r : Nat) : Nat := bits r 5 0
def recOwner (r : Nat) : Nat := bits r 15 6
def recVersion (r : Nat) : Nat := bits r 20 16
def recMode (r : Nat) : Nat := bits r 27 26
def recPin (r : Nat) : Bool := bitAt r 28
def recAuto (r : Nat) : Bool := bitAt r 32
def recCount (r : Nat) : Nat := bits r 38 33
def recWays (r : Nat) : Nat := bits r 43 39
def recLease (r : Nat) : Nat := bits r 63 48

/-- Status 0x01: an invalid code, a reserved or unused field, id 0, a bank beyond the last, or a share beyond the count (R168, R169, R224).
-/
def recMalformed (r : Nat) : Bool :=
  bits r 47 44 != 0 || recId r == 0 || decide (32 < recCount r) || (recCount r != 0 && recWays r == 0) ||
  ((List.range 32).any fun n =>
    let b := bits r (64 + 14 * n + 13) (64 + 14 * n)
    if n < recCount r then decide (16127 < b) else b != 0) ||
  (if recPin r then bits r 27 21 != 0 || bits r 31 29 != 0 || recAuto r || recLease r != 0
  else decide (4 < bits r 23 21) || bits r 25 24 == 3 ||
    (if recMode r = 2 then bits r 30 29 == 3 else bits r 31 29 != 0) ||
    (if recMode r = 1 then recLease r == 0 || decide (8191 < recLease r) else recLease r != 0 || recAuto r))

/-- The bank of a list in which a line of a paddock lies. -/
def placedIn (banks : List Nat) (id base : Nat) : Nat := banks.getD (Config.lineShare id base % max banks.length 1) 0

/-- The bank of a list that holds a core's partial of a line (R226): one of the core's own. -/
def partialIn (banks : List Nat) (id base core : Nat) : Nat := placedIn (banks.filter fun b => bankCore b == some core) id base

/-- Whether a bank of a list holds a partial of a line. -/
def holdsPartial (banks : List Nat) (l : Line) (bank : Nat) : Bool :=
  l.partials.any fun p => bankCore bank == some p.1 && partialIn banks l.pad l.base p.1 == bank

/-- Whether a departing share is not yet released: a line or a partial in it has not moved (R173). -/
def shareHolds (s : State) (id : Nat) (z : Resize) (bank : Nat) : Bool :=
  let had := shareList z.old.toNat
  z.leaving.contains bank && (z.departing.any (fun x => placedIn had id x == bank) ||
    (z.departing ++ z.folding).any fun x => (findLine s id x).any fun l => holdsPartial had l bank)

/-- Whether a record's shares clash: with another paddock's, or one that has not left it yet, with bank 0 of a slice, or among themselves
(R169). -/
def sharesClash (s : State) (r : Nat) : Bool :=
  let bs := shareList r
  bs.eraseDups.length != bs.length || bs.any (fun b => decide (13824 ≤ b) && (b - 13824) % 16 == 0) ||
  s.paddocks.any fun e => e.1 != recId r &&
    ((shareList e.2.rcd.toNat).any (fun b => bs.contains b && waysMeet (recWays r) (recWays e.2.rcd.toNat)) ||
      e.2.resize.any fun z => z.leaving.any fun b => bs.contains b && waysMeet (recWays r) (recWays z.old.toNat) && shareHolds s e.1 z b)

/-- Why a record is refused: of several causes, the first row of R169's table (DEDUCED, log entry 79). -/
def recRefusal (s : State) (acts : Nat → Bool) (r : Nat) : Option Nat :=
  let old := smapFind s.paddocks (recId r)
  let was := ((old.map fun (p : Paddock) => p.rcd).getD 0).toNat
  if recMalformed r then some 0x01
  else if sharesClash s r then some 0x02
  else if recVersion r ≠ (if old.isSome then (recVersion was + 1) % 32 else 0) then some 0x03
  else if old.any (fun p => p.resize.isSome) then some 0x04
  else if (old.isSome ∧ recOwner was ≠ recOwner r) ∨ !acts (recOwner r) then some 0x05
  else if old.isSome ∧ bits was 31 21 ≠ bits r 31 21 then some 0x06
  else if !recPin r ∧ ((recMode r = 2 ∧ bits r 25 24 ≠ 0) ∨
      (recMode r = 3 ∧ ((shareList r).any (fun b => (bankCore b).isNone) ∨ 1 < ((shareList r).map bankCore).eraseDups.length))) then
    some 0x07
  else none

/-! ### Resizes (R173 to R175) -/

def updPad (id : Nat) (f : Paddock → Paddock) (s : State) : State :=
  match smapFind s.paddocks id with
  | some p => { s with paddocks := smapPut s.paddocks id (f p) }
  | none => s

/-- Makes the events of a resize due: moves, arrivals, then its end. -/
def padPoke (id : Nat) (s : State) : State :=
  match smapFind s.paddocks id with
  | none => s
  | some p =>
    match p.resize with
    | none => s
    | some z =>
      let s := (z.departing ++ z.folding ++ z.zero).foldl (fun s b => due (.paddockLineMove id b) s) s
      let s := z.arriving.foldl (fun s b => due (.paddockShareArrival id b) s) s
      due (.paddockResizeComplete id) s

/-- Whether a bank of a record takes ways in which a line of paddock 0 lies (R170). -/
def takesZero (r bank base : Nat) : Bool :=
  decide (13824 ≤ bank) && homeSlice base == (bank - 13824) / 16 && Config.zeroLies base bank (recWays r)

/-- Installs a record that has passed its checks (R170, R173, R174). R173 says of a dropped share what becomes of lines, and nothing of
pages pinned in it: from the installation on they raise 0x16, and their presence bits are empty for the next page (DESIGN CHOICE, log entry
81). -/
def installRecord (r : Nat) (signal : Option PadSignal) (s : State) : State :=
  let id := recId r
  let old := smapFind s.paddocks id
  let was := ((old.map fun (p : Paddock) => p.rcd).getD 0).toNat
  let had := if old.isSome then shareList was else []
  let now := shareList r
  let kept := if recWays was = recWays r then had.filter now.contains else []
  let leaving := had.filter fun b => !kept.contains b
  let lines := s.lines.filter fun l => l.pad == id
  let leaves (l : Line) : Bool := kept == [] || leaving.contains (placedIn had id l.base)
  let folds (l : Line) : Bool := !leaves l && leaving.any (holdsPartial had l)
  let arriving := now.filter fun b => !kept.contains b
  let taken (l : Line) : Bool := l.pad == 0 && arriving.any fun b => takesZero r b l.base
  let cores := arriving.filterMap bankCore
  let windows := (s.wgs.filter fun w => onCore w && w.wn != 0 && cores.contains w.core).map fun w => (w.core, w.launch, w.index)
  let p : Paddock :=
    { rcd := BitVec.ofNat 512 r, deleting := recCount r == 0, withdrawn := (old.map (·.withdrawn)).getD []
      resize := some { old := BitVec.ofNat 512 was, departing := (lines.filter leaves).map (·.base), folding := (lines.filter folds).map (·.base),
                       zero := (s.lines.filter taken).map (·.base), leaving := leaving, arriving := arriving, windows := windows,
                       isNew := old.isNone, signal := signal } }
  padPoke id (prunePins { s with paddocks := smapPut s.paddocks id p })

/-- Applies a record for a sender that acts for some domains: the status where it is refused at once. -/
def applyRecord (r : Nat) (acts : Nat → Bool) (signal : Option PadSignal) (s : State) : State × Option Nat :=
  match recRefusal s acts r with
  | some st => (s, some st)
  | none => (installRecord r signal s, none)

/-- PADDOCK (R207): the record is read, and refused or installed; the status comes with the completion. -/
def execPaddock (g a r cc f : Nat) (s : State) : Out :=
  let i := Instr.paddock g a r cc f
  let m := active s g
  checked i m (legalForm i) [] (fun s =>
    if m = 0 then advance (wordsOf i) s
    else if !(curLaunch s).priv then takeTrap (trapRec s 0x04 m [(0, 1, 0x6D)]) s
    else if flagFull s f then waitFor .issue s
    else
      let q := askRange i m r 8 (getS (cur s) a).toNat 8 .read rcdRead
      withRange { q with formats := some [0, 4] } f (fun u b s =>
        let x := leNat b
        let dom := (curLaunch s).dom
        match applyRecord x (fun d => d == dom) none s with
        | (s, some st) => finishLong i f { noPending with sw := [(cc, BitVec.ofNat 32 st)], units := u } s
        | (s, none) => finishLong i f { noPending with sw := [(cc, 0)], pad := some (recId x), units := u } s) s) s

/-- Removes a line. -/
def dropLine (pad base : Nat) (s : State) : State := { s with lines := s.lines.filter fun l => !(l.pad == pad && l.base == base) }

/-- One line leaves a departing share (R173): partials are folded in, dirty data goes home; an update line's sharer record and a lease
line's timestamps stay at the home while the paddock has shares, which paddock 0 always has. -/
def moveLine (pad base : Nat) (s : State) : State :=
  let s := lineClean pad base (foldLine pad base (settleLine pad base s))
  let stays := (pad == 0 || padShares s pad != []) && (padMode s pad == 1 ||
    (padMode s pad == 0 && match findLine s pad base with
      | some l => l.copies != []
      | none => false))
  if stays then s else dropLine pad base s

/-- A change of a paddock's resize. -/
def updResize (id : Nat) (f : Resize → Resize) (s : State) : State := updPad id (fun p => { p with resize := p.resize.map f }) s

/-- What a move does for the paddock that resizes: its line leaves, or departing partials of it are folded in (R173, R226); the line of
paddock 0 with that base leaves the ways that are taken (R174). -/
def moveFor (pad base : Nat) (z : Resize) (s : State) : State :=
  let s := if z.departing.contains base then moveLine pad base s else if z.folding.contains base then foldLine pad base s else s
  if z.zero.contains base then moveLine 0 base s else s

/-- PADDOCK_LINE_MOVE (R173). -/
def execPaddockLineMove (pad base : Nat) (s : State) : Out :=
  .next (match (smapFind s.paddocks pad).bind (·.resize) with
    | some z =>
      if (z.departing ++ z.folding ++ z.zero).contains base then
        padPoke pad (updResize pad (fun z =>
          { z with departing := setErase z.departing base, folding := setErase z.folding base, zero := setErase z.zero base })
          (moveFor pad base z s))
      else s
    | none => s)

/-- Banks of a core's scratchpad pool: a departing share's comes back once it is released (R173). -/
def poolBanks (s : State) (core : Nat) : List Nat :=
  (upFrom (24 * core) 24).filter fun b =>
    !s.failed.contains b && !s.paddocks.any fun e =>
      (shareList e.2.rcd.toNat).contains b || e.2.resize.any fun z => shareHolds s e.1 z b

/-- Bytes of a core's pool, and those that windows take. -/
def poolSize (s : State) (core : Nat) : Nat := 65536 * (poolBanks s core).length
def poolUsed (s : State) (core : Nat) : Nat := ((s.wgs.filter fun w => w.core == core && onCore w).map (·.wn)).sum

/-- Banks of a core, a given one apart, in which windows of resident workgroups can lie: the pool, and banks that have not arrived. -/
def windowRoom (s : State) (core bank : Nat) : List Nat :=
  (upFrom (24 * core) 24).filter fun b => b != bank && ((poolBanks s core).contains b ||
    s.paddocks.any fun e => e.2.resize.any fun z => z.arriving.contains b)

/-- Whether a resident window lies in a bank that arrives (R174, R176): free, but where the core's windows need every other bank too. -/
def windowLies (s : State) (w : Nat × Nat × Nat) (bank : Nat) : Bool :=
  bankCore bank == some w.1 && onCore (wgOf s w.2.1 w.2.2) &&
    (decide (65536 * (windowRoom s w.1 bank).length < poolUsed s w.1) || Config.windowBank w.2.1 w.2.2 (bank % 24))

/-- Whether any resident window lies in a bank that arrives. -/
def windowInBank (s : State) (z : Resize) (bank : Nat) : Bool := z.windows.any fun w => windowLies s w bank

/-- PADDOCK_SHARE_ARRIVAL (R174): a bank arrives once no resident window and no line of paddock 0 lies in it. -/
def execPaddockShareArrival (pad share : Nat) (s : State) : Out :=
  .next (match (smapFind s.paddocks pad).bind (·.resize) with
    | some z =>
      if z.arriving.contains share ∧ !windowInBank s z share ∧ !z.zero.any (takesZero (padRcd s pad) share) then
        due (.paddockResizeComplete pad) (updResize pad (fun z => { z with arriving := setErase z.arriving share }) s)
      else s
    | none => s)

/-- Whether automatic ticks run (R225): a lease paddock with auto tick is defined. A record counts once it is complete, and until the next
version, or the deletion, is. -/
def autoWanted (s : State) : Bool :=
  s.paddocks.any fun e =>
    let r := match e.2.resize with
      | some z => if z.isNew then 0 else z.old.toNat
      | none => e.2.rcd.toNat
    !recPin r && recMode r == 1 && recAuto r

/-- Starts or stops the automatic ticks of every core: the counts start at 0. -/
def autoSwitch (s : State) : State :=
  let on := autoWanted s
  if on = s.autoOn then s
  else if !on then { s with autoOn := false }
  else
    { s with
      autoOn := true
      isles := (List.range 64).foldl (fun m i => let x := smapGet noIsle m i; smapSet noIsle m i { x with autoBase := x.clk }) s.isles
      cores := (s.cores.map fun k => (k.1, { k.2 with autoTicks := 0 })).filter fun k => k.2 != emptyCore }

/-- Tells the flock whose paddock instruction waits for a resize, and the save that waited for it (R51). -/
def padDelivered (pad : Nat) (s : State) : State :=
  s.cores.foldl (fun s k => k.2.flocks.foldl (fun s e =>
    match e.2.pending.find? fun p => p.pad == some pad with
    | none => s
    | some p =>
      let f := flockAt s k.1 e.1
      let f := { f with pending := updFirst (fun q => q.uid == p.uid) (fun q => { q with pad := none }) f.pending }
      let s := due (.longLatencyCompletion k.1 e.1 p.uid) (setFlock k.1 e.1 f s)
      if isStopping (wgOf s f.launch f.wg) then due (.workgroupSave f.launch f.wg) s else s) s) s

/-- The withdrawn shares that a paddock's record still has (R172). -/
def stillWithdrawn (p : Paddock) : List (Nat × Nat) :=
  p.withdrawn.filter fun w => w.1 == recWays p.rcd.toNat && (shareList p.rcd.toNat).contains w.2

/-- PADDOCK_RESIZE_COMPLETE (R175): every line has moved and every share has arrived; status 0x00 is reported. -/
def execPaddockResizeComplete (pad : Nat) (s : State) : Out :=
  .next (match smapFind s.paddocks pad with
    | none => s
    | some p =>
      match p.resize with
      | none => s
      | some z =>
        if z.departing ≠ [] ∨ z.folding ≠ [] ∨ z.zero ≠ [] ∨ z.arriving ≠ [] then s
        else
          let s := if p.deleting then { s with paddocks := smapDel s.paddocks pad }
            else updPad pad (fun p => { p with resize := none, withdrawn := stillWithdrawn p }) s
          let s := autoSwitch s
          match z.signal with
          | some x => packetDone x.queue x.seq (signalDone x.queue x.dom x.va 0 0 0 0 s)
          | none => padDelivered pad s)

/-- A workgroup's window has left its core: what waits for its banks is due again (R174). -/
def windowLeft (core l k : Nat) (s : State) : State :=
  let gone (z : Resize) : Resize := { z with windows := z.windows.filter fun w => w != (core, l, k) }
  let ids := (s.paddocks.filter fun e => e.2.resize.any fun z => z.windows.contains (core, l, k)).map (·.1)
  ids.foldl (fun s id => padPoke id (updResize id gone s)) s

/-! ### Lines (R221) -/

/-- PADDOCK_LINE_EVICTION (R221): not while it is Updating; partials keep a combine line's place. -/
def execPaddockLineEviction (pad base : Nat) (s : State) : Out :=
  .next (match findLine s pad base with
    | none => s
    | some l =>
      if l.st = .updating then s
      else if l.partials ≠ [] then lineClean pad base s
      else dropLine pad base (lineClean pad base s))

/-- UPDATE_SHARER_ACK (R221): the last acknowledgement. -/
def execUpdateSharerAck (pad base : Nat) (s : State) : Out := .next (settleLine pad base s)

/-! ### Ticks (R225) and full-empty requests (R165) -/

/-- Automatic ticks a core owes. -/
def owedTicks (s : State) (c : Nat) : Nat :=
  let x := smapGet noIsle s.isles (islandOf c)
  (x.clk - x.autoBase) / 1024 - (coreAt s c).autoTicks

/-- AUTO_TICK (R225): the count has reached 1,024 once more. -/
def execAutoTick (core : Nat) (s : State) : Out :=
  .next (if s.autoOn ∧ 0 < owedTicks s core then
      let s := setPts core ((coreAt s core).pts + 1) false s
      let k := coreAt s core
      setCore core { k with autoTicks := k.autoTicks + 1 } s
    else s)

/-- FULL_EMPTY_REISSUE (R165): the oldest request of an instruction that was returned, and that no earlier one of its thread holds, is
issued again. -/
def execFullEmptyReissue (uid : Nat) (s : State) : Out :=
  .next (match s.feRetry.find? fun r => r.uid == uid && !feBefore s r with
    | some r => (feTake r { s with feRetry := s.feRetry.erase r }).getD s
    | none => s)

end Sys2Proof.Machine
end

