-- ==== Sys2Proof/Machine/Held.lean ====
section
/-! DEFINITION. Issued instructions that wait for earlier accesses: performing them, and the completion of long-latency instructions (R48, R49,
R187, R215). -/

namespace Sys2Proof.Machine

/-- What an instruction that can be held does. -/
def execHeld (i : Instr) (s : State) : Out :=
  match i with
  | .ld g d a r f sx z c => execLd g d a r f sx z c s
  | .ldsp g d a r f sx z c => execLdsp g d a r f sx z c s
  | .ldo g d a r ord sc z f u cl disp => execLdo g d a r ord sc z f u cl disp s
  | .st g d a r f sx z c => execSt g d a r f sx z c s
  | .stsp g d a r f sx z c => execStsp g d a r f sx z c s
  | .sto g d a r ord sc z f u cl disp => execSto g d a r ord sc z f u cl disp s
  | .atom g d a r f n o => execAtom g d a r f n o s
  | .atomsp g d a r f n o => execAtomsp g d a r f n o s
  | .atomo g d a r n o cc ord sc z f u cl disp => execAtomo g d a r n o cc ord sc z f u cl disp s
  | .red g d a r f o => execRed g d a r f o s
  | .redo g a r o cc ord sc z f u cl disp => execRedo g a r o cc ord sc z f u cl disp s
  | .stfe g d a r f t c => execStfe g d a r f t c s
  | .ldb g d sx r f => execLdb g d sx r f s
  | .cache g n sx r f o => execCache g n sx r f o s
  | .paddock g a r cc f => execPaddock g a r cc f s
  | .mma g t a b ru src cc fm f => execMma g t a b ru src cc fm f s
  | .mmaSp g t a b ru p src cc fm f => execMmaSp g t a b ru p src cc fm f s
  | .accRd g d t f c => execAccRd g d t f c s
  | _ => .next s

/-- Performs a held instruction whole, as its flock and codebooks were at its issue (R55, R185, R188): every check comes before any effect.
Where it traps or meets a page that is not resident, that acts on its workgroup, and it stays held. -/
def performHeld (h : Held) (s : State) : State :=
  let f := flockAt s h.core h.slot
  let w := wgOf s f.launch f.wg
  let book (b : SMap (BitVec 16)) : State → State := updWg f.launch f.wg fun w => { w with cb := b }
  let t := book h.book (setFlock h.core h.slot h.flock { s with core := h.core, slot := h.slot, second := h.second, performing := true })
  match execHeld h.ins t with
  | .next t =>
    let done := flockAt t h.core h.slot
    let t := book w.cb { t with core := s.core, slot := s.slot, second := s.second, performing := s.performing }
    match done.pending with
    | [] => setFlock h.core h.slot f t
    | p :: _ =>
      let brings (q : Pending) : Pending := { p with uid := q.uid, flag := q.flag }
      let f := { f with status := f.status ||| done.status, pending := updFirst (fun q => q.uid == h.what.uid) brings f.pending }
      setFlock h.core h.slot f
        { t with held := t.held.filter fun x => x.what.uid != h.what.uid, todo := t.todo.erase (.longLatencyCompletion h.core h.slot p.uid) }
  | _ => s

/-- Whether nothing keeps a held instruction waiting any more, in any of its threads. -/
def heldReady (s : State) (h : Held) : Bool := !keptAt s h.core h.slot h.what

/-- Whether a flock's held instructions can be performed: its workgroup has not met a trap or a page that is not resident. -/
def performs (s : State) (core slot : Nat) : Bool :=
  let w := wgOf s (flockAt s core slot).launch (flockAt s core slot).wg
  w.trap.isNone && w.misses == []

/-- Performs a held instruction, where its order lets it. -/
def performReady (core slot uid : Nat) (s : State) : State :=
  match s.held.find? fun h => h.core == core && h.slot == slot && h.what.uid == uid && h.what.op.act != .fence with
  | some h => if performs s core slot && heldReady s h then performHeld h s else s
  | none => s

/-- The held entries of a flock. -/
def heldBy (s : State) (core slot : Nat) : List Held := s.held.filter fun h => h.core == core && h.slot == slot

/-- The fences of a flock, oldest first, stand no longer once nothing is open before them. -/
def settleFences (core slot : Nat) (s : State) : State :=
  ((heldBy s core slot).filter fun h => h.what.op.act == .fence).foldl (fun s h =>
    if heldReady s h then { s with held := s.held.filter fun x => x.what.uid != h.what.uid } else s) s

/-- What waited for a flock's accesses goes on: its held instructions, the engines of its core, multicasts, and its barriers (R200, R217).
-/
def wake (core slot : Nat) (s : State) : State :=
  let f := flockAt s core slot
  let s := settleFences core slot s
  let s := if performs s core slot then ((heldBy s core slot).filter fun h => h.what.op.act != .fence && heldReady s h).foldl
      (fun s h => due (.longLatencyCompletion core slot h.what.uid) s) s else s
  let s := wakeUnit core s
  let s := ((coreAt s core).handles.filter fun e => e.2.after != [] && afterDone s e.2.after).foldl
    (fun s e => due (.copyLastByteLanded core e.1) s) s
  let s := (s.mcasts.filter fun m => m.core == core && m.after != [] && afterDone s m.after).foldl
    (fun s m => m.cores.foldl (fun s c => due (.mcastDelivery m.uid c) s) s) s
  barriersCheck f.launch f.wg s

/-- A long-latency instruction's completion is tried: if it is held, it is performed where it can be; what a full-empty or a held
instruction kept waiting goes on. -/
def tryHeld (core slot uid : Nat) (s : State) : State :=
  let t := performReady core slot uid s
  let fe := (flockAt s core slot).pending.any fun p => p.uid == uid && p.fe.isSome
  if fe || decide (t.held ≠ s.held) then wake core slot t else t

/-- LONG_LATENCY_COMPLETION (R48, R49): not before what it awaits; a line in update mode is acknowledged first (R221). -/
def execLongLatencyCompletion (core slot uid : Nat) (s : State) : Out :=
  let s := tryHeld core slot uid s
  let f := flockAt s core slot
  .next (match f.pending.find? fun p => p.uid == uid with
    | none => s
    | some p =>
      let busy := p.lines.filter fun l => match findLine s l.1 l.2 with
        | some x => x.st == .updating
        | none => false
      if busy ≠ [] then due (.longLatencyCompletion core slot uid) (busy.foldl (fun s l => due (.updateSharerAck l.1 l.2) s) s)
      else if stillWaits s core p then s
      else retireCheck core slot (tileAwaits core slot p.tile (setFlock core slot (deliver p f) s)))

/-- Performs what a workgroup's held instructions can still do, oldest first, before it is saved (R51). -/
def performAll (w : Wg) (s : State) : State :=
  w.slots.foldl (fun s f => (heldBy s w.core f).foldl (fun s h => settleFences w.core f (performReady w.core f h.what.uid s)) s) s

end Sys2Proof.Machine
end

