-- ==== Sys2Proof/Machine/Spatial.lean ====
section
/-! DEFINITION. Spatial mode: fab.enter, fab.leave, stream commands and the fabric's events (R286 to R311). -/

namespace Sys2Proof.Machine

/-- mode-switch-refused (R288). -/
def refuseRec (s : State) (m : Mask) (reason : Nat) : TrapRec := trapRec s 0x20 m [(0, 1, reason)]

/-! ### fab.enter and fab.leave (R287, R289) -/

/-- Reads n elements of 8 bytes of an image record, as relaxed loads (R287). -/
def readImage (i : Instr) (m : Mask) (r n : Nat) (body : List Byte → State → State) (s : State) : State :=
  withRangeNow { askRange i m r n 0 8 .read rcdRead with permFirst := true } body s

/-- A fabric whose workgroup began to stop in the clock of its commit drains from then on: a save from the commit point on is spatial (R364,
R368). -/
def drainIfStopping (s : State) : State :=
  match (curWg s).phase with
  | .stopping _ => dueSave (cur s).launch (cur s).wg s
  | _ => s

/-- Elements of an image record that an image of a length takes, as far as the record goes: a length beyond the record's extent is no matter
of its bounds, since R295 refuses the image (log entry 38). -/
def imageElems (k len : Nat) : Nat := min ((len + 7) / 8) (rcdInner k * rcdOuter k)

/-- FAB_ENTER (R287): the image is read and checked before anything changes; then the core is in spatial mode. -/
def execFabEnter (g r : Nat) (s : State) : Out :=
  let i := Instr.fabEnter g r
  let m := active s g
  checked i m (legalForm i) [] (fun s =>
    let k := (getB (cur s) r).toNat
    if m = 0 then advance (wordsOf i) s
    else if (coreAt s s.core).fabric.isSome then takeTrap (refuseRec s m 0x03) s
    else if rcdSize k ≠ 3 ∨ rcdBase k % 64 ≠ 0 ∨ !baseAligned k then takeTrap (copyRec s 0x12 m r 0 []) s
    else readImage i m r 8 (fun h s =>
      let len := imgNat h 12 4
      readImage i m r (imageElems k len) (fun b s =>
        match parseImage b (8 * rcdInner k * rcdOuter k) with
        | none => takeTrap (refuseRec s m 0x01) s
        | some im =>
          match chooseDepths s s.core im with
          | none => takeTrap (refuseRec s m 0x02) s
          | some depth =>
            let va := rcdBase k + ((placeOf k 0).getD (0, 0)).1
            let s := dropLatches s.core s
            let c := coreAt s s.core
            advance (wordsOf i) (drainIfStopping (setCore s.core { c with fabric := some (newFabric im va len s.slot depth) } s))) s) s) s

/-- FAB_LEAVE (R289): in SIMT mode nothing; in spatial mode it waits for every accepted command, then leaves in one step. -/
def execFabLeave (g : Nat) (s : State) : Out :=
  let i := Instr.fabLeave g
  let m := active s g
  checked i m (legalForm i) [] (fun s =>
    if m = 0 ∨ (coreAt s s.core).fabric.isNone then advance (wordsOf i) s
    else if streamsBusy s s.core then waitFor .leave s
    else advance (wordsOf i) (leaveFabric s.core s)) s

/-! ### Stream commands (R304, R305) -/

/-- The fields of a command's four words. -/
def cmdWord (c : BitVec 128) (n : Nat) : Nat := bits c.toNat (32 * n + 31) (32 * n)
def cmdKind (c : BitVec 128) : Nat := bits (cmdWord c 0) 31 30
def cmdLane (c : BitVec 128) : Nat := bits (cmdWord c 0) 29 24
def cmdRecord (c : BitVec 128) : Nat := bits (cmdWord c 0) 23 20
def cmdOrder (c : BitVec 128) : Bool := bitAt (cmdWord c 0) 18
def cmdScope (c : BitVec 128) : Nat := bits (cmdWord c 0) 17 15
def cmdErrTrap (c : BitVec 128) : Bool := bitAt (cmdWord c 0) 14
def cmdFlagMask (c : BitVec 128) : Nat := bits (cmdWord c 0) 13 9
def cmdLast (c : BitVec 128) : Bool := bitAt (cmdWord c 0) 8
def cmdTarget (c : BitVec 128) : Nat := bits (cmdWord c 0) 7 2
def cmdC0 (c : BitVec 128) : Nat := bits (cmdWord c 1) 15 0
def cmdC1 (c : BitVec 128) : Nat := bits (cmdWord c 1) 31 16
def cmdC2 (c : BitVec 128) : Nat := bits (cmdWord c 2) 15 0
def cmdRelease (c : BitVec 128) : Nat := bits (cmdWord c 2) 31 16
def cmdS1 (c : BitVec 128) : Int := toSigned 16 (bits (cmdWord c 3) 15 0)
def cmdS2 (c : BitVec 128) : Int := toSigned 16 (bits (cmdWord c 3) 31 16)

/-- Elements of a command. -/
def cmdCount (c : BitVec 128) : Nat := cmdC0 c * cmdC1 c * cmdC2 c

/-- Loop counters of the element with a position. -/
def cmdLoops (c : BitVec 128) (pos : Nat) : Nat × Nat × Nat :=
  (pos % max (cmdC0 c) 1, pos / max (cmdC0 c) 1 % max (cmdC1 c) 1, pos / (max (cmdC0 c) 1 * max (cmdC1 c) 1))

/-- Record element at a position. -/
def cmdIndex (c : BitVec 128) (pos : Nat) : Int :=
  let x := cmdLoops c pos
  x.1 + x.2.1 * cmdS1 c + x.2.2 * cmdS2 c

/-- Whether the mode's reason 0x05 refuses a command (R305). -/
def cmdMisfit (f : Fabric) (c : BitVec 128) : Bool :=
  let kindAt (l : Nat) : Nat := opKind (opAt f l)
  let want := if cmdKind c = 0 then 0x10 else 0x11
  decide (2 ≤ cmdKind c) || kindAt (cmdLane c) != want || bitAt (cmdWord c 0) 19 || bits (cmdWord c 0) 1 0 != 0 ||
  (if cmdOrder c then decide (cmdScope c < 2) || decide (5 < cmdScope c) else cmdScope c != 0) ||
  (if cmdLast c then kindAt (cmdTarget c) != 0x10 && kindAt (cmdTarget c) != 0x11 else cmdTarget c != 0) ||
  (cmdRelease c != 0 && !(cmdKind c == 1 && cmdOrder c))

/-- The extreme elements of a command, and its release element. -/
def cmdCorners (c : BitVec 128) : List Int :=
  let ends (n : Nat) : List Nat := [0, n - 1]
  let body : List Int := if cmdCount c = 0 then []
    else (ends (cmdC0 c)).flatMap fun (i : Nat) => (ends (cmdC1 c)).flatMap fun (j : Nat) => (ends (cmdC2 c)).map fun (k : Nat) =>
      (i : Int) + (j : Int) * cmdS1 c + (k : Int) * cmdS2 c
  if cmdKind c = 1 ∧ cmdOrder c then body ++ [(cmdRelease c : Int)] else body

/-- The end of the furthest element of a record; XOR swizzles keep each element in its row of 128 bytes. -/
def recordReach (r : Nat) : Nat :=
  if rcdInner r = 0 ∨ rcdOuter r = 0 then 0
  else
    let (i, o) := (rcdInner r - 1, rcdOuter r - 1)
    let e := if rcdSwizzle r = 4 then interleave (min i 65535) (min o 65535) else i * rcdInnerStride r + o * rcdOuterStride r
    rcdBase r + e * sizeBytes (rcdSize r) + sizeBytes (rcdSize r)

/-- The checks of a command's record (R305, R314): the whole of a scratchpad record lies in the window. An invalid record is refused for a
command of no elements too, though R158 speaks of accesses (DESIGN CHOICE, log entry 77). -/
def cmdTrap (s : State) (m : Mask) (c : BitVec 128) : Option TrapRec :=
  let n := cmdRecord c
  let r := (getB (cur s) n).toNat
  let win := (curWg s).wn
  if rcdSize r = 3 ∨ rcdSize r = 4 ∨ !baseAligned r then some (copyRec s 0x12 m n 0 [])
  else if rcdInvalid r then some (copyRec s 0x10 m n 0 [])
  else match (cmdCorners c).find? fun i => (placeOf r i).isNone with
    | some i => some (copyRec s 0x10 m n i [])
    | none =>
      if rcdScratch r ∧ win < recordReach r then some (copyRec s 0x11 m n ((rcdInner r * rcdOuter r - 1 : Nat) : Int) [(12, 4, win)])
      else if cmdKind c = 0 ∧ !rcdRead r then some (pageRec s .read m 0 0x14 0xFF 0 0)
      else if cmdKind c = 1 ∧ !rcdWrite r then some (pageRec s .write m 0 0x14 0xFF 0 0)
      else none

/-- A codebook slot as it stands. -/
def sampleBook (w : Wg) (slot : Nat) : List Nat := (List.range 16).map (bookOf w slot)

/-- Issues a stream command (R305): it joins its lane's list of four. -/
def strmIssue (i : Instr) (m : Mask) (flag : Nat) (sreg : Option Nat) (c : BitVec 128) (s : State) : State :=
  match (coreAt s s.core).fabric with
  | none => takeTrap (refuseRec s m 0x04) s
  | some f =>
    if cmdMisfit f c then takeTrap (refuseRec s m 0x05) s
    else match cmdTrap s m c with
      | some r => takeTrap r s
      | none =>
        let l := cmdLane c
        let x := laneAt f l
        if 4 ≤ x.cmds.length then waitFor .issue s
        else
          let y : StrmCmd :=
            { cmd := c, rcd := getB (cur s) (cmdRecord c), book := sampleBook (curWg s) (rcdSlot (getB (cur s) (cmdRecord c)).toNat)
              sreg := sreg, uid := some s.fresh, pc := (curPath s).pc, mask := liveMask (cur s) (curPath s), accepted := true, long := false }
          let s := finishLong i flag { noPending with lane := some l } s
          let k := coreAt s s.core
          setCore s.core { k with fabric := some (setLane l { x with cmds := x.cmds ++ [y] } f) } s

/-- A stream command's instruction: in SIMT mode it is refused (R314). -/
def strmOp (i : Instr) (m : Mask) (flag : Nat) (body : State → State) (s : State) : Out :=
  checked i m (legalForm i) [] (fun s =>
    if m = 0 then advance (wordsOf i) s
    else if (coreAt s s.core).fabric.isNone then takeTrap (refuseRec s m 0x04) s
    else if flagFull s flag then waitFor .issue s
    else body s) s

/-- STRM (R305): the command from four s registers. -/
def execStrm (g d sx f w : Nat) (s : State) : Out :=
  let i := Instr.strm g d sx f w
  let m := active s g
  strmOp i m f (fun s =>
    let c := (getS (cur s) (sx + 3)) ++ (getS (cur s) (sx + 2)) ++ (getS (cur s) (sx + 1)) ++ (getS (cur s) sx)
    strmIssue i m f (if w = 1 then some d else none) (c.setWidth 128) s) s

/-- STRM_L (R305): the command from the code object, as its bytes are stored. -/
def execStrmL (g d w offhi f offlo : Nat) (s : State) : Out :=
  let i := Instr.strmL g d w offhi f offlo
  let m := active s g
  strmOp i m f (fun s =>
    let va := (curObj s).va + offhi * 8192 + offlo
    match pageFor (curAgent s) .read va s with
    | (s, .absent level) => suspend m (unitBase va) .read level s
    | (s, .bad cause level reason unit _) => takeTrap (pageRec s .read m (unitBase va) cause level reason unit) s
    | (s, .ok x) =>
      let s := verifyElement x va 16 s
      if elementBad s x va 16 then takeTrap (poisonRec s 0 m (unitBase va)) s
      else
        let (s, b) := loadBytes (some s.core) x va 16 s
        strmIssue i m f (if w = 1 then some d else none) (BitVec.ofNat 128 (leNat b)) s) s

/-! ### Sources and sinks (R306, R307) -/

def setFabric (c : Nat) (f : Fabric) (s : State) : State := setCore c { coreAt s c with fabric := some f } s

/-- A change of a core's fabric, where there is one. -/
def mapFabric (c : Nat) (g : Fabric → Fabric) (s : State) : State :=
  match (coreAt s c).fabric with
  | some f => setFabric c (g f) s
  | none => s

def mapLane (c l : Nat) (g : Lane → Lane) (s : State) : State := mapFabric c (fun f => setLane l (g (laneAt f l)) f) s

/-- The control flock of a core in spatial mode, and its agent. -/
def controlFlock (s : State) (c : Nat) (f : Fabric) : Flock := flockAt s c f.control
def controlAgent (s : State) (c : Nat) (f : Fabric) : Agent :=
  let l := launchOf s (controlFlock s c f).launch
  { dom := l.dom, priv := l.priv, core := c }

/-- Whether a lane can start its next command (R303, R306, R364). -/
def mayStart (f : Fabric) (l : Nat) : Bool :=
  let x := laneAt f l
  let k := opKind (opAt f l)
  (k == 0x10 || k == 0x11) && x.cmds != [] && !x.running && f.draining.isNone &&
  (opVariant (opAt f l) != 1 || decide (0 < x.tokens))

/-- Whether the start of a source has to wait: with the order bit it acts as an acquire fence of the control flock, which comes after the
accesses that were issued before its command (R306, R311). -/
def sourceWaits (s : State) (core : Nat) (f : Fabric) (lane : Nat) : Bool :=
  match (laneAt f lane).cmds.head? with
  | some c => opKind (opAt f lane) == 0x10 && cmdOrder c.cmd && (openOps s core f.control).any fun e =>
      c.uid.all (fun u => decide (e.uid < u)) && e.mask != 0 &&
      keeps e.op { act := .fence, acq := true, rel := false, scratch := false }
  | none => false

/-- SOURCE_START (R303, R306, R307): a source or a sink begins its next command, using up a token where it starts on one. -/
def execSourceStart (core lane : Nat) (s : State) : Out :=
  .next (mapFabric core (fun f =>
    if mayStart f lane && !sourceWaits s core f lane then
      let x := laneAt f lane
      let tokens := if opVariant (opAt f lane) = 1 then x.tokens - 1 else x.tokens
      setLane lane { x with running := true, tokens := tokens, pos := 0, moved := 0, markerSent := false, ended := false, field := 0,
                            short := false } f
    else f) s)

/-- A page that a lane cannot pass: it stops there and its workgroup is saved (R306, R363, R364). -/
def laneStops (c l : Nat) (x : Stuck) (s : State) : State :=
  match (coreAt s c).fabric with
  | none => s
  | some f =>
    let k := controlFlock s c f
    stopWg (if x.cause = 0 then 2 else 3) k.launch k.wg (mapLane c l (fun y => { y with stuck := some x }) s)

/-- What an element access of a lane finds. -/
inductive Found where
  | window (off : Nat)
  | page (x va nib : Nat)
  | stops (x : Stuck)

/-- Finds the element of a lane's command (R158, R306, R307): a sink to a decoded page is misaligned, to a combine paddock a violation. -/
def findElement (ag : Agent) (k : AccKind) (r : Nat) (idx : Int) (s : State) : State × Found :=
  let p := (placeOf r idx).getD (0, 0)
  let va := rcdBase r + p.1
  if rcdScratch r then (s, .window va)
  else match pageFor ag k va s with
    | (s, .absent level) => (s, .stops { cause := 0, va := unitBase va, level := level, reason := 0, unit := 0 })
    | (s, .bad cause level reason unit _) => (s, .stops { cause := cause, va := unitBase va, level := level, reason := reason, unit := unit })
    | (s, .ok x) =>
      let halt (cause : Nat) : Found := .stops { cause := cause, va := unitBase va, level := 0xFF, reason := 0, unit := leafPad x }
      if isDecoded (leafFormat x) ∧ (writes k ∨ (isMx (leafFormat x) ∧ 0xF000 ≤ va % 65536)) then (s, halt 0x12)
      else if writes k ∧ leafHome x = 2 ∧ padMode s (leafPad x) = 2 then (s, halt 0x19)
      else if writes k then (s, .page x va p.2)
      else
        let n := if isDecoded (leafFormat x) then 1 else sizeBytes (rcdSize r)
        let s := verifyElement x va n s
        let s := if isMx (leafFormat x) then verifyElement x (scaleVa x va p.2) 1 s else s
        let bad := elementBad s x va n || (isMx (leafFormat x) && elementBad s x (scaleVa x va p.2) 1)
        (s, if bad then halt 0x1A else .page x va p.2)

/-- Reads an element for a source (R88, R89, R306): value and flags; book is the codebook that its command sampled. -/
def sourceRead (core : Nat) (book : List Nat) (r x va nib : Nat) (s : State) : State × Nat × Nat :=
  if isDecoded (leafFormat x) then
    let (s, b) := loadBytes (some core) x va 1 s
    let (s, k) := if isMx (leafFormat x) then loadBytes (some core) x (scaleVa x va nib) 1 s else (s, [])
    (s, decodeBf16 (leafFormat x) (leNat b) nib (leNat k) fun n => book.getD n 0)
  else
    let (s, b) := loadBytes (some core) x va (sizeBytes (rcdSize r)) s
    (s, leNat b, 0)

/-- SOURCE_APPEND (R306): the next element, or after the last the end marker, whose appending is the last beat. -/
def execSourceAppend (core lane : Nat) (s : State) : Out :=
  .next (match (coreAt s core).fabric with
    | none => s
    | some f =>
      let x := laneAt f lane
      let op := opAt f lane
      match x.cmds.head? with
      | none => s
      | some c =>
        if opKind op ≠ 0x10 ∨ !x.running ∨ x.markerSent ∨ f.draining.isSome ∨ x.stuck.isSome ∨ !(route op).all (hasRoom f) then s
        else if x.pos = cmdCount c.cmd then
          due (.streamCommandCompletion core lane)
            (setFabric core (appendAll (route op) (markerEntry 0) (setLane lane { x with markerSent := true } f)) s)
        else
          let k := controlFlock s core f
          let w := wgOf s k.launch k.wg
          let r := c.rcd.toNat
          match findElement (controlAgent s core f) .read r (cmdIndex c.cmd x.pos) s with
          | (s, .stops z) => laneStops core lane z s
          | (s, found) =>
            let (s, v, fl) := match found with
              | .page y va nib => sourceRead core c.book r y va nib s
              | .window off => (s, leNat (winBytes w off (sizeBytes (rcdSize r))), 0)
              | .stops _ => (s, 0, 0)
            mapFabric core (fun f =>
              appendAll (route op) (dataEntry v)
                (setLane lane { x with pos := x.pos + 1, moved := x.moved + 1, flags := flOr x.flags fl } f)) s)

/-- Writes an element for a sink. -/
def sinkWrite (core l k : Nat) (found : Found) (n v : Nat) (s : State) : State :=
  match found with
  | .page x va _ =>
    let s := storeBytes (some core) x va (leBytes n v) s
    let s := settleLine (leafPad x) (lineBase s (leafPad x) (leafLoc x va)) s
    clearCovered [(leafLoc x va, n)] (leaseStamps (some core) (match leaseLine s x va with
      | some y => [y]
      | none => []) s)
  | .window off => updWg l k (winPuts off (leBytes n v)) s
  | .stops _ => s

/-- The scope checker at a sink's release (R228, R307): a pending acquire that its scope does not include stops the lane, as a failing page
does (DEDUCED, log entry 37). -/
def sinkClash (core l scope : Nat) (found : Found) (s : State) : Option Stuck :=
  match found with
  | .page x va _ =>
    if reachesSlice s core x va scope true then
      (syncConflict s (issuerOn (launchOf s l) core) scope false true (leafLoc x va / 128)).map fun e =>
        { cause := 0x17, va := 0, level := e.1, reason := e.2.cluster, unit := e.2.core }
    else none
  | _ => none

/-- The sync record of a sink's release (R228, R311). -/
def sinkRelease (core l scope : Nat) (found : Found) (s : State) : State :=
  match found with
  | .page x va _ =>
    if reachesSlice s core x va scope true then
      recordSync (issuerOn (launchOf s l) core) scope false true s (leafLoc x va / 128)
    else s
  | _ => s

/-- A sink takes the head of its input, whose element has been found (R307). -/
def sinkEntry (core lane : Nat) (f : Fabric) (x : Lane) (c : StrmCmd) (e : QEntry) (found : Option Found) (s : State) : State :=
  let k := controlFlock s core f
  let n := sizeBytes (rcdSize c.rcd.toNat)
  let count := cmdCount c.cmd
  let took (y : Lane) : State → State := mapFabric core (fun f => setLane lane y (dropHead (opA (opAt f lane)) f))
  match e.tag, found with
  | .data, some w => took { x with pos := x.pos + 1, moved := x.moved + 1 } (sinkWrite core k.launch k.wg w n e.word.toNat s)
  | .data, none =>
    let cmds := { c with long := true } :: x.cmds.tail
    took { x with cmds := cmds, flags := flOr x.flags flToken } s
  | .error, _ => took { x with pos := min (x.pos + 1) count, flags := flOr x.flags flToken } s
  | .marker, _ =>
    let s := match found with
      | some w => sinkRelease core k.launch (cmdScope c.cmd) w (sinkWrite core k.launch k.wg w n x.moved s)
      | none => s
    due (.streamCommandCompletion core lane)
      (took { x with ended := true, field := e.flags, short := decide (x.pos < count) } s)

/-- SINK_TAKE (R307). -/
def execSinkTake (core lane : Nat) (s : State) : Out :=
  .next (match (coreAt s core).fabric with
    | none => s
    | some f =>
      let x := laneAt f lane
      match x.cmds.head?, inputHead f (opAt f lane) (opA (opAt f lane)) with
      | some c, some e =>
        if opKind (opAt f lane) ≠ 0x11 ∨ !x.running ∨ x.ended ∨ x.stuck.isSome then s
        else
          let place : Option Int :=
            match e.tag with
            | .data => if x.pos < cmdCount c.cmd then some (cmdIndex c.cmd x.pos) else none
            | .marker => if cmdOrder c.cmd then some (cmdRelease c.cmd) else none
            | .error => none
          match place with
          | none => sinkEntry core lane f x c e none s
          | some idx =>
            match findElement (controlAgent s core f) .write c.rcd.toNat idx s with
            | (s, .stops z) => laneStops core lane z s
            | (s, w) =>
              match if e.tag = .marker then sinkClash core (controlFlock s core f).launch (cmdScope c.cmd) w s else none with
              | some z => laneStops core lane z s
              | none => sinkEntry core lane f x c e (some w) s
      | _, _ => s)

/-- OPERATOR_FIRING (R297). -/
def execOperatorFiring (core lane : Nat) (s : State) : Out :=
  .next (mapFabric core (fun f => (fire lane f).getD f) s)

/-! ### Completion (R303, R308, R309) -/

/-- The status of a completed command (R308). -/
def streamStatus (sink : Bool) (x : Lane) (c : StrmCmd) : Nat :=
  min x.moved 0xFFFF * 65536 + (if c.long then 128 else 0) + (if x.short then 64 else 0) + (if sink then flOr x.field x.flags % 64 else 0)

/-- The trap of a completed sink command (R309). -/
def streamTrap (c : StrmCmd) (flags : Nat) : Option Nat :=
  if cmdErrTrap c.cmd ∧ bitAt flags 5 then some 0x21
  else if flags &&& cmdFlagMask c.cmd ≠ 0 then some 0x22
  else none

/-- The path that a control flock's record names: slot 0's, or slot 1's where that is empty (R360). -/
def nextPath (f : Flock) : Path × Nat :=
  match f.path0, f.path1 with
  | some p, _ => (p, 0)
  | none, some p => (p, 1)
  | _, _ => (emptyPath, 0)

/-- An imprecise record that a stream command causes (R358, R360). -/
def streamRec (s : State) (core lane : Nat) (c : Option StrmCmd) (f : Fabric) (cause va : Nat) (fs : List (Nat × Nat × Nat)) : TrapRec :=
  let k := controlFlock s core f
  let p := nextPath k
  let at_ : Nat × Mask := match c with
    | some c => if c.accepted then (c.pc, c.mask) else (p.1.pc, liveMask k p.1)
    | none => (p.1.pc, liveMask k p.1)
  { cause := cause, flock := k.index, pcSlot := p.2, mask := at_.2, pc := at_.1, va := va, hcause := 0, handle := 0, detail := detailOf fs,
    lane := lane }

/-- Completes the instruction of a stream command: its status register, then its flag (R49, R308). -/
def strmDelivered (core slot uid : Nat) (sreg : Option (Nat × Word)) (s : State) : State :=
  let k := flockAt s core slot
  match k.pending.find? fun p => p.uid == uid with
  | none => s
  | some p => setFlock core slot (deliver { p with sw := sreg.toList } k) s

/-- Completes the running command of a lane that has ended (R303, R306 to R309): status and flags, then the token, then what the flags trap.
-/
def streamCompletes (core lane : Nat) (s : State) : State :=
  match (coreAt s core).fabric with
  | none => s
  | some f =>
    let x := laneAt f lane
    let sink := opKind (opAt f lane) == 0x11
    match x.cmds with
    | [] => s
    | c :: rest =>
      if !x.running ∨ !(if sink then x.ended else x.markerSent) then s
      else
        let flags := flOr x.field x.flags % 64
        let st := streamStatus sink x c
        let y := { x with cmds := rest, running := false, pos := 0, moved := 0, markerSent := false, ended := false, field := 0,
                          short := false, flags := if sink then 0 else x.flags }
        let s := setFabric core (setLane lane y f) s
        let s := if sink then
            let k := flockAt s core f.control
            setFlock core f.control { k with status := statusSet k.status flags } s
          else s
        let s := match c.uid with
          | some u => strmDelivered core f.control u (c.sreg.map fun r => (r, BitVec.ofNat 32 st)) s
          | none => s
        let s := if cmdLast c.cmd then
            due (.controlTokenArrival core (cmdTarget c.cmd)) (mapFabric core (fun f => { f with flying := f.flying ++ [cmdTarget c.cmd] }) s)
          else s
        let k := controlFlock s core f
        let s := match if sink then streamTrap c flags else none with
          | some cause => trapAt k.launch k.wg (streamRec s core lane (some c) f cause 0 [(4, 4, st)]) s
          | none => s
        retireCheck core f.control s

/-- STREAM_COMMAND_COMPLETION (R303, R306 to R309). -/
def execStreamCommandCompletion (core lane : Nat) (s : State) : Out := .next (streamCompletes core lane s)

/-- CONTROL_TOKEN_ARRIVAL (R303): up to 15 are counted. -/
def execControlTokenArrival (core lane : Nat) (s : State) : Out :=
  .next (mapFabric core (fun f =>
    if f.flying.contains lane then
      let x := laneAt f lane
      setLane lane { x with tokens := min 15 (x.tokens + 1) } { f with flying := f.flying.erase lane }
    else f) s)

end Sys2Proof.Machine
end

