-- ==== Sys2Proof/Machine/Frame.lean ====
section
/-! DEFINITION. Context frames: what a save writes and a restore reads (R259 to R263, R313). -/

namespace Sys2Proof.Machine

/-- Bytes followed by zeros up to a length. -/
def padTo (n : Nat) (l : List Byte) : List Byte := l ++ List.replicate (n - l.length) 0

/-! ### Flock records (R261) -/

def slotWord (p : Option Path) : Nat :=
  match p with
  | some p => savedPc p + 2 ^ 63
  | none => 0

def slotMask (p : Option Path) : Nat := ((p.map fun (p : Path) => p.mask).getD 0).toNat

/-- p0 to p6 of a thread. -/
def predByte (f : Flock) (t : Nat) : Byte :=
  BitVec.ofNat 8 (((List.range 7).map fun n => if inMask (getP f n) t then 2 ^ n else 0).sum)

/-- The deferred requests of a flock, with the flag each counts on (R166). -/
def deferredOf (f : Flock) : List (Option Nat × FeInstr) :=
  f.pending.filterMap fun p => match p.fe with
    | some i => if i.mask = 0 then none else some (p.flag, i)
    | none => none

def deferredBytes (d : Option Nat × FeInstr) : List Byte :=
  padTo 32 (leBytes 4 d.2.word.toNat ++ leBytes 4 d.2.mask.toNat ++ leBytes 1 (d.1.getD 15)) ++
  (d.2.idxs.flatMap fun x => leBytes 4 (x % 2 ^ 32).toNat) ++ d.2.datas.flatMap fun x => leBytes 4 x.toNat

/-- A flock record with its deferred requests. -/
def flockBytes (clk : Nat) (f : Flock) (ds : List (Option Nat × FeInstr)) : List Byte :=
  padTo 0x40 (leBytes 8 (slotWord f.path0) ++ leBytes 4 (slotMask f.path0) ++ leBytes 4 (slotMask f.path1) ++
    leBytes 8 (slotWord f.path1) ++ leBytes 4 f.exited.toNat ++ leBytes 4 f.status.toNat ++ leBytes 1 f.stack.length ++
    leBytes 1 ds.length ++ leBytes 2 (min (clk - f.swapBase) 0xFFFF)) ++
  padTo 0xC0 (lanes.map (predByte f)) ++
  ((List.range 64).flatMap fun n => leBytes 4 (getS f n).toNat) ++
  ((List.range 16).flatMap fun n => leBytes 32 (getB f n).toNat) ++
  padTo 0x400 (stackBytes f.stack) ++ padTo 0x800 (ds.flatMap deferredBytes)

/-- The v registers of a flock (R260). -/
def vectorBytes (f : Flock) : List Byte := (List.range (32 * f.budget)).flatMap fun k => leBytes 4 (smapGet 0 f.v k).toNat

/-- A path from a saved PC: its set-flag fields come from the device (log entry 14). -/
def pathFrom (word mask : Nat) (flags : Nat × Nat) : Path :=
  { pc := bits word 56 0, left := bits word 61 58, hint := bitAt word 62, mask := BitVec.ofNat 32 mask,
    setA := if bits word 61 58 = 0 then 15 else flags.1, setB := if bits word 61 58 = 0 then 15 else flags.2, wait := .none }

def slotFrom (word mask : Nat) (flags : Nat × Nat) : Option Path := if bitAt word 63 then some (pathFrom word mask flags) else none

/-- A field of bytes. -/
def fieldOf (b : List Byte) (off n : Nat) : Nat := leNat ((b.drop off).take n)

/-- The set-flag fields of a flock's paths: slot 0, slot 1, then its stack, top first. -/
def pathFlags (f : Flock) : List (Nat × Nat) :=
  let one (p : Option Path) : Nat × Nat := (p.map fun (p : Path) => (p.setA, p.setB)).getD (15, 15)
  one f.path0 :: one f.path1 :: f.stack.map fun p => (p.setA, p.setB)

/-- The deferred records of a flock record. -/
def deferredFrom (b : List Byte) : List (Option Nat × FeInstr) :=
  (List.range (min (fieldOf b 0x21 1) 4)).map fun k =>
    let o := 0x800 + 288 * k
    (if fieldOf b (o + 8) 1 < 12 then some (fieldOf b (o + 8) 1) else none,
      { word := BitVec.ofNat 32 (fieldOf b o 4), mask := BitVec.ofNat 32 (fieldOf b (o + 4) 4),
        idxs := lanes.map fun t => ((fieldOf b (o + 32 + 4 * t) 4 : Nat) : Int),
        datas := lanes.map fun t => BitVec.ofNat 32 (fieldOf b (o + 160 + 4 * t) 4) })

/-- The registers that words list: key n for word n. -/
def wordsFrom (b : List Byte) (n : Nat) : SMap Word :=
  (List.range n).foldl (fun m k => smapSet 0 m k (BitVec.ofNat 32 (fieldOf b (4 * k) 4))) []

/-- A flock from its record and its v registers, at a place; reserved bits of its status read 0 (R5, R65). -/
def flockFrom (l : Launch) (wg index clk : Nat) (p : Place) (b v : List Byte) (flags : List (Nat × Nat)) : Flock :=
  let fl (k : Nat) : Nat × Nat := flags.getD k (15, 15)
  let depth := min (fieldOf b 0x20 1) 64
  { launch := l.num, wg := wg, index := index, budget := l.b, octet := p.octet, block := p.block
    v := wordsFrom v (32 * l.b)
    s := wordsFrom (b.drop 0x100) 64
    p := (List.range 7).foldl (fun m n => smapSet 0 m n (maskOf fun t => bitAt (fieldOf b (0x40 + t) 1) n)) []
    b := (List.range 16).foldl (fun m n => smapSet 0 m n (BitVec.ofNat 256 (fieldOf b (0x200 + 32 * n) 32))) []
    cf := [], status := BitVec.ofNat 32 (fieldOf b 0x1C 4) &&& 0x813F, exited := BitVec.ofNat 32 (fieldOf b 0x18 4), exitAt := none
    path0 := slotFrom (fieldOf b 0 8) (fieldOf b 8 4) (fl 0)
    path1 := slotFrom (fieldOf b 0x10 8) (fieldOf b 0xC 4) (fl 1)
    stack := ((List.range depth).map fun k =>
      pathFrom (fieldOf b (0x400 + 16 * k) 8) (fieldOf b (0x408 + 16 * k) 4) (fl (2 + (depth - 1 - k)))).reverse
    swapBase := clk - fieldOf b 0x22 2, pending := [], latch := none, yielded := false, ahead := [], arrived := [] }

/-! ### Tile and handle images (R137, R263) -/

def elemBytesOf (x : Elem) : List Byte :=
  leBytes 8 (x.sig % 2 ^ 64).toNat ++ leBytes 8 ((if x.sticky then 1 else 0) + 2 * x.special)

def tileBytes (x : Tile) : List Byte :=
  padTo 0x1000 (padTo 0x40 (leBytes 4 x.ctl.toNat) ++ (List.range 1024).flatMap fun k =>
    leBytes 2 (((segOf x k).e % 2048).toNat + if (segOf x k).norm then 2048 else 0)) ++
  (List.range 1024).flatMap fun k => (segOf x k).els.flatMap elemBytesOf

def elemFrom (norm : Bool) (b : List Byte) : Elem :=
  { sig := if norm then (fieldOf b 0 8 : Nat) else toSigned 64 (fieldOf b 0 8), sticky := bitAt (fieldOf b 8 1) 0,
    special := bits (fieldOf b 8 1) 2 1 }

def segFrom (b : List Byte) (k : Nat) : Seg :=
  let w := fieldOf b (0x40 + 2 * k) 2
  let norm := bitAt w 11
  { norm := norm, e := toSigned 11 (w % 2048), els := (List.range 16).map fun j => elemFrom norm (b.drop (0x1000 + 16 * (16 * k + j))) }

/-- A tile from its image, held by a slot. -/
def tileFrom (b : List Byte) (last slot : Nat) : Tile :=
  let x : Tile := { noTile with ctl := BitVec.ofNat 32 (fieldOf b 0 4) }
  { x with
    ctl := tileCtl false (tileMerged x) (tileNarrow x) (tileRegion x) slot true
    last := some last
    segs := (List.range 1024).foldl (fun m k => smapSet segZero m k (segFrom b k)) [] }

/-- A handle image (log entry 15 gives the places of its fields). -/
def handleBytes (x : Handle) : List Byte :=
  padTo 0x40 (leBytes 1 x.st.code ++ leBytes 1 (if x.fault then 1 else 0) ++ leBytes 1 x.cause ++ leBytes 1 x.fmt ++ leBytes 1 x.geom ++
    leBytes 3 x.cb ++ leBytes 8 x.failVa ++ leBytes 8 ((x.job.map fun (j : CopyJob) => j.done).getD 0)) ++
  padTo 0xFC0 (x.blocks.map (·.2))

/-- A handle from its image and what the engine kept of its transfer. -/
def handleFrom (b : List Byte) (kept : Handle) : Handle :=
  let st : HState := match fieldOf b 0 1 with
    | 0 => .free
    | 1 => .filling
    | 2 => .full
    | _ => .draining
  { kept with
    st := st, fault := bitAt (fieldOf b 1 1) 0, cause := fieldOf b 2 1, fmt := fieldOf b 3 1, geom := fieldOf b 4 1, cb := fieldOf b 5 3,
    failVa := fieldOf b 8 8
    job := kept.job.map fun j => { j with rest := j.rest.drop (fieldOf b 16 8 - j.done), done := max j.done (fieldOf b 16 8) }
    blocks := kept.blocks.zipIdx.map fun x => (x.1.1, BitVec.ofNat 8 (fieldOf b (0x40 + x.2) 1)) }

/-! ### Spatial state (R313) -/

/-- A lane's bytes (R313). Its delay line is saved oldest first, so its read position is 0 (DESIGN CHOICE, log entry 100). -/
def laneBytes (x : Lane) : List Byte :=
  padTo 16 (leBytes 4 x.state.toNat ++ leBytes 1 x.flags ++ leBytes 1 (if x.turnB then 1 else 0) ++ leBytes 1 x.tokens)

def cursorBytes (x : Lane) : List Byte :=
  let c := cmdLoops ((x.cmds.map fun (c : StrmCmd) => c.cmd).headD 0) x.pos
  padTo 80 (padTo 64 (x.cmds.flatMap fun c => leBytes 16 c.cmd.toNat) ++
    (if x.running then leBytes 2 c.1 ++ leBytes 2 c.2.1 ++ leBytes 2 c.2.2 else leBytes 6 0) ++ leBytes 1 x.cmds.length ++
    leBytes 1 ((if x.running then 1 else 0) + if x.markerSent then 2 else 0) ++ leBytes 4 x.moved)

def entryBytes (e : QEntry) : List Byte :=
  leBytes 4 e.word.toNat ++ leBytes 1 (match e.tag with | .data => 0 | .marker => 1 | .error => 2) ++ leBytes 3 e.flags

/-- The pieces of the spatial state: offset in the frame and bytes. -/
def spatialPieces (f : Fabric) (control : Nat) : List (Nat × List Byte) :=
  let ls := (List.range 64).map (laneAt f)
  [(0x1000, padTo 64 (leBytes 8 f.image ++ leBytes 4 f.length ++ leBytes 1 control ++ leBytes 1 1)),
   (0x1040, ls.flatMap laneBytes), (0x1440, ls.flatMap cursorBytes),
   (0x2840, (List.range 128).flatMap fun q => leBytes 4 (smapGet 0 f.depth q + 65536 * (queueAt f q).length)),
   (0x2A40, List.replicate 0x5C0 0),
   (0x3000, padTo 0x8000 ((List.range 128).flatMap fun q => (queueAt f q).flatMap entryBytes)),
   (0xB000, padTo 0x4000 (ls.flatMap fun x => x.line.flatMap fun w => leBytes 4 w.toNat)), (0xF000, List.replicate 0x1000 0)]

def entryFrom (b : List Byte) : QEntry :=
  { word := BitVec.ofNat 32 (fieldOf b 0 4), flags := fieldOf b 5 1 % 64
    tag := match fieldOf b 4 1 with | 0 => .data | 1 => .marker | _ => .error }

/-- Queues from their table and entries, in ascending number. -/
def queuesFrom (table entries : List Byte) : SMap (List QEntry) :=
  ((List.range 128).foldl (fun (a : SMap (List QEntry) × Nat) q =>
    let n := bits (fieldOf table (4 * q) 4) 27 16
    (smapSet [] a.1 q ((List.range n).map fun k => entryFrom (entries.drop (8 * (a.2 + k)))), a.2 + n)) ([], 0)).1

/-- The commands of a lane, with the records that the device kept (log entry 16). -/
def commandsFrom (b : List Byte) (kept : List StrmCmd) : List StrmCmd :=
  (List.range (min (fieldOf b 70 1) 4)).map fun k =>
    let c := BitVec.ofNat 128 (fieldOf b (16 * k) 16)
    match kept[k]? with
    | some x => { x with cmd := c }
    | none => { cmd := c, rcd := 0, book := [], sreg := none, uid := none, pc := 0, mask := 0, accepted := false, long := false }

/-- The position that loop counters name. -/
def cursorPos (c : BitVec 128) (i j k : Nat) : Nat := i + max (cmdC0 c) 1 * (j + max (cmdC1 c) 1 * k)

/-- A lane from its bytes; the read position that they hold is not used (DESIGN CHOICE, log entry 100). -/
def laneFrom (st cur_ : List Byte) (line : List Word) (kept : List StrmCmd) : Lane :=
  let cmds := commandsFrom cur_ kept
  { emptyLane with
    state := BitVec.ofNat 32 (fieldOf st 0 4), flags := fieldOf st 4 1 % 64, turnB := fieldOf st 5 1 != 0, tokens := min (fieldOf st 6 1) 15
    line := line, cmds := cmds, running := bitAt (fieldOf cur_ 71 1) 0, markerSent := bitAt (fieldOf cur_ 71 1) 1
    pos := if bitAt (fieldOf cur_ 71 1) 0 then
        cursorPos ((cmds.map fun (c : StrmCmd) => c.cmd).headD 0) (fieldOf cur_ 64 2) (fieldOf cur_ 66 2) (fieldOf cur_ 68 2) else 0
    moved := fieldOf cur_ 72 4 }

/-- A fabric from an image and the bytes from offset 0x1000 of a frame. -/
def fabricFrom (i : Image) (va len slot : Nat) (b : List Byte) (kept : SMap (List StrmCmd)) : Fabric :=
  let at_ (off : Nat) : List Byte := b.drop (off - 0x1000)
  let lines := (i.ops.foldl (fun (a : List (List Word) × Nat) op =>
    (a.1 ++ [(List.range (opDelay op)).map fun k => BitVec.ofNat 32 (fieldOf (at_ 0xB000) (4 * (a.2 + k)) 4)], a.2 + opDelay op)) ([], 0)).1
  let depth := (List.range 128).foldl (fun m q => smapSet 0 m q (bits (fieldOf (at_ 0x2840) (4 * q) 4) 11 0)) []
  { newFabric i va len slot depth with
    queues := queuesFrom (at_ 0x2840) (at_ 0x3000)
    lanes := (List.range i.ops.length).foldl (fun m l => smapSet emptyLane m l
      (laneFrom ((at_ 0x1040).drop (16 * l)) ((at_ 0x1440).drop (80 * l)) (lines.getD l []) (smapGet [] kept l))) [] }

/-! ### Header and trap record (R262, R358) -/

def trapBytes (w : Wg) : List Byte :=
  match w.trap with
  | none => List.replicate 64 0
  | some r =>
    leBytes 1 r.cause ++ leBytes 1 r.flock ++ leBytes 2 r.pcSlot ++ leBytes 4 r.mask.toNat ++ leBytes 8 r.pc ++ leBytes 8 r.va ++
    leBytes 1 r.hcause ++ leBytes 7 r.handle ++ (leBytes 32 r.detail.toNat).take 24 ++ leBytes 4 r.lane ++ leBytes 4 w.later

def frameMagic : Nat := 0x5CA70F00

/-- The header: tiles held and owned handles as bit masks. -/
def headerBytes (l : Launch) (w : Wg) (cause tiles handles now : Nat) (spatial : Bool) : List Byte :=
  leBytes 4 frameMagic ++ leBytes 4 w.index ++ leBytes 8 l.num ++ leBytes 1 l.f ++ leBytes 1 l.b ++ leBytes 1 cause ++
  leBytes 1 ((if isNarrow l then 1 else 0) + (if spatial then 2 else 0) + 4 * tiles) ++ leBytes 1 (w.core % 24) ++ leBytes 1 (w.core / 24) ++
  leBytes 2 0 ++ leBytes 4 l.wn ++ leBytes 4 0 ++ leBytes 8 handles ++ leBytes 8 (frameSize l.f l.b l.wn) ++ leBytes 8 now ++ leBytes 8 0

/-- Writes pieces of a frame in order; a piece that cannot be written ends it. -/
def putPieces (l : Launch) (k : Nat) : List (Nat × List Byte) → State → State × Bool
  | [], s => (s, true)
  | p :: r, s =>
    match deviceWrite l.dom true (frameVa l k + p.1) p.2 s with
    | (s, false) => (s, false)
    | (s, true) => putPieces l k r s

/-- Reads n bytes of a frame. -/
def getPiece (l : Launch) (k off n : Nat) (s : State) : State × Option (List Byte) := deviceRead l.dom true n (frameVa l k + off) s

/-- The sectors of a 64 KiB unit whose check values may fail: under the device key, those for which something is recorded. -/
def suspectSectors (s : State) (x loc : Nat) : List Nat :=
  if (leafMaterial s x).isSome then upFrom (loc / 32) 2048
  else (s.checks.map (·.1) ++ s.sectorKeys.map (·.1) ++ s.lines.flatMap fun l => l.checks.map (·.1)).filter fun k =>
    decide (loc / 32 ≤ k) && decide (k < loc / 32 + 2048)

/-- Verifies the check values of a unit of a frame (R372). -/
def verifyUnit (x va : Nat) (s : State) : State :=
  let loc := leafLoc x (unitBase va)
  ((suspectSectors s x loc).filter (homeFails s x (unitBase va))).foldl (poisonSector 3 0xFFFF (leafOwner x)) s

/-- Whether every page of a frame can be read, and holds no poison (R362). -/
def frameReadable (l : Launch) : Nat → Nat → State → State × Bool
  | 0, _, s => (s, true)
  | n + 1, va, s =>
    match devicePage l.dom true .read va s with
    | (s, none) => (s, false)
    | (s, some x) =>
      let loc := leafLoc x (unitBase va)
      let s := verifyUnit x va s
      if s.poison.any (fun sec => decide (loc / 32 ≤ sec) && decide (sec < loc / 32 + 2048)) then (s, false)
      else frameReadable l n (unitBase va + 65536) s

/-- The masks of the tiles and handles that a workgroup has on its core. -/
def tileMask (s : State) (w : Wg) : Nat :=
  ((List.range 4).map fun t => if w.slots.any (holds (tileAt s w.core t)) then 2 ^ t else 0).sum
def ownsHandle (w : Wg) (x : Handle) : Bool := x.owner == some (w.launch, w.index)
def handleMask (s : State) (w : Wg) : Nat := (((coreAt s w.core).handles.filter fun e => ownsHandle w e.2).map fun e => 2 ^ e.1).sum

/-- The pieces of a workgroup's frame in the order in which they are written (R361): the header comes last. -/
def framePieces (s : State) (w : Wg) (cause : Nat) (ds : SMap (List (Option Nat × FeInstr))) : List (Nat × List Byte) :=
  let l := launchOf s w.launch
  let fab := if controls s w then (coreAt s w.core).fabric else none
  let fs := (flocksOf s w).map (·.2) ++ w.gone.map (·.2)
  let clk := clockOf s w.core
  let tiles := tileMask s w
  [(0x40, padTo 0xC0 (trapBytes w)), (0x100, (List.range 128).flatMap fun k => leBytes 2 (smapGet 0 w.cb k).toNat)] ++
  (match fab with
    | some f => spatialPieces f (flockAt s w.core f.control).index
    | none => [(0x1000, List.replicate 64 0)]) ++
  (((coreAt s w.core).handles.filter fun e => ownsHandle w e.2).map fun e => (0x10000 + 0x1000 * e.1, handleBytes e.2)) ++
  (fs.map fun f => (0x50000 + 0x1000 * f.index, flockBytes clk f (smapGet [] ds f.index))) ++
  (fs.map fun f => (frameRegs l.f + 128 * l.b * f.index, vectorBytes f)) ++
  ((List.range 4).filter (bitAt tiles)).map (fun t => (frameTiles l.f l.b + 0x41000 * t, tileBytes (tileAt s w.core t))) ++
  [(frameTiles l.f l.b + 0x104000, winBytes w 0 l.wn), (0, headerBytes l w cause tiles (handleMask s w) s.time fab.isSome)]

end Sys2Proof.Machine
end

