-- ==== Sys2Proof/Machine/Placement.lean ====
section
/-! DEFINITION. Where workgroups can go: flock slots, register blocks, windows, and the order among those that wait for a core (R176, R247
to R250, R387). -/

namespace Sys2Proof.Machine

/-! ### Room on a core (R176, R248) -/

/-- Blocks a flock takes, and their alignment. -/
def blocksOf (budget : Nat) : Nat := budget / 8
def alignOf (n : Nat) : Nat := if n ≤ 1 then 1 else if n = 2 then 2 else if n ≤ 4 then 4 else 8

/-- The places of a core that resident flocks hold. -/
def takenPlaces (s : State) (core : Nat) : List (Place × Nat) :=
  (coreAt s core).flocks.map fun e => ({ slot := e.1, octet := e.2.octet, block := e.2.block }, blocksOf e.2.budget)

/-- Whether a flock of n blocks may take a place beside others. -/
def placeFree (taken : List (Place × Nat)) (n : Nat) (p : Place) : Bool :=
  decide (p.slot < 64) && p.octet == p.slot / 8 && p.block % alignOf n == 0 && decide (p.block + n ≤ 64) &&
  taken.all fun x => x.1.slot != p.slot && (x.1.octet != p.octet || decide (p.block + n ≤ x.1.block) || decide (x.1.block + x.2 ≤ p.block))

/-- Whether flocks of n blocks may take places, one after another. -/
def placesFree (n : Nat) : List Place → List (Place × Nat) → Bool
  | [], _ => true
  | p :: r, taken => placeFree taken n p && placesFree n r ((p, n) :: taken)

/-- The first place that a flock of n blocks can take. -/
def findPlace (taken : List (Place × Nat)) (n : Nat) : Option Place :=
  ((List.range 64).flatMap fun f => (List.range (64 / alignOf n)).map fun b =>
    ({ slot := f, octet := f / 8, block := b * alignOf n } : Place)).find? (placeFree taken n)

/-- Places for several flocks of n blocks. -/
def findPlaces (n : Nat) : Nat → List (Place × Nat) → Option (List Place)
  | 0, _ => some []
  | k + 1, taken =>
    match findPlace taken n with
    | none => none
    | some p => (findPlaces n k ((p, n) :: taken)).map (p :: ·)

/-- Whether a core has room for flocks and a window of a launch. -/
def hasPlace (s : State) (l : Launch) (core flocks : Nat) : Bool :=
  (findPlaces (blocksOf l.b) flocks (takenPlaces s core)).isSome && decide (poolUsed s core + l.wn ≤ poolSize s core)

/-- Whether a core could take one workgroup even if empty (R240, R374). -/
def emptyFits (s : State) (l : Launch) (core : Nat) : Bool :=
  (findPlaces (blocksOf l.b) l.f []).isSome && decide (l.wn ≤ poolSize s core)

/-- The cores of a launch's field, row-major (R247). -/
def fieldCores (l : Launch) : List Nat := (List.range (l.fw * l.fh)).map fun i => 24 * (l.fy + i / l.fw) + l.fx + i % l.fw

/-! ### Who comes first (R249, R250) -/

/-- Whether a launch still runs and is not stopped. -/
def running (l : Launch) : Bool := !l.ended && l.stop.isNone

/-- The order in class 1 of a workgroup that waits for its core. -/
def class1 (s : State) (w : Wg) : Option Nat :=
  match w.phase with
  | .resumed n => if running (launchOf s w.launch) then some n else none
  | _ => none

/-- Whether a workgroup waits in class 2. -/
def class2 (s : State) (w : Wg) : Bool := w.phase == .saved 1 && running (launchOf s w.launch)

/-- Whether one class-2 workgroup comes before another; of two with equal priority and equal index, that of the launch dispatched first
(DESIGN CHOICE, log entry 82). -/
def before2 (s : State) (a b : Wg) : Bool :=
  let p := (launchOf s a.launch).prio
  let q := (launchOf s b.launch).prio
  decide (q < p) || (p == q && (decide (a.index < b.index) || (a.index == b.index && decide (a.launch < b.launch))))

/-- Whether a launch has a workgroup to admit, under the window of R251. -/
def hasNext (l : Launch) : Bool := running l && decide (l.next < l.n) && decide (l.next < l.reported + 256)

/-- Whether a new workgroup of a launch of higher priority waits for the core of a pre-empted one, which it precedes (R249). -/
def heldFor (s : State) (w : Wg) : Bool :=
  s.launches.any fun o => hasNext o && (fieldCores o).contains w.core && decide ((launchOf s w.launch).prio < o.prio)

/-- Whether a saved workgroup is the first to be restored on its core. -/
def restoreTurn (s : State) (w : Wg) : Bool :=
  let here := s.wgs.filter fun x => x.core == w.core
  match class1 s w with
  | some n => here.all fun x => match class1 s x with
    | some m => decide (n ≤ m)
    | none => true
  | none => class2 s w && !heldFor s w && here.all fun x => (class1 s x).isNone && (!class2 s x || !before2 s x w)

/-- A launch's next workgroup begins to wait for a core (R249). -/
def beginWait (l : Nat) (s : State) : State := { updLaunch l (fun x => { x with waits := s.fresh }) s with fresh := s.fresh + 1 }

/-- Whether a new workgroup of a launch is kept back on a core by one that waits for it: among launches of one priority, the workgroup that
began to wait first goes first (R249). -/
def keptBack (s : State) (l : Launch) (core : Nat) : Bool :=
  (s.wgs.any fun w => w.core == core && ((class1 s w).isSome || (class2 s w && decide (l.prio ≤ (launchOf s w.launch).prio)))) ||
  s.launches.any fun o => o.num != l.num && hasNext o && (fieldCores o).contains core &&
    (decide (l.prio < o.prio) || (l.prio == o.prio && decide (o.waits < l.waits)))

/-- Whether a core can admit the next workgroup of a launch. -/
def canAdmit (s : State) (l : Launch) (core : Nat) : Bool :=
  (coreAt s core).fabric.isNone && !keptBack s l core && hasPlace s l core l.f

/-- The field's cores in the order in which the next workgroup tries them (R247). -/
def scanOrder (l : Launch) : List Nat :=
  let cs := fieldCores l
  match l.lastCore with
  | none => cs
  | some c =>
    let n := (cs.takeWhile fun x => x != c).length + 1
    cs.drop n ++ cs.take n

/-- The core that takes the next workgroup of a launch. -/
def nextCore (s : State) (l : Launch) : Option Nat := if hasNext l then (scanOrder l).find? (canAdmit s l) else none

end Sys2Proof.Machine
end

