-- ==== Sys2Proof/Machine/Residence.lean ====
section
/-! DEFINITION. Admission, completion, saving and restoring of workgroups, in SIMT and in spatial mode, and quanta (R61, R247 to R263, R361
to R368). -/

namespace Sys2Proof.Machine

/-! ### Admission (R61, R247, R386) -/

/-- A record with inner stride one and one row. -/
def plainRecord (base size count perms : Nat) : BitVec 256 :=
  BitVec.ofNat 256 (base % 2 ^ 57 + size % 8 * 2 ^ 57 + count % 2 ^ 32 * 2 ^ 64 + 2 ^ 96 + 2 ^ 128 + perms * 2 ^ 187)

/-- The record that a binding item makes: read permission alone over data, all of them over the window. -/
def boundRecord (o : CodeObj) (l : Launch) (x : Bind) : BitVec 256 :=
  match x.form with
  | 0 => l.recs.getD x.arg 0
  | 1 =>
    match o.blocks[x.arg]? with
    | some d => plainRecord (o.va + d.off) d.size d.count 1
    | none => 0
  | _ => plainRecord x.arg x.size x.count 15

/-- The entry that a launch runs. -/
def entryOf (s : State) (l : Launch) : Option Entry := (objOf s l.obj).entries[l.entry]?

/-- A flock as it starts (R61). -/
def startFlock (s : State) (l : Launch) (k core index : Nat) (p : Place) : Flock :=
  let e := entryOf s l
  let binds := (e.map fun (e : Entry) => e.binds).getD []
  { emptyFlock with
    launch := l.num, wg := k, index := index, budget := l.b, octet := p.octet, block := p.block
    s := (List.range 16).foldl (fun m n => smapSet 0 m n (l.args.getD n 0)) []
    b := binds.foldl (fun m x => smapSet 0 m x.breg (boundRecord (objOf s l.obj) l x)) []
    status := if isNarrow l then 0x8000 else 0
    path0 := some (pathAt ((e.map fun (e : Entry) => e.off).getD 0) (BitVec.ofNat 32 (2 ^ 32 - 1)))
    swapBase := clockOf s core }

/-- WORKGROUP_ADMISSION (R28, R247, R248): the launch's next workgroup, on the first core that can admit it. -/
def execWorkgroupAdmission (launch core : Nat) (place : List Place) (s : State) : Out :=
  let l := launchOf s launch
  .next (if l.num ≠ launch ∨ nextCore s l ≠ some core ∨ place.length ≠ l.f ∨
      !placesFree (blocksOf l.b) place (takenPlaces s core) then s
    else
      let k := l.next
      let s := updLaunch launch (fun l =>
        { l with narrow := some (l.narrow.getD s.mgmt.narrow), next := k + 1, lastCore := some core }) s
      let l := launchOf s launch
      let w : Wg := { noWg with launch := launch, index := k, core := core, phase := .resident, slots := place.map (·.slot), wn := l.wn,
                                since := s.time }
      let s := beginWait launch { s with wgs := s.wgs ++ [w] }
      pokeCore core (place.zipIdx.foldl (fun s p => setFlock core p.1.slot (startFlock s l k core p.2 p.1) s) s))

/-! ### Leaving a core (R251, R275, R361) -/

/-- Whether every handle a workgroup owns is free or full (R275). -/
def handlesSettled (s : State) (w : Wg) : Bool :=
  (coreAt s w.core).handles.all fun e => !ownsHandle w e.2 || e.2.st == .free || e.2.st == .full

/-- Frees a tile that a slot holds, whose contents a frame has. -/
def letTileGo (c : Nat) (slots : List Nat) (s : State) (t : Nat) : State :=
  let x := tileAt s c t
  if slots.any (holds x) then setTile c t { x with ctl := tileCtl false (tileMerged x) (tileNarrow x) (tileRegion x) 0 false } s else s

/-- Releases what a workgroup has on its core. -/
def vacate (w : Wg) (s : State) : State :=
  let fab := controls s w
  let s := (List.range 4).foldl (letTileGo w.core w.slots) s
  let s := w.slots.foldl (fun s f => setFlock w.core f emptyFlock s) s
  let k := coreAt s w.core
  let k := { k with handles := k.handles.filter fun e => !ownsHandle w e.2, fabric := if fab then none else k.fabric }
  let s := setCore w.core k s
  pokeCore w.core (if fab then dropLatches w.core s else s)

/-- The lowest index from n on that a list lacks (R251). -/
def reportTo : Nat → List Nat → Nat → Nat
  | 0, _, n => n
  | fuel + 1, done, n => if done.contains n then reportTo fuel done (n + 1) else n

/-- WORKGROUP_COMPLETION (R251, R275): what it holds is released, and completions are reported in index order; the last ends the launch. -/
def execWorkgroupCompletion (launch wg : Nat) (s : State) : Out :=
  let w := wgOf s launch wg
  .next (if w.phase ≠ .resident ∨ w.slots ≠ [] ∨ !handlesSettled s w then s
    else
      let s := updWg launch wg (fun w => { w with phase := .done, gone := [], window := [], cb := [], blocked := 0 }) (vacate w s)
      let s := windowLeft w.core launch wg s
      let l₀ := launchOf s launch
      let s := updLaunch launch (fun l =>
        let done := l.completed ++ [wg]
        { l with completed := done, reported := reportTo done.length done l.reported }) s
      let s := if !hasNext l₀ && hasNext (launchOf s launch) then beginWait launch s else s
      let l := launchOf s launch
      if l.n ≤ l.reported ∧ l.stop.isNone then endLaunch launch 0 false 0 0 s else endIfDrained launch s)

/-! ### Saving (R361) -/

/-- A flock whose threads have all exited retires at its save; a control flock after its stream commands, whose continuations follow the
restore, and with fab.leave (R290, R366). -/
def retireHalted (c f : Nat) (s : State) : State :=
  if (flockAt s c f).exited ≠ BitVec.allOnes 32 then s
  else if !(coreAt s c).fabric.any fun x => x.control == f then retireFlock c f s
  else if streamsBusy s c then s
  else retireFlock c f (leaveFabric c s)

/-- The paddocks whose resizes a workgroup's instructions await. -/
def padsOf (s : State) (w : Wg) : List Nat := (flocksOf s w).flatMap fun f => f.2.pending.filterMap (·.pad)

/-- The workgroups whose windows a resize waits for (R174). -/
def windowHolders (s : State) (id : Nat) : List Wg :=
  match (smapFind s.paddocks id).bind (·.resize) with
  | some z => (z.windows.filter fun w => z.arriving.any (windowLies s w)).map fun w => wgOf s w.2.1 w.2.2
  | none => []

/-- Whether a resize waits for a workgroup's window: for itself, or through stopping workgroups whose own saves await further resizes. -/
def resizeAwaits : Nat → State → Nat → Wg → Bool
  | 0, _, _, _ => false
  | n + 1, s, id, w => (windowHolders s id).any fun y =>
      isWg w.launch w.index y || (isStopping y && (padsOf s y).any fun k => resizeAwaits n s k w)

/-- Whether a workgroup's save waits for the resize that a paddock instruction of it awaits (R51); not where that resize can only end once
the workgroup has been saved (log entry 44). -/
def awaitsResize (s : State) (w : Wg) : Bool :=
  (padsOf s w).any fun id => ((smapFind s.paddocks id).bind (·.resize)).isSome && !resizeAwaits 64 s id w

/-- Stops a flock for its save: deferred requests are cancelled, with what waits for them, other long-latency work reaches its completion
points, the latch and the barrier marks go. A flock with requests to issue again does not retire (R166), nor does one with instructions that
wait for them, which wait over the save (DEDUCED, log entry 114). -/
def haltFlock (c f : Nat) (s : State) : State :=
  let mine (r : FeReq) : Bool := r.core == c && r.slot == f
  let again := deferredOf (flockAt s c f) != [] || heldBy s c f != []
  let s := { s with
    feQueue := s.feQueue.filter fun r => !mine r, feRetry := s.feRetry.filter fun r => !mine r
    held := s.held.filter fun h => !(h.core == c && h.slot == f) }
  let s := wakeUnit c s
  let s := (flockAt s c f).pending.foldl (fun s p => p.lines.foldl (fun s l => settleLine l.1 l.2 s) s) s
  let x := flockAt s c f
  let s := setFlock c f { x.pending.foldl (fun x p => deliver p x) x with latch := none, arrived := [] } s
  let s := (List.range 4).foldl (fun s t =>
    let y := tileAt s c t
    if y.releasing && tileHolder y == f then releaseTile c t s else s) s
  if again then s else retireHalted c f s

/-- The set-flag fields that the device keeps for each flock of a saved workgroup (log entry 14). -/
def keepFlags (s : State) (w : Wg) (n : Nat) : List (List (Nat × Nat)) :=
  (List.range n).map fun i =>
    match (flocksOf s w).find? fun x => x.2.index == i with
    | some x => pathFlags x.2
    | none => []

/-- The commands of a saved fabric: none of them has an instruction any more (R366). -/
def keepCmds (s : State) (w : Wg) : SMap (List StrmCmd) :=
  match if controls s w then (coreAt s w.core).fabric else none with
  | some f => (f.lanes.filter fun e => e.2.cmds != []).map fun e =>
      (e.1, e.2.cmds.map fun c => { c with uid := none, sreg := none, accepted := false })
  | none => []

/-- The identifiers, origins and buffer records of a flock's deferred requests, in the order of the flock record's. -/
def keptIds (f : Flock) : List FeId :=
  (f.pending.filter fun p => p.fe.any fun i => i.mask != 0).map fun p => { uid := p.uid, origin := p.origin, rcd := p.rcd }

/-- Fault entries for a workgroup's pages, one for each page (R257, R365). -/
def reportMisses (dom l k : Nat) : List Miss → List Nat → State → State
  | [], _, s => s
  | m :: r, seen, s =>
    if seen.contains m.va then reportMisses dom l k r seen s
    else
      let tag := s.mgmt.nextTag
      reportMisses dom l k r (m.va :: seen)
        (newFault dom m.va m.kind m.level (.wg l k) (some m.rcd) (updWg l k (fun w => { w with tags := w.tags ++ [tag] }) s))

/-- Ends a launch of which a saved workgroup no longer fits its core (R374; DEDUCED, log entry 79). -/
def misfit (l core : Nat) (s : State) : State :=
  if emptyFits s (launchOf s l) core then s
  else endIfDrained l (stopLaunch l { status := 0x44, trapped := false, cause := 0, index := 0 } s)

/-- What follows a save: by its cause a wait in class 2, fault entries, a hold at a breakpoint, or the end (R252, R256, R257, R379). -/
def afterSave (l k cause : Nat) (s : State) : State :=
  let w := wgOf s l k
  let x := launchOf s l
  let put (p : Phase) : State → State := updWg l k fun w => { w with phase := p }
  if x.stop.isSome then endIfDrained l (put .stopped s)
  else match cause, w.trap with
    | 3, some r =>
      newFault x.dom r.pc 3 0xFF (.held l k) none (updWg l k (fun w => { w with tags := [s.mgmt.nextTag] }) (put .held s))
    | 2, _ => misfit l w.core (updWg l k (fun w => { w with misses := [] }) (reportMisses x.dom l k w.misses [] (put (.saved 2) s)))
    | _, _ => misfit l w.core (put (.saved cause) s)

/-- A workgroup's save could not write its frame: its own trap, which has no record then, no longer gives the status (R259). -/
def saveLost (l k : Nat) (s : State) : State :=
  frameLost l (updLaunch l (fun x => match x.stop with
    | some o => if o.trapped ∧ o.index = k then { x with stop := none } else x
    | none => x) s)

/-- Whether a tile's release waits for a held instruction of the flock that holds it: it is saved held, and its release with it (R138). -/
def freeWaits (c : Nat) (held : List Held) (s : State) (t : Nat) : Bool :=
  let x := tileAt s c t
  x.releasing && held.any fun h => h.slot == tileHolder x && h.what.tile == some t

/-- Saves a workgroup whose flocks stand at instruction boundaries: its frame, header last; then its core is free of it. -/
def saveWg (l k : Nat) (s : State) : State :=
  let w := wgOf s l k
  let cause := match w.phase with
    | .stopping c => c
    | _ => 0
  let ds : SMap (List (Option Nat × FeInstr)) := (flocksOf s w).foldl (fun m f => smapSet [] m f.2.index (deferredOf f.2)) []
  let ids := (flocksOf s w).foldl (fun m f => smapSet [] m f.2.index (keptIds f.2)) []
  let held := w.slots.flatMap (heldBy s w.core)
  let exits := (flocksOf s w).foldl (fun m f => smapSet none m f.2.index f.2.exitAt) []
  let frees := (List.range 4).filter (freeWaits w.core held s)
  let s := frees.foldl (fun s t => setTile w.core t { tileAt s w.core t with releasing := false } s) s
  let s := w.slots.foldl (fun s f => haltFlock w.core f s) s
  let w := wgOf s l k
  let (s, written) := putPieces (launchOf s l) k (framePieces s w cause ds) s
  let s := if written then s else saveLost l k s
  let w := wgOf s l k
  let jobs := (coreAt s w.core).handles.filter fun e => ownsHandle w e.2
  let s := updWg l k (fun w =>
    { w with
      keptFlags := keepFlags s w (launchOf s l).f
      keptJobs := jobs
      keptCmds := keepCmds s w
      keptHeld := held
      keptFe := ids
      keptExits := exits
      keptFrees := frees
      keptSlots := (flocksOf s w).map fun f => (f.2.index, f.1)
      spatial := controls s w
      slots := [], window := [], cb := [], blocked := 0, ranNs := w.ranNs + (s.time - w.since) }) (vacate w s)
  afterSave l k cause (windowLeft w.core l k s)

/-- A save takes place once no paddock instruction of the workgroup is outstanding (R51), after what its held instructions can still do. -/
def saveWhole (l k : Nat) (s : State) : State :=
  let s := performAll (wgOf s l k) s
  if awaitsResize s (wgOf s l k) then s else saveWg l k s

/-- WORKGROUP_SAVE (R361). -/
def execWorkgroupSave (launch wg : Nat) (s : State) : Out :=
  let w := wgOf s launch wg
  .next (match w.phase with
    | .stopping _ => if controls s w then s else saveWhole launch wg s
    | _ => s)

/-! ### The end of a spatial drain (R364 to R366) -/

/-- Whether a sink can take its next entry. -/
def sinkMoves (f : Fabric) (l : Nat) : Bool :=
  let x := laneAt f l
  opKind (opAt f l) == 0x11 && x.running && !x.ended && x.stuck.isNone && x.cmds != [] && (inputHead f (opAt f l) (opA (opAt f l))).isSome

/-- Whether anything in a fabric can still move without its sources. -/
def stillDrains (f : Fabric) : Bool := (List.range f.ops.length).any fun l => sinkMoves f l || (fire l f).isSome

/-- Whether a draining fabric has come to its end: 65,536 clocks of the fabric domain's 1.6 GHz are 40,960 ns (R13, R364; DEDUCED, log entry
79). -/
def drainOver (s : State) (f : Fabric) : Bool :=
  match f.draining with
  | none => false
  | some t => decide (40960 ≤ s.time - t) || !stillDrains f

/-- The cause detail of a page at which a lane stopped: for misaligned its element, which for a sink may be the release element (R307,
R357). -/
def stuckDetail (sink : Bool) (c : Option StrmCmd) (pos : Nat) (release : Bool) (z : Stuck) : List (Nat × Nat × Nat) :=
  let kind := if sink then 1 else 0
  let index (c : StrmCmd) : Int := if release then cmdRelease c.cmd else cmdIndex c.cmd pos
  match z.cause with
  | 0x12 => [(1, 1, (c.map fun (c : StrmCmd) => cmdRecord c.cmd).getD 0), (4, 8, ((c.map index).getD 0 % 2 ^ 64).toNat)]
  | 0x17 => [(0, 1, (c.map fun (c : StrmCmd) => cmdScope c.cmd).getD 0), (1, 1, z.level), (2, 2, z.reason), (4, 1, z.unit % 24), (5, 1, z.unit / 24)]
  | 0x19 => [(1, 1, z.unit)]
  | 0x1A => [(0, 1, 1)]
  | 0x16 => [(0, 1, kind), (1, 1, z.level), (2, 1, z.reason), (4, 2, z.unit)]
  | _ => [(0, 1, kind), (1, 1, z.level)]

/-- A lane's stop becomes a trap, or a page fault of its workgroup. -/
def stuckLane (core : Nat) (f : Fabric) (failing : Bool) (s : State) (l : Nat) : State :=
  let x := laneAt f l
  let sink := opKind (opAt f l) == 0x11
  let k := controlFlock s core f
  match x.stuck with
  | none => s
  | some z =>
    let release := sink && (inputHead f (opAt f l) (opA (opAt f l))).any fun e => e.tag == .marker
    let r (cause : Nat) : TrapRec :=
      streamRec s core l x.cmds.head? f cause z.va (stuckDetail sink x.cmds.head? x.pos release { z with cause := cause })
    if failing then (if z.cause = 0 then s else trapAt k.launch k.wg (r z.cause) s)
    else if z.cause = 0 ∧ (wgOf s k.launch k.wg).trap.isNone then
      updWg k.launch k.wg (fun w =>
        { w with misses := w.misses ++ [{ va := z.va, kind := if sink then 1 else 0, level := z.level, rcd := r 0x13 }] }) s
    else s

/-- Completes the instruction of every listed command of a fabric (R366). -/
def divideCmds (core : Nat) (f : Fabric) (s : State) : State :=
  f.lanes.foldl (fun s e => e.2.cmds.foldl (fun s c => match c.uid with
    | some u => strmDelivered core f.control u none s
    | none => s) s) s

/-- Counted tokens take in those under way. -/
def landTokens (f : Fabric) : Fabric :=
  f.flying.foldl (fun f l => let x := laneAt f l; setLane l { x with tokens := min 15 (x.tokens + 1) } f) { f with flying := [] }

/-- SPATIAL_DRAIN_END (R364 to R366). -/
def execSpatialDrainEnd (core : Nat) (s : State) : Out :=
  .next (match (coreAt s core).fabric with
    | none => s
    | some f =>
      let k := controlFlock s core f
      let s := if drainOver s f then performAll (wgOf s k.launch k.wg) s else s
      if !drainOver s f || awaitsResize s (wgOf s k.launch k.wg) then s
      else
        let ls := List.range f.ops.length
        let s := ls.foldl (fun s l => streamCompletes core l s) s
        let s := mapFabric core landTokens s
        let f := ((coreAt s core).fabric).getD f
        let s := ls.foldl (stuckLane core f true) s
        let s := ls.foldl (stuckLane core f false) s
        let s := divideCmds core f s
        let k := controlFlock s core f
        let w := wgOf s k.launch k.wg
        match w.phase with
        | .stopping _ => saveWg k.launch k.wg s
        | _ => s)

/-! ### Restoring (R166, R195, R290, R362, R367) -/

/-- Does something with a buffer record in a register of the issuing flock, which then holds again what it held. -/
def withRecord {α : Type} (n : Nat) (r : BitVec 256) (body : State → State × α) (s : State) : State × α :=
  let old := getB (cur s) n
  let (s, x) := body (setCur (putB (cur s) n r) s)
  (setCur (putB (cur s) n old) s, x)

/-- Issues a recorded request again (R166), under the identifier that it had and with the buffer record of its issue, though its b register
may have been loaded since: it counts on its flag; a page that is now bad or not resident, and poison (R370), act as they would on the
instruction. -/
def reissue (core slot : Nat) (k : Option FeId) (d : Option Nat × FeInstr) (s : State) : State :=
  let old := (s.core, s.slot, s.second)
  let f := flockAt s core slot
  let uid := (k.map fun (k : FeId) => k.uid).getD s.fresh
  let f := match d.1 with
    | some n => putCf f n (getCf f n + 1)
    | none => f
  let f := { f with pending := f.pending ++ [{ noPending with uid := uid, flag := d.1, fe := some d.2 }] }
  let s := setFlock core slot f { s with fresh := s.fresh + 1, core := core, slot := slot, second := f.path0.isNone }
  let origin := (k.bind fun (k : FeId) => k.origin).getD ((curPath s).pc, if s.second then 1 else 0, d.2.mask)
  let rcd (n : Nat) : BitVec 256 := (k.map fun (k : FeId) => k.rcd).getD (getB (cur s) n)
  let go (q : Ask) (kind : Nat) : State :=
    let note (p : Pending) : Pending := { p with origin := some origin, rcd := rcd q.reg }
    let s := setCur { cur s with pending := updFirst (fun p => p.uid == uid) note (cur s).pending } s
    match withRecord q.reg (rcd q.reg) (checkLanes { q with fullEmpty := true }) s with
    | (s, .trap r) => takeTrap r s
    | (s, .absent va level) => suspend q.m va q.kind level s
    | (s, .ok ls) =>
     let s := verifyLanes q ls s
     match poisonTrap q s ls with
     | some r => takeTrap r s
     | none =>
      let live := ls.filter fun l => !l.dropped
      let s := live.foldl (fun s l =>
        feSend { uid := uid, loc := leafLoc l.leaf l.va, va := l.va, core := core, slot := slot, thread := l.t, kind := kind,
                   data := d.2.datas.getD l.t 0 } s) s
      let used (p : Pending) : Pending := { p with units := laneUnits ls }
      due (.longLatencyCompletion core slot uid) (setCur { cur s with pending := updFirst (fun p => p.uid == uid) used (cur s).pending } s)
  let idx (t : Nat) : Int := d.2.idxs.getD t 0
  let s := match decodeWords d.2.word.toNat 0 with
    | .ok (.ldfe g dd a r fl t c) =>
      go (askLanes (.ldfe g dd a r fl t c) d.2.mask r idx 4 (c == 1) true false (if t = 1 then .atomic else .read) (fun _ => true) false) t
    | .ok (.stfe g dd a r fl t c) =>
      go (askLanes (.stfe g dd a r fl t c) d.2.mask r idx 4 (c == 1) true false .write (fun _ => true) false) 2
    | _ => s
  { s with core := old.1, slot := old.2.1, second := old.2.2 }

/-- Stops a saved workgroup's launch because its frame does not serve (R362). -/
def frameRefused (l k : Nat) (s : State) : State := endIfDrained l (frameLost l (updWg l k (fun w => { w with phase := .stopped }) s))

/-- Stops a saved workgroup with a trap that its frame gets: the record, then the save cause (R257, R365, R367). -/
def failSaved (l k : Nat) (r : TrapRec) (s : State) : State :=
  let s := updWg l k (fun w => { w with trap := some r, phase := .stopped, tags := [] }) s
  let x := launchOf s l
  let (s, ok) := putPieces x k [(0x40, trapBytes (wgOf s l k)), (0x12, leBytes 1 3)] s
  let s := if ok then s else frameLost l s
  endIfDrained l (stopLaunch l { status := 0x60, trapped := true, cause := r.cause, index := k } s)

/-- Whether a header is the one that the drover wrote (R362). -/
def headerMatches (l : Launch) (k : Nat) (h : List Byte) : Bool :=
  fieldOf h 0 4 == frameMagic && fieldOf h 4 4 == k && fieldOf h 8 8 == l.num && fieldOf h 0x10 1 == l.f && fieldOf h 0x11 1 == l.b &&
  fieldOf h 0x18 4 == l.wn && fieldOf h 0x28 8 == frameSize l.f l.b l.wn

/-- Whether the tiles and handles that a header names are free on the core (R149, R195). -/
def unitsFree (s : State) (core : Nat) (h : List Byte) : Bool :=
  (List.range 4).all (fun t => !bitAt (fieldOf h 0x13 1) (2 + t) || claimable (tileAt s core t)) &&
  (List.range 64).all fun n => !bitAt (fieldOf h 0x20 8) n || (handleAt s core n).st == .free

/-- Reads a flock back: its record comes with it. -/
def readFlock (l : Launch) (w : Wg) (index : Nat) (p : Place) (s : State) : State × Option (Flock × List Byte) :=
  match getPiece l w.index (0x50000 + 0x1000 * index) 0x1000 s with
  | (s, none) => (s, none)
  | (s, some b) =>
    match getPiece l w.index (frameRegs l.f + 128 * l.b * index) (128 * l.b) s with
    | (s, none) => (s, none)
    | (s, some v) =>
      let f := flockFrom l w.index index (clockOf s w.core) p b v (w.keptFlags.getD index [])
      (s, some ({ f with exitAt := smapGet none w.keptExits index }, b))

/-- Reads flocks back into their places. -/
def readFlocks (l : Launch) (w : Wg) : List (Nat × Place) → State → State × Option (List (Nat × Flock × List Byte))
  | [], s => (s, some [])
  | x :: r, s =>
    match readFlock l w x.1 x.2 s with
    | (s, none) => (s, none)
    | (s, some f) =>
      match readFlocks l w r s with
      | (s, none) => (s, none)
      | (s, some fs) => (s, some ((x.2.slot, f) :: fs))

/-- Reads a tile back for the flock whose old slot its image names. -/
def readTile (l : Launch) (w : Wg) (fs : List (Nat × Flock × List Byte)) (s : State) (t : Nat) : State :=
  match getPiece l w.index (frameTiles l.f l.b + 0x41000 * t) 0x41000 s with
  | (s, none) => s
  | (s, some b) =>
    let old := bits (fieldOf b 0 4) 21 16
    match w.keptSlots.find? fun x => x.2 == old with
    | none => s
    | some x =>
      match fs.find? fun f => f.2.1.index == x.1 with
      | none => s
      | some f => setTile w.core t (tileFrom b l.num f.1) s

/-- Reads a handle back; a transfer that had stopped goes on. -/
def readHandle (l : Launch) (w : Wg) (s : State) (h : Nat) : State :=
  match getPiece l w.index (0x10000 + 0x1000 * h) 0x1000 s with
  | (s, none) => s
  | (s, some b) =>
    let x := handleFrom b (smapGet { emptyHandle with owner := some (l.num, w.index) } w.keptJobs h)
    let s := setHandle w.core h x s
    if x.coll.isSome || x.job.any (fun j => j.tag.isNone) then due (.copyLastByteLanded w.core h) s else s

/-- Issues again all that a flock's record lists. -/
def reissueAll (w : Wg) (s : State) (f : Nat × Flock × List Byte) : State :=
  let ids := smapGet [] w.keptFe f.2.1.index
  (deferredFrom f.2.2).zipIdx.foldl (fun s d => reissue w.core f.1 ids[d.2]? d.1 s) s

/-- A held instruction comes back to its flock: it counts on its flag again. -/
def holdAgain (core : Nat) (fs : List (Nat × Flock × List Byte)) (s : State) (h : Held) : State :=
  match fs.find? fun f => f.2.1.index == h.flock.index with
  | none => s
  | some f =>
    let x := flockAt s core f.1
    let x := match h.flag with
      | some n => putCf x n (getCf x n + 1)
      | none => x
    let p := { heldPending h.what with uid := h.what.uid, flag := h.flag }
    let s := setFlock core f.1 (if h.what.op.act = .fence then x else { x with pending := x.pending ++ [p] }) s
    due (.longLatencyCompletion core f.1 h.what.uid) { s with held := s.held ++ [{ h with slot := f.1 }] }

/-- What follows once a workgroup's items are back: requests are issued again, with what waited for them, and what was due is due. -/
def resumeWg (l : Launch) (w : Wg) (fs : List (Nat × Flock × List Byte)) (s : State) : State :=
  let s := w.keptHeld.foldl (holdAgain w.core fs) (fs.foldl (reissueAll w) s)
  let s := w.keptFrees.foldl (fun s t => freeTile w.core (tileHolder (tileAt s w.core t)) t s) s
  let s := fs.foldl (fun s f => retireCheck w.core f.1 s) s
  completeCheck l.num w.index (pokeCore w.core s)

/-- Restores a workgroup whose header has been read; a fabric comes with it where its core was in spatial mode. -/
def restoreWg (l : Launch) (w : Wg) (h : List Byte) (place : List Place) (fab : Option Fabric) (s : State) : State :=
  let idxs := (List.range l.f).filter fun i => w.keptSlots.any fun x => x.1 == i
  match readFlocks l w (idxs.zip place) s with
  | (s, none) => frameRefused l.num w.index s
  | (s, some fs) =>
    match getPiece l w.index 0x100 256 s with
    | (s, none) => frameRefused l.num w.index s
    | (s, some cb) =>
      match getPiece l w.index (frameTiles l.f l.b + 0x104000) l.wn s with
      | (s, none) => frameRefused l.num w.index s
      | (s, some win) =>
        let s := fs.foldl (fun s f => setFlock w.core f.1 f.2.1 s) s
        let s := ((List.range 4).filter fun t => bitAt (fieldOf h 0x13 1) (2 + t)).foldl (readTile l w fs) s
        let s := ((List.range 64).filter fun n => bitAt (fieldOf h 0x20 8) n).foldl (readHandle l w) s
        let s := updWg l.num w.index (fun w => winPuts 0 win
          { w with
            phase := .resident, slots := fs.map (·.1), window := [], since := s.time, trap := none, holding := false, later := 0
            stopAt := 0, halted := [], watched := false, spatial := false
            cb := (List.range 128).foldl (fun m k => smapSet 0 m k (BitVec.ofNat 16 (fieldOf cb (2 * k) 2))) []
            keptFlags := [], keptJobs := [], keptCmds := [], keptHeld := [], keptFe := [],
            keptExits := [], keptFrees := [], keptSlots := [] }) s
        let s := setCore w.core { coreAt s w.core with fabric := fab } s
        resumeWg l w fs (if fab.isSome then dropLatches w.core s else s)

/-- What every restore asks before it reads the rest of a frame: a turn, a core in SIMT mode, room, a frame that can be read and matches,
and free units. The header comes with the state where the restore goes on. -/
def beginRestore (l : Launch) (w : Wg) (place : List Place) (s : State) : State × Option (List Byte) :=
  let ready := l.num == w.launch && restoreTurn s w && (coreAt s w.core).fabric.isNone && place.length == w.keptSlots.length &&
    placesFree (blocksOf l.b) place (takenPlaces s w.core) && decide (poolUsed s w.core + l.wn ≤ poolSize s w.core)
  if !ready then (s, none)
  else match frameReadable l (unitsOf (frameVa l w.index) (frameSize l.f l.b l.wn)) (frameVa l w.index) s with
    | (s, false) => (frameRefused l.num w.index s, none)
    | (s, true) =>
      match getPiece l w.index 0 64 s with
      | (s, none) => (frameRefused l.num w.index s, none)
      | (s, some h) =>
        if !headerMatches l w.index h then (frameRefused l.num w.index s, none)
        else if unitsFree s w.core h then (s, some h)
        else (s, none)

/-- WORKGROUP_RESTORE (R362). -/
def execWorkgroupRestore (launch wg : Nat) (place : List Place) (s : State) : Out :=
  let w := wgOf s launch wg
  let l := launchOf s launch
  .next (if w.spatial then s
    else match beginRestore l w place s with
      | (s, some h) => restoreWg l w h place none s
      | (s, none) => s)

/-- Whether the blocks left free in each octet hold a saved fabric's depths and delay lines (R290). -/
def fabricFits (s : State) (core : Nat) (l : Launch) (place : List Place) (i : Image) (depth : Nat → Nat) : Bool :=
  (List.range 8).all fun o =>
    let mine := (place.filter fun p => p.octet == o).length * blocksOf l.b
    let want := delayWords i.ops o + ((i.entries.filter fun e => queueOctet i e.1 == o).map fun e => up16 (depth e.1)).sum
    decide (want ≤ 256 * (64 - heldBlocks s core o - mine))

/-- mode-switch-refused for a saved fabric whose image no longer serves (R367). -/
def imageGone (l : Launch) (w : Wg) (b : List Byte) (s : State) : State :=
  match getPiece l w.index (0x50000 + 0x1000 * fieldOf b 12 1) 0x1000 s with
  | (s, none) => frameRefused l.num w.index s
  | (s, some r) =>
    let f := flockFrom l w.index (fieldOf b 12 1) 0 { slot := 0, octet := 0, block := 0 } r [] []
    let p := nextPath f
    failSaved l.num w.index
      { cause := 0x20, flock := f.index, pcSlot := p.2, mask := liveMask f p.1, pc := p.1.pc, va := 0, hcause := 0, handle := 0,
        detail := detailOf [(0, 1, 1)], lane := 0xFF } s

/-- SPATIAL_RESTORE (R290, R367): the image is read again and checked, and the fabric starts at its saved cursors. -/
def execSpatialRestore (launch wg : Nat) (place : List Place) (s : State) : Out :=
  let w := wgOf s launch wg
  let l := launchOf s launch
  .next (if !w.spatial then s
    else match beginRestore l w place s with
      | (s, none) => s
      | (s, some h) =>
        match getPiece l wg 0x1000 0xF000 s with
        | (s, none) => frameRefused launch wg s
        | (s, some b) =>
          let va := fieldOf b 0 8
          let len := fieldOf b 8 4
          let (s, bytes) := deviceRead l.dom l.priv len va s
          match bytes.bind fun x => if imgNat x 12 4 = len then parseImage x len else none with
          | none => imageGone l w b s
          | some i =>
            let depth (q : Nat) : Nat := bits (fieldOf b (0x1840 + 4 * q) 4) 11 0
            if !fabricFits s w.core l place i depth then s
            else
              let live := (List.range l.f).filter fun i => w.keptSlots.any fun x => x.1 == i
              let slot := (((live.zip place).find? fun x => x.1 == fieldOf b 12 1).map fun x => x.2.slot).getD 0
              restoreWg l w h place (some (fabricFrom i va len slot b w.keptCmds)) s)

/-! ### Quanta (R256) -/

/-- A state in which a workgroup has left its core. -/
def without (s : State) (w : Wg) : State := updWg w.launch w.index (fun w => { w with phase := .stopped }) (vacate w s)

/-- The workgroups to save, highest index first, until a core of the field can admit. -/
def victims (l : Launch) : List Wg → State → List Wg
  | [], _ => []
  | w :: r, s =>
    let t := without s w
    w :: if (fieldCores l).any (canAdmit t l) then [] else victims l r t

/-- The launch that a launch of higher priority pre-empts: the lowest priority below its own, the latest dispatched among equals. -/
def victimOf (s : State) (l : Launch) : Option Launch :=
  let here (o : Launch) : Bool := s.wgs.any fun w => w.launch == o.num && w.phase == .resident && (fieldCores l).contains w.core
  (s.launches.filter fun o => running o && decide (o.prio < l.prio) && here o).foldl (fun (a : Option Launch) o =>
    match a with
    | none => some o
    | some b => if o.prio < b.prio ∨ (o.prio = b.prio ∧ b.num < o.num) then some o else some b) none

/-- Inserts a workgroup before those of lower index. -/
def byIndex (w : Wg) : List Wg → List Wg
  | [] => [w]
  | x :: r => if x.index < w.index then w :: x :: r else x :: byIndex w r

/-- Pre-empts for one launch (R256): workgroups admitted or restored since the boundary at ns are not taken. A launch that waits for its
window alone pre-empts none (DESIGN CHOICE, log entry 112). -/
def preemptFor (ns : Nat) (s : State) (l : Launch) : State :=
  if !hasNext l ∨ (fieldCores l).any (canAdmit s l) then s
  else match victimOf s l with
    | none => s
    | some v =>
      let ws := (s.wgs.filter fun w => w.launch == v.num && w.phase == .resident && (fieldCores l).contains w.core &&
        decide (w.since < ns)).foldl (fun r w => byIndex w r) []
      (victims l ws s).foldl (fun s w => stopWg 1 w.launch w.index s) s

/-- Inserts a launch by priority, highest first, the earliest dispatched first among equals. -/
def byPrio (l : Launch) : List Launch → List Launch
  | [] => [l]
  | x :: r => if x.prio < l.prio then l :: x :: r else x :: byPrio l r

/-- QUANTUM_BOUNDARY (R256): TIMEBASE has passed a multiple of 100 µs. Several blocked launches pre-empt by priority, then in the order of
their dispatch (DESIGN CHOICE, log entry 112). -/
def execQuantumBoundary (s : State) : Out :=
  let q := s.time / 100000
  .next (if s.quantum < q then
      let s := { s with quantum := q }
      ((s.launches.filter running).foldl (fun r l => byPrio l r) []).foldl (fun s l => preemptFor (100000 * (q - 1)) s l) s
    else s)

end Sys2Proof.Machine
end

