-- ==== Sys2Proof/Machine/Queues.lean ====
section
/-! DEFINITION. User queues and the drover's choice among them (R233 to R238, R244 to R246). -/

namespace Sys2Proof.Machine

/-! ### Descriptors (R233, R234) -/

def noQueueYet : Queue :=
  { desc := 0, held := false, rd := 0, wr := 0, started := false, stopped := false, head := none, unwritten := false, waited := 0, hw := none, idleAt := 0,
    flights := [], seq := 0 }

def queueOf (s : State) (q : Nat) : Queue := smapGet noQueueYet s.queues q
def setQueueAt (q : Nat) (x : Queue) (s : State) : State := { s with queues := smapSet noQueueYet s.queues q x }

def qEnable (d : Nat) : Bool := bitAt d 0
def qSlots (d : Nat) : Nat := 2 ^ bits d 18 14
def qPrio (d : Nat) : Nat := bits d 21 19
def qDomain (d : Nat) : Nat := bits d 31 22
def qRing (d : Nat) : Nat := bits d 191 128
def qReadVa (d : Nat) : Nat := bits d 255 192

/-- Whether a descriptor's fields are in range. -/
def qLegal (d : Nat) : Bool :=
  bits d 511 320 == 0 && bits d 127 32 == 0 && bits d 13 1 == 0 && decide (6 ≤ bits d 18 14) && decide (bits d 18 14 ≤ 16) &&
  qRing d % 4096 == 0 && decide (qRing d < 2 ^ 57)

/-- Whether a queue's domain lets it run: active, and privileged where the queue is (R328). -/
def qAllowed (s : State) (d : Nat) : Bool := domActive s (qDomain d) && (qPrio d != 7 || domPrivileged s (qDomain d))

/-- Whether a queue accepts doorbells: enabled, and allowed by its domain. -/
def qUsable (s : State) (x : Queue) : Bool := qEnable x.desc.toNat && qAllowed s x.desc.toNat

/-- Whether a queue has stopped at an error or is disabled. -/
def qServes (s : State) (x : Queue) : Bool := qUsable s x && !x.stopped

def descVa (s : State) (q : Nat) : Nat := s.mgmt.qTable + 64 * q

/-- Reads a queue's descriptor; where its enable has gone from 0 to 1, the queue starts at the value of its read index (R236). A descriptor
that cannot be read, is out of order or belongs to a domain that does not allow it counts as disabled (R234, R328), but is no 0 of its
enable: a stopped queue stays stopped. One that can be read but is out of order is read again only at QUEUE_SYNC, since R234's sentence on
reading again can be taken to speak of unreadable ones alone (DESIGN CHOICE, log entry 94). A start whose read index cannot be read stops
the queue with error 0x03 (DESIGN CHOICE, log entry 88). A start sets the waiting time to 0 (DESIGN CHOICE, log entry 113). -/
def readDesc (q : Nat) (s : State) : State :=
  let x := queueOf s q
  match deviceReadNat 0 true (descVa s q) 64 s with
  | (s, none) => setQueueAt q { x with desc := 0, held := false } s
  | (s, some d) =>
    if !qEnable d then setQueueAt q { x with desc := 0, held := true, started := false, head := none } s
    else if !qLegal d then setQueueAt q { x with desc := 0, held := true } s
    else if !qAllowed s d then setQueueAt q { x with desc := 0, held := false } s
    else if x.started then setQueueAt q { x with desc := BitVec.ofNat 512 d, held := true } s
    else
      let y := { x with desc := BitVec.ofNat 512 d, held := true, started := true, stopped := false, head := none, unwritten := true, waited := 0 }
      let (s, _) := deviceWrite 0 true (descVa s q + 32) (leBytes 8 0) s
      match deviceReadNat (qDomain d) true (qReadVa d) 8 s with
      | (s, none) => queueError q 3 (setQueueAt q y s)
      | (s, some r) => setQueueAt q { y with rd := r, wr := r } s

/-- The drover reads the packet at the read index, whole, and advances past it (R235). Where the new read index cannot be written, the queue
stops with error 0x03 and the packet is not dispatched (DESIGN CHOICE, log entry 88). -/
def loadHead (q : Nat) (s : State) : State :=
  let x := queueOf s q
  let d := x.desc.toNat
  if !qServes s x || x.head.isSome || x.unwritten || decide (x.wr ≤ x.rd) then s
  else
    let slot (k : Nat) : Nat := qRing d + 64 * ((x.rd + k) % qSlots d)
    match deviceRead (qDomain d) true 64 (slot 0) s with
    | (s, none) => queueError q 3 s
    | (s, some a) =>
      let kind := leNat (a.take 1)
      let two := kind = 1 ∨ kind = 5
      if kind = 0 ∨ (two ∧ x.wr ≤ x.rd + 1) then setQueueAt q { x with unwritten := true } s
      else if 6 < kind then queueError q 2 s
      else
        match if two then deviceRead (qDomain d) true 64 (slot 1) s else (s, some []) with
        | (s, none) => queueError q 3 s
        | (s, some b) =>
          let r := x.rd + if two then 2 else 1
          match deviceWrite (qDomain d) true (qReadVa d) (leBytes 8 r) s with
          | (s, false) => queueError q 3 (setQueueAt q { x with rd := r } s)
          | (s, true) => setQueueAt q { x with rd := r, head := some (a ++ b) } s

/-! ### Dispatchable packets (R242) -/

/-- A field of a packet. -/
def packetNat (b : List Byte) (off n : Nat) : Nat := fieldOf b off n

/-- Whether a signal's value reads 0 (R242). -/
def signalZero (s : State) (dom va : Nat) : Bool := va == 0 || (deviceReadNat dom true va 8 s).2 == some 0

/-- Launches of a queue that have not ended, with those about to start (R237). -/
def inFlight (s : State) (q : Nat) : Nat :=
  s.launches.countP (fun l => l.queue == q && !l.ended) + s.packets.countP fun p => p.queue == q && p.kind == 1

/-- Whether a queue's head may be dispatched. -/
def dispatchable (s : State) (q : Nat) (x : Queue) : Bool :=
  match x.head with
  | none => false
  | some b =>
    let kind := packetNat b 0 1
    qServes s x && !s.mgmt.thermalStop && (!bitAt (packetNat b 0 4) 8 || x.flights == []) &&
    (kind != 1 || decide (inFlight s q < 16)) &&
    (kind != 3 || (List.range 5).all fun k => signalZero s (qDomain x.desc.toNat) (packetNat b (8 + 8 * k) 8))

/-! ### Priority (R244 to R246) -/

/-- Effective priority (R245). -/
def effPrio (x : Queue) : Nat :=
  let b := qPrio x.desc.toNat
  if b = 7 then 7 else min (b + x.waited / 250000) (min (b + 3) 6)

/-- Whether one queue comes before another in the choice: highest e, longest w, lowest number; those without a packet rank last. -/
def ranksBefore (s : State) (a b : Nat × Queue) : Bool :=
  let x := dispatchable s a.1 a.2
  let y := dispatchable s b.1 b.2
  if x != y then x
  else if effPrio a.2 ≠ effPrio b.2 then decide (effPrio b.2 < effPrio a.2)
  else if a.2.waited ≠ b.2.waited then decide (b.2.waited < a.2.waited)
  else decide (a.1 < b.1)

/-- The best of several queues under an order. -/
def bestOf (r : Nat × Queue → Nat × Queue → Bool) (l : List (Nat × Queue)) : Option (Nat × Queue) :=
  l.foldl (fun (a : Option (Nat × Queue)) x => match a with
    | some y => if r x y then some x else some y
    | none => some x) none

def slotTaken (s : State) (h : Nat) : Bool := s.queues.any fun e => e.2.hw == some h

/-- The lowest free hardware slot. -/
def freeSlot (s : State) : Option Nat := (List.range 256).find? fun h => !slotTaken s h

/-- The slot that an unmapped queue takes when it wins: that of the mapped queue that ranks lowest (R244), or slot 0's where none is mapped.
-/
def winnerSlot (s : State) : Nat :=
  ((bestOf (fun a b => ranksBefore s b a) (s.queues.filter fun e => e.2.hw.isSome)).bind fun e => e.2.hw).getD 0

/-- Gives a queue a slot, taking it from the queue that held it. -/
def mapQueue (q h : Nat) (s : State) : State :=
  let s := { s with queues := s.queues.map fun e => if e.2.hw = some h then (e.1, { e.2 with hw := none }) else e }
  setQueueAt q { queueOf s q with hw := some h, idleAt := s.time } s

/-- The override group of a queue at this choice (R244). -/
def groupOf (s : State) (x : Queue) : Nat := (x.hw.getD (winnerSlot s)) / 16

/-- Whether a group may make an override now: one in each ms (R246). -/
def overrideOpen (s : State) (g : Nat) : Bool :=
  match smapFind s.mgmt.overrides g with
  | none => true
  | some t => decide (t + 1000000 ≤ s.time)

/-- The drover's choice (R246): the queue, and whether it is an override. Of overrides in several groups the longest wait comes first, and
of equals the lowest queue number (DESIGN CHOICE, log entry 98). -/
def dispatchChoice (s : State) : Option ((Nat × Queue) × Bool) :=
  let ready := s.queues.filter fun e => dispatchable s e.1 e.2
  let late := ready.filter fun e => decide (4000000 ≤ e.2.waited) && overrideOpen s (groupOf s e.2)
  let longest (a b : Nat × Queue) : Bool := decide (b.2.waited < a.2.waited) || (a.2.waited == b.2.waited && decide (a.1 < b.1))
  match bestOf longest late with
  | some e => some (e, true)
  | none => (bestOf (ranksBefore s) ready).map fun e => (e, false)

/-- The event in which a packet has its effect. -/
def packetEvent (kind q : Nat) : Instr :=
  match kind with
  | 1 => .launchPacket q
  | 2 => .copyPacket q
  | 3 => .barrierAndPacket q
  | 4 => .signalPacket q
  | 5 => .paddockPacket q
  | _ => .homeChangePacket q

/-- PACKET_DISPATCH (R237, R245, R246): the chosen queue's head is dispatched, and its next packet read. -/
def execPacketDispatch (s : State) : Out :=
  .next (match dispatchChoice s with
    | none => s
    | some ((q, x), forced) =>
      let b := x.head.getD []
      let kind := packetNat b 0 1
      let s := if forced then
          { s with mgmt := { s.mgmt with overrides := smapPut s.mgmt.overrides (groupOf s x) s.time } }
        else s
      let s := if x.hw.isNone then mapQueue q (winnerSlot s) s else s
      let p : Packet :=
        { queue := q, seq := x.seq, kind := kind, dom := qDomain x.desc.toNat, priv := qPrio x.desc.toNat == 7,
          prio := if forced then 7 else effPrio x, body := b, done := 0, tag := none }
      let x := { queueOf s q with head := none, waited := 0, idleAt := s.time, flights := x.flights ++ [x.seq], seq := x.seq + 1 }
      let s := { setQueueAt q x s with packets := s.packets ++ [p] }
      due .packetDispatch (due (packetEvent kind q) (loadHead q s)))

/-! ### Doorbells and registers (R29, R37, R234 to R236, R244) -/

/-- Whether firmware is ready, so that registers take writes (R37). -/
def fwReady (s : State) : Bool := s.mgmt.fwState == 2

/-- The slot that a doorbell on an unmapped queue takes (R244). -/
def doorbellSlot (s : State) : Option Nat :=
  match freeSlot s with
  | some h => some h
  | none =>
    let idle := s.queues.filter fun e => e.2.hw.isSome && !dispatchable s e.1 e.2
    (bestOf (fun a b => decide (a.2.idleAt < b.2.idleAt)) idle).bind fun e => e.2.hw

/-- DOORBELL_WRITE (R37, R235): the queue's write index. -/
def execDoorbellWrite (_port : Port) (queue offset value : Nat) (s : State) : Out :=
  .next (if !fwReady s ∨ offset ≠ 0 ∨ 65536 ≤ queue then s
    else
      let s := if (queueOf s queue).held then s else readDesc queue s
      let x := queueOf s queue
      let v := value % 2 ^ 64
      if !qServes s x then s
      else
        let s := setQueueAt queue { x with unwritten := false } s
        if v ≤ x.wr then due .packetDispatch (loadHead queue s)
        else if x.rd + qSlots x.desc.toNat < v then queueError queue 1 s
        else
          let s := setQueueAt queue { queueOf s queue with wr := v } s
          let s := match (queueOf s queue).hw, doorbellSlot s with
            | none, some h => mapQueue queue h s
            | _, _ => s
          due .packetDispatch (loadHead queue s))

/-- A configuration register write (R21, R35, R37): discarded before firmware is ready; a write that is not the owner's is counted. -/
def configWrite (port : Port) (body : State → State) (s : State) : State :=
  if !fwReady s then s
  else if s.mgmt.owner ≠ some port then { s with mgmt := { s.mgmt with refused := min (2 ^ 16 - 1) (s.mgmt.refused + 1) } }
  else body s

/-- QUEUE_SYNC_WRITE (R234, R236). -/
def execQueueSyncWrite (port : Port) (value : Nat) (s : State) : Out :=
  .next (configWrite port (fun s =>
    let q := value % 65536
    readDesc q { s with mgmt := { s.mgmt with qSync := q } }) s)

/-- QUEUE_TABLE_WRITE (R234): a base that is no multiple of 4 MiB is discarded. -/
def execQueueTableWrite (port : Port) (value : Nat) (s : State) : Out :=
  .next (configWrite port (fun s =>
    let b := value % 2 ^ 57
    if b % 4194304 ≠ 0 then s else { s with mgmt := { s.mgmt with qTable := b } }) s)

/-- SLOT_IDLE_UNMAP (R244): a slot idle for 2 ms. -/
def execSlotIdleUnmap (hwSlot : Nat) (s : State) : Out :=
  .next (match s.queues.find? fun e => e.2.hw == some hwSlot with
    | some e => if !dispatchable s e.1 e.2 ∧ e.2.idleAt + 2000000 ≤ s.time then setQueueAt e.1 { e.2 with hw := none } s else s
    | none => s)

end Sys2Proof.Machine
end

