-- ==== Sys2Proof/Machine/Packets.lean ====
section
/-! DEFINITION. What dispatched packets do: launches, copies, signals, paddock records and home changes (R229, R239 to R243, R329). -/

namespace Sys2Proof.Machine

/-! ### Packets in progress -/

/-- The oldest packet of a kind of a queue whose effect is due. -/
def nextPacket (s : State) (q kind : Nat) : Option Packet := s.packets.find? fun p => p.queue == q && p.kind == kind && p.tag.isNone

def dropPacket (p : Packet) (s : State) : State := { s with packets := s.packets.filter fun x => !(x.queue == p.queue && x.seq == p.seq) }

/-- Makes the effect of a queue's further packets of a kind due. -/
def pokePackets (q kind : Nat) (s : State) : State := if (nextPacket s q kind).isSome then due (packetEvent kind q) s else s

/-- Completes a packet with a signal status. -/
def completePacket (p : Packet) (signal status : Nat) (s : State) : State :=
  packetDone p.queue p.seq (signalDone p.queue (p.dom) signal status 0 0 0 s)

/-- Header bits that every packet leaves zero, and the type-specific ones it may use. -/
def headerBad (b : List Byte) (used : Nat) : Bool :=
  let h := packetNat b 0 4
  bits h 15 9 != 0 || bits h 31 16 &&& used != bits h 31 16

/-- Whether a signal's address is aligned (R241). -/
def signalAligned (va : Nat) : Bool := va % 8 == 0

/-- Runs a packet's effect: it leaves the list, its table is checked (0x41), a privileged type needs a privileged queue (0x40). -/
def packetOp (kind q sigOff used : Nat) (privileged : Bool) (body : Packet → Nat → State → State) (s : State) : Out :=
  .next (match nextPacket s q kind with
    | none => s
    | some p =>
      let s := dropPacket p s
      let sig := packetNat p.body sigOff 8
      let s := if privileged && !p.priv then completePacket p sig 0x40 s
        else if headerBad p.body used || !signalAligned sig then completePacket p sig 0x41 s
        else body p sig s
      pokePackets q kind s)

/-! ### Launches (R239, R240) -/

/-- The fields of a launch packet that the launch keeps. -/
def launchFrom (s : State) (p : Packet) (o : CodeObj) (e : Entry) : Launch :=
  let f (off n : Nat) : Nat := packetNat p.body off n
  { noLaunch with
    num := s.nextLaunch, waits := s.fresh, queue := p.queue, seq := p.seq, dom := p.dom, priv := p.priv,
    prio := p.prio, obj := o.num, entry := f 0x10 2, n := f 4 4
    f := if f 0x12 1 = 0 then e.flocks else f 0x12 1
    b := if f 0x13 1 = 0 then e.budget else f 0x13 1
    wn := roundUp (max (f 0x14 4) e.scratch) 256
    fx := f 0x18 1, fy := f 0x19 1, fw := f 0x1A 1, fh := f 0x1B 1, cluster := bits (f 0 4) 19 16
    args := (List.range 16).map fun k => BitVec.ofNat 32 (f (64 + 4 * k) 4)
    frames := f 0x28 8, signal := f 0x30 8
    runMs := max s.mgmt.runMs 1, blockedUs := max s.mgmt.blockedUs 1 }

/-- Status 0x41: a value outside its range, a field that is not 1 to 24 cores on each side (R8; DEDUCED, log entry 89), or one that is no
multiple of its clusters (R239, R240). -/
def launchMisfit (b : List Byte) : Bool :=
  let f (off n : Nat) : Nat := packetNat b off n
  let c := bits (f 0 4) 19 16
  let shape := clusterShape c
  f 4 4 == 0 || decide (32 < f 0x12 1) || decide (64 < f 0x13 1) || f 0x13 1 % 8 != 0 || f 0x1C 4 != 0 || f 0x38 8 != 0 ||
  f 0x1A 1 == 0 || f 0x1B 1 == 0 || decide (9 < c) || f 0x1A 1 % shape.1 != 0 || f 0x1B 1 % shape.2 != 0 ||
  decide (24 < f 0x18 1 + f 0x1A 1) || decide (24 < f 0x19 1 + f 0x1B 1)

/-- The object and the kernel entry that a packet names (R240, R347). -/
def launchEntry (s : State) (p : Packet) : Option (CodeObj × Entry) :=
  match s.objects.find? fun o => o.dom == p.dom && o.va == packetNat p.body 8 8 && !o.retiring with
  | none => none
  | some o =>
    match o.entries[packetNat p.body 0x10 2]? with
    | some e => if e.kind = 0 then some (o, e) else none
    | none => none

/-- Starts a launch that has passed its tests; its records are read once, where its entry binds any (R240). -/
def startLaunch (p : Packet) (sig : Nat) (o : CodeObj) (e : Entry) (s : State) : State :=
  let l := launchFrom s p o e
  let start (recs : List (BitVec 256)) (s : State) : State :=
    { s with
      launches := s.launches ++ [{ l with recs := recs }], nextLaunch := s.nextLaunch + 1, fresh := s.fresh + 1
      objects := updFirst (fun x => x.num == o.num) (fun x => { x with occ := x.occ + 1 }) s.objects }
  if e.binds.any fun x => x.form == 0 then
    match deviceRead l.dom true 512 (packetNat p.body 0x20 8) s with
    | (s, none) => completePacket p sig 0x45 s
    | (s, some b) => start ((List.range 16).map fun k => BitVec.ofNat 256 (fieldOf b (32 * k) 32)) s
  else start [] s

/-- LAUNCH_PACKET (R239, R240). -/
def execLaunchPacket (queue : Nat) (s : State) : Out :=
  packetOp 1 queue 0x30 0xF false (fun p sig s =>
    if launchMisfit p.body then completePacket p sig 0x41 s
    else match launchEntry s p with
      | none => completePacket p sig 0x42 s
      | some (o, e) =>
        let l := launchFrom s p o e
        if l.b < e.budget then completePacket p sig 0x43 s
        else if !(fieldCores l).any (emptyFits s l) then completePacket p sig 0x44 s
        else startLaunch p sig o e s) s

/-! ### Copies, signals and barriers (R242) -/

/-- What ended a device copy. -/
inductive DevStop where
  | ended
  | fails
  | waits (va level kind : Nat)
  deriving DecidableEq, Repr

/-- Copies n bytes in ascending order; the places and lease lines written and the bytes copied come with what stopped it. cov says which
sectors the copy writes whole, whose old bytes are not verified (R372). -/
def copyBytes (ag : Agent) (cov : Nat → Bool) : Nat → Nat → Nat → List (Nat × Nat) × List (Nat × Nat) × Nat → State →
    State × (List (Nat × Nat) × List (Nat × Nat) × Nat) × DevStop
  | 0, _, _, acc, s => (s, acc, .ended)
  | n + 1, src, dst, acc, s =>
    match pageFor ag .read src s with
    | (s, .absent level) => (s, acc, .waits (unitBase src) level 0)
    | (s, .bad ..) => (s, acc, .fails)
    | (s, .ok x) =>
      let s := verifyElement x src 1 s
      if elementBad s x src 1 then (s, acc, .fails)
      else
        match pageFor ag .write dst s with
        | (s, .absent level) => (s, acc, .waits (unitBase dst) level 1)
        | (s, .bad ..) => (s, acc, .fails)
        | (s, .ok y) =>
          if leafHome y = 2 ∧ padMode s (leafPad y) = 2 then (s, acc, .fails)
          else
            let (s, b) := loadBytes none x src 1 s
            let s := storeBytes none y dst b (renewSectors cov y dst 1 s)
            let ls := match leaseLine s y dst with
              | some l => pairInsert acc.2.1 l
              | none => acc.2.1
            copyBytes ag cov n (src + 1) (dst + 1) ((leafLoc y dst, 1) :: acc.1, ls, acc.2.2 + 1) s

/-- Copies n bytes as far as they go: what it writes whole is known by how far that is. -/
def deviceCopy (ag : Agent) (n src dst : Nat) (s : State) : State × (List (Nat × Nat) × List (Nat × Nat) × Nat) × DevStop :=
  let far := (copyBytes ag (fun _ => true) n src dst ([], [], 0) s).2.1.1
  copyBytes ag (rangesCover far) n src dst ([], [], 0) s

/-- COPY_PACKET (R242): a page that fails ends it with status 0x50; one that is not resident makes it wait. -/
def execCopyPacket (queue : Nat) (s : State) : Out :=
  packetOp 2 queue 0x20 0 false (fun p sig s =>
    let f (off : Nat) : Nat := packetNat p.body off 8
    let ag : Agent := { dom := p.dom, priv := true, core := Config.coreCount }
    let (s, acc, stop) := deviceCopy ag (f 0x18 - p.done) (f 8 + p.done) (f 0x10 + p.done) s
    let s := clearCovered acc.1 (leaseStamps none acc.2.1 s)
    match stop with
    | .ended => completePacket p sig 0 s
    | .fails => completePacket p sig 0x50 s
    | .waits va level kind =>
      newFault ag.dom va kind level (.packet p.queue p.seq) none
        { s with packets := s.packets ++ [{ p with done := p.done + acc.2.2, tag := some s.mgmt.nextTag }] }) s

/-- BARRIER_AND_PACKET (R242): it was dispatched once every signal it names read 0. -/
def execBarrierAndPacket (queue : Nat) (s : State) : Out :=
  packetOp 3 queue 0x30 0 false (fun p sig s =>
    completePacket p sig (if (List.range 5).all fun k => signalAligned (packetNat p.body (8 + 8 * k) 8) then 0 else 0x41) s) s

/-- SIGNAL_PACKET (R242): sets a signal's value, or subtracts from it. -/
def execSignalPacket (queue : Nat) (s : State) : Out :=
  packetOp 4 queue 0x18 1 false (fun p sig s =>
    let va := packetNat p.body 8 8
    let v := packetNat p.body 0x10 8
    if va % 8 ≠ 0 then completePacket p sig 0x41 s
    else
      let dom := p.dom
      match deviceReadNat dom true va 8 s with
      | (s, none) => completePacket p sig 0 (queueError queue 3 s)
      | (s, some old) =>
        let new := if bitAt (packetNat p.body 0 4) 16 then (old + 2 ^ 64 - v) % 2 ^ 64 else v
        match deviceWrite dom true va (leBytes 8 new) s with
        | (s, false) => completePacket p sig 0 (queueError queue 3 s)
        | (s, true) => due .packetDispatch (completePacket p sig 0 s)) s

/-! ### Privileged packets (R243, R329) -/

/-- The domains for which a privileged queue's packet acts: its own, or all where that is domain 0. -/
def packetActs (p : Packet) (d : Nat) : Bool := p.dom == 0 || p.dom == d

/-- PADDOCK_PACKET (R169, R243). -/
def execPaddockPacket (queue : Nat) (s : State) : Out :=
  packetOp 5 queue 0x30 0 true (fun p sig s =>
    let r := packetNat p.body 64 64
    match applyRecord r (packetActs p) (some { queue := queue, seq := p.seq, dom := p.dom, va := sig }) s with
    | (s, some st) => completePacket p sig st s
    | (s, none) => s) s

/-- The leaf of a domain's page at an address, with the physical address of its entry. -/
def leafOf (s : State) (dom va : Nat) : Option (Nat × Nat) :=
  match walkFrom s va 4 0 (domRoot (domDesc s dom)) with
  | .leaf x pa => some (x, pa)
  | _ => none

/-- HOME_CHANGE_PACKET (R229, R243): an invalid entry, or a page that is moving already, completes with 0x41. -/
def execHomeChangePacket (queue : Nat) (s : State) : Out :=
  packetOp 6 queue 0x30 0 true (fun p sig s =>
    let va := packetNat p.body 8 8
    let dom := packetNat p.body 0x10 8
    let y := packetNat p.body 0x18 16
    let bad := decide (2 ^ 57 ≤ va) || decide (1024 ≤ dom) || !packetActs p dom || !bitAt y 0 || leafBad y (3 - leafSize y) ||
      leafOwner y != dom || (s.homeChanges.any fun h => h.dom == dom && h.va == va) ||
      match leafOf s dom va with
      | some (x, _) => leafSize x != leafSize y || va % pageSize (leafSize x) != 0
      | none => true
    if bad then completePacket p sig 0x41 s
    else
      let h : HomeChange := { dom := dom, va := va, leaf := BitVec.ofNat 128 y, queue := queue, seq := p.seq, signal := sig, qdom := p.dom }
      due (.homeChangeComplete dom va) { s with homeChanges := s.homeChanges ++ [h] }) s

/-- Sparse entries of one range copied to another range: what stood there goes. -/
def copyKeys {α : Type} (a b n : Nat) (m : SMap α) : SMap α :=
  (m.filter fun e => inRange a n e.1).foldl (fun m e => smapPut m (e.1 - a + b) e.2) (m.filter fun e => !inRange b n e.1)

/-- Members of one range moved to another range. -/
def moveSet (a b n : Nat) (l : List Nat) : List Nat :=
  let rest := l.filter fun k => !inRange a n k && !inRange b n k
  (l.filter (inRange a n)).foldl (fun l k => setInsert l (k - a + b)) rest

def moveLoc (a b n k : Nat) : Nat := if inRange a n k then k - a + b else k

/-- The sectors of a page that were last written under another key than the one its leaf names. -/
def foreignSectors (s : State) (key : Option (BitVec 512)) (a n : Nat) : List Nat :=
  (upFrom (a / 32) (n / 32)).filter (foreignSector s key)

/-- The bytes of a page at its new home: what the old leaf's key reads there (R338). -/
def moveBytes (a b n : Nat) (key : Option (BitVec 512)) (s : State) : List Host.Cell :=
  (foreignSectors s key a n).foldl (fun m k => memPuts m (32 * k - a + b) ((upFrom (32 * k) 32).map (memUnder s key))) (copyKeys a b n s.mem)

/-- The check values of a page at its new home: they travel with its bytes, so that what fails before the move fails after it (R372). -/
def moveChecks (a b n : Nat) (key : Option (BitVec 512)) (s : State) : SMap (Option Nat) :=
  (foreignSectors s key a n).foldl (fun m k =>
    smapSet none m (k - a / 32 + b / 32) (if sectorFails s key k then some (checkOf s k) else none))
    (copyKeys (a / 32) (b / 32) (n / 32) s.checks)

/-- The keys under which a page's sectors stand at its new home: the new leaf's. -/
def moveKeys (b n : Nat) (key : Option (BitVec 512)) (s : State) : SMap (Option (BitVec 512)) :=
  (upFrom (b / 32) (n / 32)).foldl (fun m k => smapSet none m k key) (s.sectorKeys.filter fun e => !inRange (b / 32) (n / 32) e.1)

/-- The later of several timestamps. -/
def latest (ts : List (BitVec 16)) : Option (BitVec 16) :=
  match ts with
  | [] => none
  | t :: r => some (r.foldl serialMax t)

/-- The bases at the new home of the lines that take the place of a page's old ones. -/
def newBases (a b len : Nat) (old : List Line) : List Nat :=
  old.foldl (fun l m => (List.range (max 1 (m.data.length / len))).foldl (fun l k => setInsert l ((m.base - a + b + len * k) / len * len)) l) []

/-- A line at the new home: its data is the page's, its timestamps and sharers those of the old lines that it covers (R229). -/
def newLine (y a b : Nat) (old : List Line) (t : State) (base : Nat) : Line :=
  let pad := leafPad y
  let mine := old.filter fun m => decide (m.base - a + b < base + padLine t pad) && decide (base < m.base - a + b + m.data.length)
  let copies := mine.foldl (fun c m => m.copies.foldl setInsert c) []
  let l := filledLine t pad base (leafMaterial t y)
  { l with copies := copies, sharers := sharersOf base copies, st := if copies = [] then .unshared else .shared
           wts := (latest (mine.map (·.wts))).getD l.wts, rts := (latest (mine.map (·.rts))).getD l.rts }

/-- Whether lines of the old leaf's paddock live on in the new leaf's: both in update mode, or both in lease mode. -/
def linesStay (x y : Nat) (s : State) : Bool :=
  leafHome x == 2 && leafHome y == 2 && padMode s (leafPad x) == padMode s (leafPad y) && decide (padMode s (leafPad x) < 2)

/-- A core's copy of a lease line at the new home; one of another size is dropped, and so is what was held of the new frame before. -/
def newCopy (x y a b n : Nat) (s : State) (l : LeaseCopy) : Option LeaseCopy :=
  if !inRange a n l.base then (if inRange b n l.base then none else some l)
  else if linesStay x y s ∧ l.data.length = padLine s (leafPad y) then some { l with pad := leafPad y, base := l.base - a + b }
  else none

/-- Home clocks no lower than the timestamps that have come to their slices (R324). -/
def raiseClocks (ts : List (Nat × BitVec 16)) (s : State) : State :=
  ts.foldl (fun s t => setHomeClock t.1 (serialMax (homeClock s t.1) t.2) s) s

/-- The lines and copies of a page at its new home, and their slices' clocks; old are its lines before, which have been written home. Lines
held over the new frame before the page came there go: they would hide its bytes. -/
def moveLines (x y a b n : Nat) (old : List Line) (s : State) : State :=
  let new := if linesStay x y s then (newBases a b (padLine s (leafPad y)) old).map (newLine y a b old s) else []
  let cores := (s.cores.map fun c => (c.1, { c.2 with leases := c.2.leases.filterMap (newCopy x y a b n s) })).filter fun c => c.2 != emptyCore
  let ts := cores.flatMap fun c => (c.2.leases.filter fun l => inRange b n l.base).map fun l => (l.base, l.rts)
  raiseClocks (if padMode s (leafPad y) = 1 then new.map (fun l => (l.base, l.rts)) ++ ts else [])
    { s with lines := new ++ s.lines.filter fun l => !inRange a n l.base && !inRange b n l.base, cores := cores }

/-- Presence bits go with a page from one quarter to another; a frame has none, and a page that comes to a quarter from a frame finds them
empty (R165; log entry 78). -/
def movePresence (x y dom va a b n : Nat) (s : State) : State :=
  let rest := s.feFull.filter fun k => !inRange (a / 4) (n / 4) k && !inRange (b / 4) (n / 4) k
  let here := if leafHome x = 1 ∧ a = b then ((smapFind s.pins (a / 65536)).map (·.maps)).getD [] else []
  let pins := if leafHome x = 1 then smapDel s.pins (a / 65536) else s.pins
  { s with
    feFull := if leafHome x = 1 ∧ leafHome y = 1 then moveSet (a / 4) (b / 4) (n / 4) s.feFull else if leafHome y = 1 then rest
      else s.feFull.filter fun k => !(leafHome x == 1 && inRange (a / 4) (n / 4) k)
    pins := if leafHome y = 1 then smapPut pins (b / 65536) { frame := leafFrame y, owner := leafOwner y, maps := if here.contains (dom, va) then here else (dom, va) :: here }
      else pins
    tlb := if leafHome x = 1 ∧ a ≠ b then unpinEntries [a / 65536] s.tlb else s.tlb }

/-- Moves a page from one place to another with everything that belongs to it (R229). -/
def movePage (x y dom va : Nat) (s : State) : State :=
  let n := pageSize (leafSize x)
  let a := leafLoc x va
  let b := leafLoc y va
  let old := s.lines.filter fun l => inRange a n l.base
  let s := old.foldl (fun s l => lineClean l.pad l.base (foldLine l.pad l.base (settleLine l.pad l.base s))) s
  let old := s.lines.filter fun l => inRange a n l.base
  let req (r : FeReq) : FeReq := { r with loc := moveLoc a b n r.loc }
  moveLines x y a b n old (movePresence x y dom va a b n
    { s with
      mem := moveBytes a b n (leafMaterial s x) s
      sectorKeys := moveKeys b n (leafMaterial s y) s
      checks := moveChecks a b n (leafMaterial s x) s
      poison := moveSet (a / 32) (b / 32) (n / 32) s.poison
      lost := (s.lost.filter fun e => a == b || !inRange b n e.1).map fun e => (moveLoc a b n e.1, e.2)
      feQueue := s.feQueue.map req, feRetry := s.feRetry.map req
      held := s.held.map fun h => if h.what.op.scratch then h else
        { h with what := { h.what with places := h.what.places.map fun p => (p.1, moveLoc a b n p.2.1, p.2.2) } }
      sync := (s.sync.filter fun r => a == b || !inRange (b / 128) (n / 128) r.unit).map fun r =>
        { r with unit := moveLoc (a / 128) (b / 128) (n / 128) r.unit }
      dirty := moveSet a b n s.dirty })

/-- HOME_CHANGE_COMPLETE (R229): the page moves as one step, its leaf is installed, and the old translation goes. -/
def execHomeChangeComplete (dom va : Nat) (s : State) : Out :=
  .next (match s.homeChanges.find? fun h => h.dom == dom && h.va == va with
    | none => s
    | some h =>
      let s := { s with homeChanges := s.homeChanges.filter fun k => !(k.dom == dom && k.va == va) }
      let y := h.leaf.toNat
      match leafOf s dom va with
      | none => packetDone h.queue h.seq (signalDone h.queue h.qdom h.signal 0x41 0 0 0 s)
      | some (x, pa) =>
        let s := physWrite pa (leBytes 16 y) (movePage x y dom va s)
        let s := { s with tlb := s.tlb.filter fun e => !(e.dom == dom && inRange va (pageSize (leafSize x)) e.va) }
        packetDone h.queue h.seq (signalDone h.queue h.qdom h.signal 0 0 0 0 s))

end Sys2Proof.Machine
end

