-- ==== Sys2Proof/Machine/FaultEvents.lean ====
section
/-! DEFINITION. The fault ring's registers: entries held back, and resumption (R195, R257, R258, R365, R379, R380). -/

namespace Sys2Proof.Machine

/-- Makes the writing of a held-back entry due, where there is one. -/
def pokeFaults (s : State) : State := if s.faults.any fun e => !e.written then due .faultEntryDeferredWrite s else s

/-- FAULT_ENTRY_DEFERRED_WRITE (R258): the oldest entry held back is written once the ring takes it. -/
def execFaultEntryDeferredWrite (s : State) : Out :=
  .next (match s.faults.find? fun e => !e.written with
    | some e => if ringOpen s then pokeFaults (writeFault e s) else s
    | none => s)

/-- FAULT_RING_WRITE (R258). -/
def execFaultRingWrite (port : Port) (value : Nat) (s : State) : Out :=
  .next (configWrite port (fun s => pokeFaults { s with mgmt := { s.mgmt with faultRing := bits value 56 12 } }) s)

/-- A workgroup joins class 1, after those before it (R249). -/
def joinFirst (l k : Nat) (s : State) : State := { updWg l k (fun w => { w with phase := .resumed s.fresh }) s with fresh := s.fresh + 1 }

/-- A page of a saved workgroup is resumed (R257). -/
def resumePage (l k tag : Nat) (fail : Bool) (rcd : Option TrapRec) (s : State) : State :=
  let w := wgOf s l k
  if w.phase ≠ .saved 2 ∨ !w.tags.contains tag then s
  else match if fail then rcd else none with
    | some r => failSaved l k r s
    | none =>
      let s := updWg l k (fun w => { w with tags := setErase w.tags tag }) s
      if (wgOf s l k).tags = [] then joinFirst l k s else s

/-- Whether a handle's engine waits on a tag. -/
def waitsOn (tag : Nat) (x : Handle) : Bool := x.job.any fun j => j.tag == some tag

/-- A handle whose engine may go on. -/
def untagged (x : Handle) : Handle := { x with job := x.job.map fun j => { j with tag := none } }

/-- The failure row of R194 on a saved handle. -/
def failedHandle (va : Nat) (x : Handle) : Handle :=
  { x with st := if x.st = .draining then .free else .full, fault := true, cause := 0x13, failVa := va, job := none, coll := none,
           slices := [] }

/-- Whether a workgroup has met a trap, or is stopped with its launch: a resume of its page faults is ignored, and its frame stays as it was
written (R252, R359). -/
def pastResume (w : Wg) : Bool := w.phase == .stopped || (w.trap.isSome && !w.holding)

/-- A copy engine's page is resumed: on its core, or where its workgroup is saved (R195, R257). -/
def resumeCopy (core h tag va : Nat) (fail : Bool) (s : State) : State :=
  let owner := (handleAt s core h).owner.getD (0, 0)
  if waitsOn tag (handleAt s core h) then
    if pastResume (wgOf s owner.1 owner.2) then s
    else if fail then settleHandle core h true 0x13 va s
    else due (.copyLastByteLanded core h) (setHandle core h (untagged (handleAt s core h)) s)
  else match s.wgs.find? fun w => w.core == core && waitsOn tag (smapGet emptyHandle w.keptJobs h) && !pastResume w with
    | none => s
    | some w =>
      let x := smapGet emptyHandle w.keptJobs h
      let y := if fail then failedHandle va x else untagged x
      let s := updWg w.launch w.index (fun w => { w with keptJobs := smapPut w.keptJobs h y }) s
      if !fail then s
      else match putPieces (launchOf s w.launch) w.index [(0x10000 + 0x1000 * h, handleBytes y)] s with
        | (s, true) => s
        | (s, false) => endIfDrained w.launch (frameLost w.launch s)

/-- A multicast's page is resumed. -/
def resumeMcast (uid va : Nat) (fail : Bool) (s : State) : State :=
  let s := updMcast uid (fun m =>
    if fail then { m with job := none, fail := some (0x13, va) } else { m with job := m.job.map fun j => { j with tag := none } }) s
  match s.mcasts.find? fun m => m.uid == uid with
  | some m => m.cores.foldl (fun s c => due (.mcastDelivery uid c) s) s
  | none => s

/-- A packet copy's page is resumed. -/
def resumePacket (q seq : Nat) (fail : Bool) (s : State) : State :=
  match s.packets.find? fun p => p.queue == q && p.seq == seq with
  | none => s
  | some p =>
    if fail then completePacket p (packetNat p.body 0x20 8) 0x50 (dropPacket p s)
    else due (.copyPacket q)
      { s with packets := updFirst (fun p => p.queue == q && p.seq == seq) (fun p => { p with tag := none }) s.packets }

/-- Drops a core's cached words of a code object (R380). -/
def dropObjectWords (core : Nat) (o : CodeObj) (s : State) : State :=
  dropWords (inRange (icacheKey o.dom o.va) o.len) core s

/-- A workgroup held at a breakpoint is released, or stopped (R380). -/
def resumeHeld (l k : Nat) (fail : Bool) (s : State) : State :=
  let w := wgOf s l k
  if w.phase ≠ .held then s
  else if fail then
    let s := updWg l k (fun w => { w with phase := .stopped }) s
    endIfDrained l (stopLaunch l { status := 0x60, trapped := true, cause := 0x31, index := k } s)
  else
    let o := objOf s (launchOf s l).obj
    joinFirst l k (dropObjectWords w.core o (fenceWg (inRange (icacheKey o.dom o.va) o.len) l k (updWg l k (fun w => { w with tags := [] }) s)))

/-- FAULT_RESUME_WRITE (R257, R258): the entry with a tag is resumed, from either port. -/
def execFaultResumeWrite (_port : Port) (value : Nat) (s : State) : Out :=
  let tag := bits value 31 0
  let fail := bitAt value 32
  let s := if fwReady s then { s with mgmt := { s.mgmt with faultResume := value % 2 ^ 33 } } else s
  .next (if !fwReady s then s
    else match s.faults.find? fun e => e.tag == tag && e.written with
      | none => s
      | some e =>
        let s := { s with faults := s.faults.filter fun x => x.tag != tag }
        pokeFaults (match e.who with
          | .wg l k => resumePage l k tag fail e.rcd s
          | .copy core h => resumeCopy core h tag e.va fail s
          | .mcast uid => resumeMcast uid e.va fail s
          | .packet q n => resumePacket q n fail s
          | .held l k => resumeHeld l k fail s))

end Sys2Proof.Machine
end

