-- ==== Sys2Proof/Machine/Mgmt.lean ====
section
/-! DEFINITION. The management window: ownership, speed, apertures, translation invalidation and what the module reports (R20 to R22, R26 to
R36, R335, R339, R375, R377). -/

namespace Sys2Proof.Machine

def setPort (p : Port) (x : PortRegs) (s : State) : State :=
  match p with
  | .portA => { s with portA := x }
  | .portB => { s with portB := x }

def otherPort (p : Port) : Port :=
  match p with
  | .portA => .portB
  | .portB => .portA

def setMgmt (f : Mgmt → Mgmt) (s : State) : State := { s with mgmt := f s.mgmt }

/-! ### Ownership (R35, R36) -/

/-- CFG_OWN as a port reads it. -/
def cfgOwn (s : State) (p : Port) : Nat :=
  let m := s.mgmt
  let owner := match m.owner with
    | none => 0
    | some .portA => 1
    | some .portB => 2
  m.refused % 65536 * 65536 + m.grants % 256 * 256 + (if m.owner = some p then 4 else 0) + owner

/-- A read of CFG_OWN returns to its port. -/
def answerOwn (p : Port) (s : State) : State := setPort p { portRegs s p with out := cfgOwn s p, outFailed := false, outPoisoned := false, reading := false } s

/-- CFG_OWN_READ (R36): an acquire attempt, decided at the end of its tick where there is no owner. -/
def execCfgOwnRead (port : Port) (s : State) : Out :=
  .next (if s.mgmt.owner.isSome then answerOwn port s
    else due .cfgOwnTickDecision (setPort port { portRegs s port with reading := true } s))

/-- Who wins a tick (R36): the only reader, or of two the port that did not receive the last grant; port A where none was made. -/
def tickWinner (s : State) : Option Port :=
  match s.portA.reading, s.portB.reading with
  | true, true => some (if s.mgmt.lastGrant = some .portA then .portB else .portA)
  | true, false => some .portA
  | false, true => some .portB
  | false, false => none

/-- The end of a tick of TIMEBASE decides the reads that arrived in it (R36). -/
def endTick (s : State) : State :=
  match tickWinner s with
  | none => s
  | some p =>
    let s := if s.mgmt.owner.isSome then s
      else setMgmt (fun m => { m with owner := some p, grants := (m.grants + 1) % 256, refused := 0, lastGrant := some p, lapse := false }) s
    [Port.portA, Port.portB].foldl (fun s q => if (portRegs s q).reading then answerOwn q s else s) s

/-- CFG_OWN_WRITE (R36): the owner's write of 0b00 releases ownership. -/
def execCfgOwnWrite (port : Port) (value : Nat) (s : State) : Out :=
  .next (if s.mgmt.owner = some port ∧ value % 4 = 0 then setMgmt (fun m => { m with owner := none, lapse := false }) s else s)

/-- PORT_LINK_LOSS (R36): ownership lapses. A read of CFG_OWN that waits for its tick's decision is lost with the link and takes no part in
it, of which R36 says nothing (DESIGN CHOICE, log entry 104). -/
def execPortLinkLoss (port : Port) (s : State) : Out :=
  let s := setPort port { portRegs s port with reading := false } s
  .next (if s.mgmt.owner = some port then due .ownershipLapse (setMgmt (fun m => { m with lapse := true }) s) else s)

/-- OWNERSHIP_LAPSE (R36). -/
def execOwnershipLapse (s : State) : Out :=
  .next (if s.mgmt.lapse then setMgmt (fun m => { m with owner := none, lapse := false }) s else s)

/-! ### Speed (R26, R27, R32, R33) -/

def Speed.code : Speed → Nat
  | .full => 0
  | .balanced => 1
  | .cool => 2

def speedOf (n : Nat) : Speed := if n = 0 then .full else if n = 1 then .balanced else .cool

def slower (a b : Speed) : Speed := speedOf (max a.code b.code)

def limitOf (s : State) (i : Nat) : Speed := smapGet .full s.mgmt.limits i
def thermalOf (s : State) (i : Nat) : Speed := smapGet .full s.mgmt.thermal i
/-- ISLAND_NOW of an island: a changed mode shows once its clock has switched (R27, R33; DEDUCED, log entry 79). An island leaves reset in
Cool mode (R37). -/
def speedNow (s : State) (i : Nat) : Speed := smapGet .cool s.mgmt.now i

/-- The effective speed mode of an island (R26). -/
def effectiveSpeed (s : State) (i : Nat) : Speed := slower s.mgmt.speed (slower (limitOf s i) (thermalOf s i))

/-- An island's hottest sensor, in units of 0.01 °C. -/
def sensorOf (s : State) (i : Nat) : Nat := smapGet 0 s.mgmt.sensors i

/-- The slower of the two settings beside an island's thermal step (R26). -/
def otherSettings (s : State) (i : Nat) : Speed := slower s.mgmt.speed (limitOf s i)

/-- The thermal step that an island owes: what R26 has made of it up to now, which the thermal events bring about mode by mode. -/
def owedStep (s : State) (i : Nat) : Speed := smapGet .full s.mgmt.steps i

/-- How many modes an island has to drop since the span that hotSince begins: one for each ms above 100 °C (R26). -/
def hotDrops (s : State) (i : Nat) : Nat :=
  if 10000 < sensorOf s i then (s.time - smapGet 0 s.mgmt.hotSince i) / 1000000 else 0

/-- How many modes an island may rise since the span that coolSince begins: one for each 10 ms below 90 °C (R26). Between 90 and 100 °C a
lowered step stays as it is (DESIGN CHOICE, log entry 60). -/
def coolRises (s : State) (i : Nat) : Nat :=
  if sensorOf s i < 9000 then (s.time - smapGet 0 s.mgmt.coolSince i) / 10000000 else 0

/-- Whether an island can rise a mode: not above the other two settings. -/
def mayRise (s : State) (i : Nat) : Bool :=
  thermalOf s i != .full && decide ((otherSettings s i).code < (thermalOf s i).code)

/-- What an island owes of a rise that its other settings no longer allow goes. -/
def allowedStep (s : State) (i : Nat) : Nat :=
  if (thermalOf s i).code ≤ (owedStep s i).code then (owedStep s i).code
  else max (owedStep s i).code (min (thermalOf s i).code (otherSettings s i).code)

/-- What an island's sensor and the time have made due (R26): a mode down for each ms above 100 °C, a mode up for each 10 ms below 90 °C but
not above the other two settings, and the stop of the module where an island already at Cool exceeds 110 °C. What has become due stays so
when the sensor falls. -/
def latchIsland (s : State) (i : Nat) : State :=
  let r := sensorOf s i
  let others := (otherSettings s i).code
  let drops := hotDrops s i
  let now := allowedStep s i
  let rises := min (coolRises s i) (now - others)
  let step := speedOf (now + drops - rises)
  if now = 0 ∧ drops = 0 ∧ r ≤ 11000 then s
  else
    setMgmt (fun m => { m with
      steps := smapSet .full m.steps i step
      hotSince := smapSet 0 m.hotSince i (smapGet 0 m.hotSince i + 1000000 * drops)
      coolSince := if r < 9000
        then smapSet 0 m.coolSince i (max (smapGet 0 m.coolSince i + 10000000 * rises) (s.time - 10000000))
        else m.coolSince
      stops := if 11000 < r ∧ slower (otherSettings s i) step = .cool ∧ !m.thermalStop then setInsert m.stops i else m.stops }) s

/-- The thermal events that are due (R26). -/
def dueThermal (s : State) : List Instr :=
  (List.range 64).flatMap fun i =>
    (if s.mgmt.stops.contains i then [.thermalStop i] else []) ++
    (if (thermalOf s i).code < (owedStep s i).code then [.thermalStepDown i] else []) ++
    if (owedStep s i).code < (thermalOf s i).code ∧ mayRise s i then [.thermalStepUp i] else []

/-- Makes what R26 asks of the islands due. -/
def pokeThermal (s : State) : State :=
  let t := (List.range 64).foldl latchIsland s
  (dueThermal t).foldl (fun s e => due e s) t

/-- Makes the clock switch of every island whose mode changes due, and what follows for its thermal step. -/
def pokeSpeed (s : State) : State :=
  pokeThermal ((List.range 64).foldl (fun s i => if effectiveSpeed s i = speedNow s i then s else due (.islandClockSwitch i) s) s)

/-- PWR_MODE_WRITE (R32). -/
def execPwrModeWrite (port : Port) (value : Nat) (s : State) : Out :=
  .next (configWrite port (fun s =>
    if value % 4 = 3 then s
    else pokeSpeed (setMgmt (fun m => { m with speed := speedOf (value % 4), narrow := bitAt value 2 }) s)) s)

/-- ISLAND_LIMIT_WRITE (R33): 32 islands; 0b11 leaves a field unchanged. -/
def execIslandLimitWrite (port : Port) (upper : Bool) (value : Nat) (s : State) : Out :=
  .next (configWrite port (fun s =>
    pokeSpeed (setMgmt (fun m => { m with limits := (List.range 32).foldl (fun l i =>
      let f := bits value (2 * i + 1) (2 * i)
      if f = 3 then l else smapSet .full l ((if upper then 32 else 0) + i) (speedOf f)) m.limits }) s)) s)

def setThermal (i : Nat) (x : Speed) (s : State) : State := pokeSpeed (setMgmt (fun m => { m with thermal := smapSet .full m.thermal i x }) s)

/-- A sensor's new reading: the spans of R26 begin where it crosses their limits, and PWR_STATUS shows the hottest (R34). -/
def heat (i reading : Nat) (s : State) : State :=
  let r := reading % 65536
  let old := sensorOf s i
  let t := setMgmt (fun m => { m with
    sensors := smapSet 0 m.sensors i r
    hotSince := if 10000 < r ∧ old ≤ 10000 then smapSet 0 m.hotSince i s.time else m.hotSince
    coolSince := if r < 9000 ∧ 9000 ≤ old then smapSet 0 m.coolSince i s.time else m.coolSince }) s
  pokeThermal (setMgmt (fun m => { m with hottest := m.sensors.foldl (fun a e => max a e.2) 0 }) t)

/-- THERMAL_STEP_DOWN (R26): the sensor has exceeded 100 °C for 1 ms, once more. -/
def execThermalStepDown (island : Nat) (s : State) : Out :=
  .next (if 64 ≤ island ∨ (owedStep s island).code ≤ (thermalOf s island).code then s
    else setThermal island (speedOf ((thermalOf s island).code + 1)) s)

/-- THERMAL_STEP_UP (R26): the sensor has stayed below 90 °C for 10 ms; not above the other two settings. -/
def execThermalStepUp (island : Nat) (s : State) : Out :=
  .next (if 64 ≤ island ∨ (thermalOf s island).code ≤ (owedStep s island).code ∨ !mayRise s island then s
    else setThermal island (speedOf ((thermalOf s island).code - 1)) s)

/-- THERMAL_STOP (R26): an island already at Cool has exceeded 110 °C: the module stops; queues dispatch no more, and both ports are told.
What is running runs on (DEDUCED, log entry 79). -/
def execThermalStop (island : Nat) (s : State) : Out :=
  .next (if s.mgmt.stops.contains island
    then setMgmt (fun m => { m with thermalStop := true, thermalEvent := true, stops := [] }) s else s)

/-- ISLAND_CLOCK_SWITCH (R27). -/
def execIslandClockSwitch (island : Nat) (s : State) : Out :=
  .next (if 64 ≤ island then s else setMgmt (fun m => { m with now := smapSet .cool m.now island (effectiveSpeed s island) }) s)

/-- CXL_DEVICE_ENUMERATION (R20): only Type 3 is enabled; the port's status tells of any other. -/
def execCxlDeviceEnumeration (cxlPort devType : Nat) (s : State) : Out :=
  .next (if 8 ≤ cxlPort then s
    else setMgmt (fun m => { m with cxl := smapPut m.cxl cxlPort (if devType = 3 then 1 else 2) }) s)

/-! ### Other registers (R21, R22, R335, R340, R375, R377) -/

/-- Whether the mailbox of a port takes data: firmware or the boot ROM serves it (R344). -/
def mboxServed (s : State) : Bool := fwReady s || decide (0x80 ≤ s.mgmt.fwState)

/-- Writes 8 bytes of MBOX_DATA. -/
def mboxPut (off value : Nat) (x : Mbox) : Mbox :=
  { x with data := (List.range 8).foldl (fun m i => smapSet 0 m (off + i) (BitVec.ofNat 8 (value / 256 ^ i))) x.data }

/-- CONFIG_REGISTER_WRITE (R21): a register without a row of its own; MBOX_DATA and TLB_INV_VA are no configuration registers. -/
def execConfigRegisterWrite (port : Port) (offset value : Nat) (s : State) : Out :=
  .next (if 0x1000 ≤ offset ∧ offset < 0x2000 then
      let x := portRegs s port
      if mboxServed s && offset % 8 == 0 then setPort port { x with mbox := mboxPut (offset - 0x1000) value x.mbox } s else s
    else match offset with
      | 0x300 => if fwReady s then setPort port { portRegs s port with tlbVa := BitVec.ofNat 64 (value % 2 ^ 57) } s else s
      | 0x60 => configWrite port (setMgmt fun m => { m with apBase := bits value 56 36 }) s
      | 0x400 => configWrite port (setMgmt fun m => { m with runMs := bits value 63 32, blockedUs := bits value 31 0 }) s
      | 0x410 => configWrite port (setMgmt fun m => { m with errRing := bits value 56 12 }) s
      | 0x428 => configWrite port (setMgmt fun m => { m with hold := bitAt value 0 }) s
      | _ => s)

/-! ### Apertures (R22, R370) -/

/-- A failed aperture access. -/
def apertureFails (p : Port) (s : State) : State :=
  let x := portRegs s p
  setPort p { x with apFailures := min 0xFFFF (x.apFailures + 1) } s

def apertureVa (s : State) (offset : Nat) : Nat := s.mgmt.apBase * 2 ^ 36 + offset

/-- Whether an aperture access has an accepted size, alignment and place. -/
def apertureFits (sizes : List Nat) (offset n : Nat) : Bool := sizes.contains n && offset % n == 0 && decide (offset + n ≤ 2 ^ 36)

/-- A read through an aperture: all bits one where it fails. -/
def apertureRead (port : Port) (offset size : Nat) (s : State) : State :=
  let fails (s : State) : State :=
    let s := apertureFails port s
    setPort port { portRegs s port with out := 256 ^ size - 1, outFailed := true, outPoisoned := false } s
  if !apertureFits [1, 2, 4, 8] offset size then fails s
  else match devicePage 0 true .read (apertureVa s offset) s with
    | (s, none) => fails s
    | (s, some x) =>
      let va := apertureVa s offset
      let s := verifyElement x va size s
      let (s, b) := loadBytes none x va size s
      setPort port { portRegs s port with out := leNat b, outFailed := false, outPoisoned := elementBad s x va size } s

/-- APERTURE_READ (R22). -/
def execApertureRead (port : Port) (offset size : Nat) (s : State) : Out := .next (apertureRead port offset size s)

/-- Poisons the sectors that a port's write reached, where its data came with poison set (R370). -/
def apertureTaints (va n : Nat) (s : State) : State :=
  match devicePage 0 true .write va s with
  | (s, some x) => (sectorsOf (leafLoc x va) n).foldl (poisonSector 1 0xFFFF (leafOwner x)) s
  | (s, none) => s

/-- APERTURE_WRITE (R22): a write that fails is discarded. -/
def execApertureWrite (port : Port) (offset : Nat) (data : BusData) (s : State) : Out :=
  let n := data.bytes.length
  .next (if !apertureFits [1, 2, 4, 8, 32, 64] offset n then apertureFails port s
    else match deviceWrite 0 true (apertureVa s offset) data.bytes s with
      | (s, true) => if data.poisoned then apertureTaints (apertureVa s offset) n s else s
      | (s, false) => apertureFails port s)

/-! ### Invalidation (R335) -/

/-- Whether a cached translation lies in a range of a domain: count 0 is the whole domain. -/
def tlbHit (dom first count : Nat) (e : TlbEntry) : Bool :=
  e.dom == dom && (count == 0 || (decide (e.va < (first + count) * 65536) && decide (first * 65536 < e.va + e.size)))

/-- Whether a mapping of a pinned page lies in a range of a domain. -/
def pinMapHit (dom first count : Nat) (k : Nat × Nat) : Bool :=
  k.1 == dom && (count == 0 || (decide (k.2 < (first + count) * 65536) && decide (first * 65536 ≤ k.2)))

/-- Whether a mapping's leaf entry still pins a page in a quarter. -/
def stillPins (s : State) (q : Nat) (p : Pin) (k : Nat × Nat) : Bool :=
  match walkFrom s k.2 4 0 (domRoot (domDesc s k.1)) with
  | .leaf x _ => pinQuarter x k.2 == some q && leafFrame x == p.frame && leafOwner x == p.owner
  | _ => false

/-- Drops a domain's cached translations over a range; pages that their leaf entries no longer pin are unpinned with them (R165; log entry
78). -/
def dropTlb (dom first count : Nat) (s : State) : State :=
  let s := dropEntries (tlbHit dom first count) s
  let stale := s.pins.flatMap fun e => e.2.maps.filter fun k => pinMapHit dom first count k && !stillPins s e.1 e.2 k
  stale.foldl (fun s k => unpinMap k.1 k.2 none s) s

/-- The instructions of a domain's flocks that have accessed memory and are not complete. One that is held has accessed nothing, and
translates again when it is performed (R187; log entry 8). -/
def openAccesses (s : State) (dom : Nat) : List (Nat × List Nat) :=
  s.cores.flatMap fun k => k.2.flocks.flatMap fun f =>
    if (launchOf s f.2.launch).dom = dom then (f.2.pending.filter fun p => p.units != []).map fun p => (p.uid, p.units) else []

/-- Whether a translation led to a location. -/
def leadsTo (loc : Nat) (e : TlbEntry) : Bool :=
  e.absent.isNone && decide (leafLoc e.leaf.toNat e.va ≤ loc) && decide (loc < leafLoc e.leaf.toNat e.va + e.size)

/-- Whether a unit of virtual addresses lies in a range. -/
def unitHit (first count u : Nat) : Bool := count == 0 || (decide (first ≤ u) && decide (u < first + count))

/-- Whether a unit of virtual addresses lies in a range, or in the page of a translation that meets it. -/
def unitUsed (first count : Nat) (old : List TlbEntry) (u : Nat) : Bool :=
  unitHit first count u || old.any fun e => decide (e.va ≤ u * 65536) && decide (u * 65536 < e.va + e.size)

/-- What an invalidation waits for (R335): the domain's full-empty requests and other open accesses to the range and to the pages of the
translations that it drops, and the lines that a write through such a translation, held or dropped since, left in Updating. -/
def usersOf (dom first count : Nat) (s : State) : Awaited :=
  let old := (s.tlb ++ s.dropped).filter (tlbHit dom first count)
  let asks := (s.feQueue ++ s.feRetry).filter fun q =>
    (launchOf s (flockAt s q.core q.slot).launch).dom == dom && unitUsed first count old (q.va / 65536)
  { uids := asks.map (·.uid) ++ ((openAccesses s dom).filter fun p => p.2.any (unitUsed first count old)).map (·.1)
    lines := (s.lines.filter fun l => l.st == .updating && old.any (leadsTo l.base)).map fun l => (l.pad, l.base) }

/-- Whether all that an invalidation waits for has come to its completion point. -/
def usersDone (s : State) (dom : Nat) (a : Awaited) : Bool :=
  !(s.feQueue ++ s.feRetry).any (fun r => a.uids.contains r.uid) && !(openAccesses s dom).any (fun p => a.uids.contains p.1) &&
  a.lines.all fun l => (findLine s l.1 l.2).all fun x => x.st != .updating

/-- Translations of a range whose accesses are awaited need not be kept in mind any longer. -/
def forget (dom first count : Nat) (s : State) : State := { s with dropped := s.dropped.filter fun e => !tlbHit dom first count e }

/-- Makes the acknowledgements of lines due. -/
def dueAcks (a : Awaited) (s : State) : State := a.lines.foldl (fun s l => due (.updateSharerAck l.1 l.2) s) s

/-- Starts an invalidation of a port: it drops, and waits for the accesses that used what it drops. -/
def startInval (p : Port) (r : Nat × Nat × Nat) (s : State) : State :=
  let a := usersOf r.1 r.2.1 r.2.2 s
  due (.tlbInvalidationDone p) (dueAcks a
    (setPort p { portRegs s p with tlbBusy := some r, tlbHeld := a } (forget r.1 r.2.1 r.2.2 (dropTlb r.1 r.2.1 r.2.2 s))))

/-- Drops a domain's translations over a range, and has the running command wait for the accesses that used them (R331, R335, R346). -/
def dropAndAwait (dom first count : Nat) (s : State) : State :=
  let a := usersOf dom first count s
  let add (m : Mgmt) : Mgmt :=
    { m with awaitDom := dom, awaited := { uids := m.awaited.uids ++ a.uids, lines := m.awaited.lines ++ a.lines } }
  dueAcks a (setMgmt add (forget dom first count (dropTlb dom first count s)))

/-- TLB_INV_GO_WRITE (R335): a second one waits for the first. -/
def execTlbInvGoWrite (port : Port) (value : Nat) (s : State) : Out :=
  let x := { portRegs s port with tlbGo := value % 1024 }
  let r := (value % 1024, bits x.tlbVa.toNat 56 16, bits x.tlbVa.toNat 15 0)
  .next (if !fwReady s then s
    else if x.tlbBusy.isSome then setPort port { x with tlbNext := x.tlbNext ++ [r] } s
    else startInval port r (setPort port x s))

/-- Whether an invalidation has waited for all it must. -/
def invalReady (s : State) (p : Port) : Bool :=
  match (portRegs s p).tlbBusy with
  | some r => usersDone s r.1 (portRegs s p).tlbHeld
  | none => false

/-- TLB_INVALIDATION_DONE (R335). -/
def execTlbInvalidationDone (port : Port) (s : State) : Out :=
  .next (if !invalReady s port then s
    else
      let x := portRegs s port
      let s := setPort port
        { x with tlbBusy := none, tlbHeld := { uids := [], lines := [] }, tlbDone := (x.tlbDone + 1) % 2 ^ 64, tlbNext := x.tlbNext.tail } s
      match x.tlbNext.head? with
      | some r => startInval port r s
      | none => s)

/-! ### Reads (R29 to R35, R258, R335, R339, R375, R377) -/

/-- FEATURES (R339). -/
def featureWord (s : State) : Nat := 0x3B + if s.mgmt.stepping = 2 then 4 else 0

/-- DEV_ID (R30). -/
def devId (s : State) : Nat := 0xABA0 * 2 ^ 48 + 0x9624 * 2 ^ 32 + s.mgmt.stepping % 256 * 2 ^ 24 + s.mgmt.fuse % 256 * 2 ^ 16

/-- Fields of two bits of 32 islands. -/
def islandFields (first : Nat) (f : Nat → Speed) : Nat := ((List.range 32).map fun i => (f (first + i)).code * 4 ^ i).sum

/-- MBOX_STATUS: busy while a command runs, and while the boot ROM does not serve the mailbox (R340, R344). -/
def mboxStatus (s : State) (p : Port) : Nat :=
  let x := (portRegs s p).mbox
  x.tag % 2 ^ 32 * 2 ^ 32 + x.status % 256 * 256 + if x.run.isSome || !mboxServed s then 1 else 0

/-- A 64-bit register of the management window as a port reads it; CFG_OWN's read, which acts, has its own event. -/
def readMgmt (s : State) (p : Port) (offset : Nat) : Nat :=
  let m := s.mgmt
  match offset with
  | 0x000 => devId s
  | 0x008 => s.time % 2 ^ 64
  | 0x010 => featureWord s
  | 0x060 => m.apBase * 2 ^ 36 + (portRegs s p).apFailures
  | 0x080 => m.speed.code + if m.narrow then 4 else 0
  | 0x088 => m.watts % 65536 * 2 ^ 32 + m.hottest % 65536 * 2 ^ 16 +
      ((List.range 64).countP fun i => decide (m.speed.code < (thermalOf s i).code)) * 256 + if m.thermalStop then 1 else 0
  | 0x100 => islandFields 0 (limitOf s)
  | 0x108 => islandFields 32 (limitOf s)
  | 0x110 => islandFields 0 (speedNow s)
  | 0x118 => islandFields 32 (speedNow s)
  | 0x200 => m.qTable
  | 0x208 => m.qSync
  | 0x210 => m.faultRing * 4096
  | 0x218 => m.faultHead % 2 ^ 64
  | 0x220 => m.faultResume
  | 0x300 => (portRegs s p).tlbVa.toNat
  | 0x308 => (portRegs s p).tlbGo
  | 0x310 => (portRegs s p).tlbDone
  | 0x380 => m.fwVersion * 65536 + m.fwState
  | 0x390 => mboxStatus s p
  | 0x400 => m.runMs * 2 ^ 32 + m.blockedUs
  | 0x408 => s.failed.length * 2 ^ 48 + m.errPoisoned * 2 ^ 32 + m.errCorrected
  | 0x410 => m.errRing * 4096
  | 0x418 => m.errHead % 2 ^ 64
  | 0x428 => if m.hold then 1 else 0
  | _ => if 0x1000 ≤ offset ∧ offset < 0x2000 then
      ((List.range 8).map fun i => (smapGet (0 : Byte) (portRegs s p).mbox.data (offset - 0x1000 + i)).toNat * 256 ^ i).sum
    else 0

end Sys2Proof.Machine
end

