-- ==== Sys2Proof/Machine/Mailbox.lean ====
section
/-! DEFINITION. The mailbox, and the commands on domains, frames, keys, attestation and firmware; module reset and the boot ROM (R37, R328,
R331, R337 to R345). -/

namespace Sys2Proof.Machine

/-! ### Commands (R340, R341, R344) -/

def cmdCode (c : Nat) : Nat := c % 256
def cmdLength (c : Nat) : Nat := bits c 31 8
def cmdTag (c : Nat) : Nat := bits c 63 32

/-- The codes of R341. -/
def cmdCodes : List Nat := [0x10, 0x11, 0x12, 0x13, 0x14, 0x20, 0x30, 0x31, 0x40, 0x41, 0x42, 0x43]

/-- The event in which a command runs. -/
def cmdEvent (p : Port) (c : Nat) : Instr :=
  match cmdCode c with
  | 0x10 => .setDomain p c
  | 0x11 => .tearDownDomain p c
  | 0x12 => .assignFrames p c
  | 0x13 => .loadKey p c
  | 0x14 => .eraseKey p c
  | 0x20 => .attest p c
  | 0x30 => .stageFirmware p c
  | 0x31 => .checkStagedImage p c
  | 0x40 => .loadCodeObject p c
  | 0x41 => .unloadCodeObject p c
  | 0x42 => .translatePortableObject p c
  | 0x43 => .setTranslationCache p c
  | _ => .mboxUnknownCommand p c

/-- Bytes of a port's MBOX_DATA, and a field of it. -/
def mboxBytes (s : State) (p : Port) (off n : Nat) : List Byte := (upFrom off n).map fun k => smapGet 0 (portRegs s p).mbox.data k
def mboxNat (s : State) (p : Port) (off n : Nat) : Nat := leNat (mboxBytes s p off n)

/-- Bytes written to a sparse byte map from an offset. -/
def putBytes (m : SMap Byte) (off : Nat) (d : List Byte) : SMap Byte := (d.zipIdx off).foldl (fun m e => smapSet 0 m e.2 e.1) m

/-- The end of a command: tag, status and result; the other port's command, if it was accepted meanwhile, is served next, before any command
that comes later (R340). -/
def endCmd (p : Port) (c status : Nat) (result : List Byte) (s : State) : State :=
  let x := portRegs s p
  let m := { x.mbox with run := none, tag := cmdTag c, status := status, data := putBytes x.mbox.data 0 result }
  let s := setPort p { x with mbox := m } s
  match (portRegs s (otherPort p)).mbox.run with
  | some d => due (cmdEvent (otherPort p) d) (setMgmt (fun m => { m with serving := some (otherPort p) }) s)
  | none => setMgmt (fun m => { m with serving := none }) s

/-- A write without ownership is counted, as that of a configuration register (R36, R339). -/
def countRefused (s : State) : State := setMgmt (fun m => { m with refused := min (2 ^ 16 - 1) (m.refused + 1) }) s

/-- A command refused when it is written. -/
def refuseCmd (p : Port) (c status : Nat) (s : State) : State :=
  let x := portRegs s p
  setPort p { x with mbox := { x.mbox with tag := cmdTag c, status := status } } s

/-- What a command answers: a status and a result, or none where it still runs. -/
abbrev CmdEnd : Type := State × Option (Nat × List Byte)

/-- A command's end with a status and no result. -/
def ended (st : Nat) (s : State) : CmdEnd := (s, some (st, []))

/-- Whether the accesses that a command waits for have come to their completion points (R346). -/
def commandDone (s : State) : Bool := usersDone s s.mgmt.awaitDom s.mgmt.awaited

/-- Ends a command that has done its work, or has it wait. -/
def finishCmd (p : Port) (c : Nat) (a : Nat × List Byte) (s : State) : State :=
  if commandDone s then endCmd p c a.1 a.2 (setMgmt (fun m => { m with answer := none, awaited := { uids := [], lines := [] } }) s)
  else setMgmt (fun m => { m with answer := some a }) s

/-- Runs an accepted command, unless the other port's runs. One that has done its work and waits for accesses ends once they are done. -/
def runCmd (p : Port) (c : Nat) (body : State → CmdEnd) (s : State) : State :=
  if s.mgmt.serving.isSome ∧ s.mgmt.serving ≠ some p then s
  else match s.mgmt.answer with
    | some a => finishCmd p c a s
    | none =>
      match body (setMgmt (fun m => { m with serving := some p }) s) with
      | (s, none) => s
      | (s, some a) => finishCmd p c a s

/-- A write of MBOX_CMD (R340, R344): discarded while a command runs or the boot ROM does not serve; refused where the ROM serves only
staging, without ownership, or with data of a wrong length; otherwise accepted. -/
def mailboxOp (code : Nat) (owned : Bool) (need : Nat) (p : Port) (c : Nat) (body : State → CmdEnd) (s : State) : Out :=
  .next (if cmdCode c ≠ code then s
    else match (portRegs s p).mbox.run with
    | some d => if d = c then runCmd p c body s else s
    | none =>
      if !mboxServed s then s
      else if !fwReady s && code != 0x30 && code != 0x31 then refuseCmd p c 0x84 s
      else if owned ∧ s.mgmt.owner ≠ some p then refuseCmd p c 0x80 (countRefused s)
      else if cmdLength c < need ∨ 4096 < cmdLength c then refuseCmd p c 0x82 s
      else
        let x := portRegs s p
        runCmd p c body (setPort p { x with mbox := { x.mbox with run := some c } } s))

/-- MBOX_UNKNOWN_COMMAND (R340). -/
def execMboxUnknownCommand (port : Port) (cmd : Nat) (s : State) : Out :=
  .next (if cmdCodes.contains (cmdCode cmd) ∨ (portRegs s port).mbox.run.isSome ∨ !mboxServed s then s
    else refuseCmd port cmd (if fwReady s then 0x81 else 0x84) s)

/-! ### Domains (R328, R331) -/

/-- Whether an import field is refused: unused with a domain, or naming the domain itself. -/
def importRefused (d i : Nat) : Bool := if i / 1024 = 0 then i != 0 else i % 1024 == d

/-- Whether a descriptor is refused for a domain. -/
def descRefused (s : State) (d x : Nat) : Bool :=
  d == 0 || decide (1024 ≤ d) || bits x 255 192 != 0 || bits x 139 128 != 0 || bits x 68 64 != 0 || bits x 47 4 != 0 || bits x 76 69 != 0 ||
  ((List.range 4).any fun k => importRefused d (domImport x k)) ||
  s.domains.any fun e => e.1 != d && bitAt e.2.toNat 0 && domAsid e.2.toNat == domAsid x

/-- SET_DOMAIN (R328). -/
def execSetDomain (port : Port) (cmd : Nat) (s : State) : Out :=
  mailboxOp 0x10 true 66 port cmd (fun s =>
    let d := mboxNat s port 0 2
    let x := mboxNat s port 2 64
    if descRefused s d x then ended 0x82 s
    else ended 0 (due .packetDispatch (dropTlb d 0 0 { s with domains := smapSet 0 s.domains d (BitVec.ofNat 512 x) }))) s

/-- Stops every launch of a domain; a launch that was dispatched and has not begun ends at once. -/
def stopDomain (d : Nat) (s : State) : State :=
  let ps := s.packets.filter fun p => p.dom == d && p.kind == 1
  let s := ps.foldl (fun s p => completePacket p (packetNat p.body 0x30 8) 0x62 (dropPacket p s)) s
  (s.launches.filter fun l => l.dom == d && !l.ended).foldl (fun s l =>
    endIfDrained l.num (stopLaunch l.num { status := 0x62, trapped := false, cause := 0, index := 0 } s)) s

/-- Withdraws the shares of a domain's paddocks and pin reserves: their lines go home first (R172). -/
def withdrawShares (d : Nat) (s : State) : State :=
  let sharesOf (p : Paddock) : List (Nat × Nat) :=
    (p.rcd :: (p.resize.map (·.old)).toList).flatMap fun r => (shareList r.toNat).map fun b => (recWays r.toNat, b)
  prunePins ((s.paddocks.filter fun e => recOwner e.2.rcd.toNat == d).foldl (fun s e =>
    let bases := (s.lines.filter fun l => l.pad == e.1).map (·.base)
    let s := bases.foldl (fun s b => dropLine e.1 b (lineClean e.1 b (foldLine e.1 b (settleLine e.1 b s)))) s
    updPad e.1 (fun p => { p with withdrawn := sharesOf p }) s) s)

/-- Steps 3 to 6 of a teardown, once its launches have ended: shares, keys, objects, and translations with the wait of R335. Done again,
they change nothing. -/
def clearDomain (d : Nat) (s : State) : State :=
  let s := withdrawShares d s
  let s := { s with keys := s.keys.filter fun e => e.2.owner != d }
  let s := (s.objects.filter fun o => o.dom == d).foldl (fun s o => unsealAll o.granules s) s
  dropAndAwait d 0 0 { s with objects := s.objects.filter fun o => o.dom != d }

/-- Step 7 of a teardown: every granule of the domain goes to domain 0, unsealed. -/
def freeGranules (d : Nat) (s : State) : State :=
  { s with frames := s.frames.map fun e => if e.2.toNat % 1024 = d ∧ bitAt e.2.toNat 15 then (e.1, 0x8000) else e }

/-- TEAR_DOWN_DOMAIN (R331): it goes on when the domain's last launch has ended, and again when the accesses that it awaits are done. -/
def execTearDownDomain (port : Port) (cmd : Nat) (s : State) : Out :=
  mailboxOp 0x11 true 2 port cmd (fun s =>
    let d := mboxNat s port 0 2
    if d = 0 ∨ 1024 ≤ d then ended 0x82 s
    else
      let x := smapGet 0 s.domains d
      let s := stopDomain d { s with domains := smapSet 0 s.domains d (x &&& ~~~1) }
      if s.launches.any fun l => l.dom == d && !l.ended then (s, none)
      else
        let s := clearDomain d s
        if commandDone s then ended 0 (freeGranules d s) else (s, none)) s

/-! ### Frames and keys (R337, R338) -/

/-- Whether a granule cannot be given to an owner: sealed, or another active domain's. -/
def granuleKept (s : State) (owner pa : Nat) : Bool :=
  let o := granuleOwner s pa
  granuleSealed s pa || (o != 0 && o != owner && domActive s o)

/-- Writes zeros with fresh check values over a range, under a key. -/
def scrubRange (base n : Nat) (key : Option (BitVec 512)) (s : State) : State :=
  let sectors := (s.sectorKeys.filter fun e => !inRange (base / 32) (n / 32) e.1)
  { s with
    lines := s.lines.filter fun l => !inRange base n l.base
    mem := s.mem.filter fun e => !inRange base n e.1
    sectorKeys := if key = none then sectors else (upFrom (base / 32) (n / 32)).foldl (fun m k => smapSet none m k key) sectors
    checks := s.checks.filter fun e => !inRange (base / 32) (n / 32) e.1
    poison := s.poison.filter fun k => !inRange (base / 32) (n / 32) k
    lost := s.lost.filter fun e => !inRange base n e.1 }

/-- The key of a loaded id, itself none for the device key, id 0. -/
def keyOf (s : State) (id : Nat) : Option (Option (BitVec 512)) :=
  if id = 0 then some none else (smapFind s.keys id).map fun k => some k.material

/-- ASSIGN_FRAMES (R337). -/
def execAssignFrames (port : Port) (cmd : Nat) (s : State) : Out :=
  mailboxOp 0x12 true 15 port cmd (fun s =>
    let base := mboxNat s port 0 8
    let count := mboxNat s port 8 4
    let owner := mboxNat s port 12 2
    let scrub := mboxNat s port 14 1
    let key := if scrub = 1 then mboxNat s port 15 1 else 0
    if base % 65536 ≠ 0 ∨ 1024 ≤ owner ∨ 1 < scrub ∨ (scrub = 1 ∧ cmdLength cmd < 16) ∨ (keyOf s key).isNone then ended 0x82 s
    else if (List.range count).any fun k => granuleKept s owner (base + 65536 * k) then ended 0x83 s
    else
      let s := if scrub = 1 then scrubRange base (65536 * count) ((keyOf s key).getD none) s else s
      ended 0 { s with frames := (List.range count).foldl (fun m k =>
        smapSet 0 m (base / 65536 + k) (BitVec.ofNat 16 (0x8000 + owner))) s.frames }) s

/-- LOAD_KEY (R338). -/
def execLoadKey (port : Port) (cmd : Nat) (s : State) : Out :=
  mailboxOp 0x13 true 67 port cmd (fun s =>
    let id := mboxNat s port 0 1
    let owner := mboxNat s port 1 2
    if (keyOf s id).isSome ∨ 1024 ≤ owner then ended 0x82 s
    else ended 0 { s with keys := smapPut s.keys id { owner := owner, material := BitVec.ofNat 512 (mboxNat s port 3 64) } }) s

/-- ERASE_KEY (R338). -/
def execEraseKey (port : Port) (cmd : Nat) (s : State) : Out :=
  mailboxOp 0x14 true 1 port cmd (fun s =>
    let id := mboxNat s port 0 1
    if (smapFind s.keys id).isNone then ended 0x82 s else ended 0 { s with keys := smapDel s.keys id }) s

/-! ### Firmware images (R342 to R344) -/

def flashBytes (s : State) (off n : Nat) : List Byte := (upFrom off n).map fun k => smapGet 0 s.mgmt.flash k
def flashNat (s : State) (off n : Nat) : Nat := leNat (flashBytes s off n)

/-- The body of the image in flash, and its header with the body. -/
def imageBody (s : State) : List Byte := flashBytes s 0x80 (flashNat s 8 4)
def imageWhole (s : State) : List Byte := flashBytes s 0 0x80 ++ imageBody s

/-- A digest's bytes. -/
def digestBytes (b : List Byte) : List Byte := leBytes 64 (Config.sha512 b).toNat

/-- The state that R342 gives the image in flash: magic, format, signature, version. An image of which a part is not staged is as one of a
wrong format (R344). -/
def imageState (s : State) : Nat :=
  if flashNat s 0 4 ≠ 0x5CA7B007 then 0x80
  else if s.mgmt.staging.isSome ∨ flashNat s 4 2 ≠ 1 ∨ 1 < flashNat s 7 1 ∨ flashNat s 0x10 48 ≠ 0 ∨ flashNat s 8 4 ≤ flashNat s 12 4 then 0x81
  else if !Config.ed25519Verifies Config.rootKey (digestBytes (flashBytes s 0 0x40 ++ imageBody s)) (flashBytes s 0x40 64) then 0x82
  else if flashNat s 6 1 < s.mgmt.fuse then 0x83
  else 0x02

/-- How far chunks, offset and bytes, cover a range from its start without a gap. -/
def stagedTo (l : List (Nat × Nat)) : Nat :=
  l.foldl (fun n _ => l.foldl (fun n x => if x.1 ≤ n then max n (x.1 + x.2) else n) n) 0

/-- A chunk comes to the boot flash: the first begins to stage an image, which is complete once chunks cover its header and the body that
the header counts (R344; log entry 92). -/
def stageChunk (off : Nat) (d : List Byte) (s : State) : State :=
  let s := setMgmt (fun m => { m with flash := putBytes m.flash off d }) s
  let l := (off, d.length) :: s.mgmt.staging.getD []
  if d = [] then s
  else setMgmt (fun m => { m with staging := if 0x80 + flashNat s 8 4 ≤ stagedTo l then none else some l }) s

/-- STAGE_FIRMWARE (R341, R343): a chunk of the image goes to the boot flash. -/
def execStageFirmware (port : Port) (cmd : Nat) (s : State) : Out :=
  mailboxOp 0x30 true 4 port cmd (fun s =>
    ended 0 (stageChunk (mboxNat s port 0 4) (mboxBytes s port 4 (cmdLength cmd - 4)) s)) s

/-- CHECK_STAGED_IMAGE (R344). -/
def execCheckStagedImage (port : Port) (cmd : Nat) (s : State) : Out :=
  mailboxOp 0x31 false 0 port cmd (fun s => (s, some (0, leBytes 8 (imageState s + 256 * flashNat s 6 1)))) s

/-- MODULE_RESET (R37): the schedule, the free values and what power keeps stay: memory, its check values, flash, fuses and stepping. -/
def execModuleReset (s : State) : Out :=
  .next { State.reset with
    agenda := s.agenda, todo := [.firmwareVerificationDone], fresh := s.fresh, mem := s.mem, poison := s.poison, lost := s.lost,
    sectorKeys := s.sectorKeys, checks := s.checks
    mgmt := { Mgmt.reset with stepping := s.mgmt.stepping, fuse := s.mgmt.fuse, flash := s.mgmt.flash, staging := s.mgmt.staging } }

/-- Firmware sets domain 0's root and tables (R328). -/
def setZeroDomain (s : State) : State :=
  Config.zeroTables.foldl (fun s e => physWrite e.1 e.2 s)
    { s with domains := smapSet 0 s.domains 0 (domainZero ||| BitVec.ofNat 512 (Config.zeroRoot % 2 ^ 51 * 2 ^ 77)) }

/-- FIRMWARE_VERIFICATION_DONE (R342, R343): the boot ROM has read the image and verifies it; then the image starts, and its commit flag
raises the fuse counter; or its failure stands until module reset. -/
def execFirmwareVerificationDone (s : State) : Out :=
  .next (if 2 ≤ s.mgmt.fwState then s
    else if s.mgmt.fwState = 0 then due .firmwareVerificationDone (setMgmt (fun m => { m with fwState := 1 }) s)
    else if imageState s ≠ 2 then setMgmt (fun m => { m with fwState := imageState s }) s
    else
      let v := flashNat s 6 1
      let commit := flashNat s 7 1 == 1
      setMgmt (fun m => { m with fwState := 2, fwVersion := v, fwCommit := commit, fwHash := Config.sha512 (imageWhole s),
                                 fuse := if commit then max m.fuse v else m.fuse }) (setZeroDomain s))

/-! ### Attestation (R345) -/

/-- The loaded objects by domain, in load order. -/
def objectList (s : State) : List CodeObj := (List.range 1024).flatMap fun d => s.objects.filter fun o => o.dom == d

def objectItem (o : CodeObj) : List Byte :=
  leBytes 2 o.dom ++ leBytes 2 o.number ++ leBytes 4 ((if o.patchable then 1 else 0) + if o.cached then 2 else 0) ++ leBytes 64 o.hash.toNat

/-- A paddock's record as completed packets left it: while a resize is in progress, the one before (R345). -/
def settledRecord (p : Paddock) : Option (BitVec 512) :=
  match p.resize with
  | some z => if z.isNew then none else some z.old
  | none => some p.rcd

/-- Active domains and paddock records, as the report's third digest takes them (R345). A domain's number has two bytes (DESIGN CHOICE, log
entry 102). -/
def configBytes (s : State) : List Byte :=
  (s.domains.filter fun e => bitAt e.2.toNat 0).flatMap (fun e => leBytes 2 e.1 ++ leBytes 64 e.2.toNat) ++
  (s.paddocks.filterMap fun e => settledRecord e.2).flatMap fun r => leBytes 64 r.toNat

/-- The report up to its signature. -/
def reportBytes (s : State) (nonce : List Byte) : List Byte :=
  leBytes 4 0x5CA7A770 ++ leBytes 2 1 ++ leBytes 1 s.mgmt.stepping ++ leBytes 1 s.mgmt.fuse ++ leBytes 8 Config.deviceSerial.toNat ++ nonce ++
  leBytes 64 s.mgmt.fwHash.toNat ++ digestBytes ((objectList s).flatMap objectItem) ++ digestBytes (configBytes s) ++ leBytes 8 s.time ++
  leBytes 8 0 ++ leBytes 32 Config.identityKey.toNat ++ leBytes 64 Config.certificate.toNat

/-- ATTEST (R345): the report, then as many items of the object list as fit. -/
def execAttest (port : Port) (cmd : Nat) (s : State) : Out :=
  mailboxOp 0x20 false 32 port cmd (fun s =>
    let r := reportBytes s (mboxBytes s port 0 32)
    (s, some (0, r ++ leBytes 64 (Config.identitySign r).toNat ++ ((objectList s).take 51).flatMap objectItem))) s

/-- SET_TRANSLATION_CACHE (R341). -/
def execSetTranslationCache (port : Port) (cmd : Nat) (s : State) : Out :=
  mailboxOp 0x43 true 12 port cmd (fun s =>
    let base := mboxNat s port 0 8
    let n := mboxNat s port 8 4
    if n = 0 ∨ n &&& (n - 1) ≠ 0 ∨ 2 ^ 20 < n ∨ !Config.inPooledTier base then ended 0x82 s
    else ended 0 (setMgmt (fun m => { m with txBase := base, txSlots := n }) s)) s

end Sys2Proof.Machine
end

