-- ==== Sys2Proof/Machine/Loader.lean ====
section
/-! DEFINITION. Loading and unloading code objects, and the translation cache (R68, R78, R268, R270, R337, R346 to R350, R353, R386). -/

namespace Sys2Proof.Machine

/-! ### Reading an object (R346) -/

/-- The page of an object's byte that the loader can read: a page that only fails the domain check because its granule is another domain's
is read, since a later check refuses it. -/
def objectPage (dom va : Nat) (s : State) : State × Option Nat :=
  match pageFor { dom := dom, priv := true, core := Config.coreCount } .read va s with
  | (s, .ok x) => (s, some x)
  | (s, .bad 0x15 _ _ _ (some x)) => (s, if granuleOwner s (leafFrame x * 65536 + va % pageSize (leafSize x)) = dom then none else some x)
  | (s, _) => (s, none)

/-- Reads n bytes of an object: none where a page is unresolvable, not resident, without R, or poisoned. -/
def objectRead (dom : Nat) : Nat → Nat → State → State × Option (List Byte)
  | 0, _, s => (s, some [])
  | n + 1, va, s =>
    match objectPage dom va s with
    | (s, none) => (s, none)
    | (s, some x) =>
      let s := verifyElement x va 1 s
      if elementBad s x va 1 then (s, none)
      else
        let (s, b) := loadBytes none x va 1 s
        match objectRead dom n (va + 1) s with
        | (s, some l) => (s, some (b ++ l))
        | (s, none) => (s, none)

/-! ### Tables (R78, R386) -/

/-- Whether n bytes from an offset lie in an object. -/
def insideObj (b : List Byte) (off n : Nat) : Bool := decide (off + n ≤ b.length)

/-- Header fields. -/
def hStepping (b : List Byte) : Nat := fieldOf b 6 1
def hClasses (b : List Byte) : Nat := fieldOf b 7 1
def hVersion (b : List Byte) : Nat := fieldOf b 8 4
def hEntries (b : List Byte) : Nat := fieldOf b 0x0C 4
def hFeatures (b : List Byte) : Nat := fieldOf b 0x10 16
def hEntryCount (b : List Byte) : Nat := fieldOf b 0x20 2
def hSetCount (b : List Byte) : Nat := fieldOf b 0x22 2
def hSets (b : List Byte) : Nat := fieldOf b 0x24 4
def hData (b : List Byte) : Nat := fieldOf b 0x28 4
def hDataCount (b : List Byte) : Nat := fieldOf b 0x2C 4
def hCode (b : List Byte) : Nat := fieldOf b 0x30 4
def hCodeSize (b : List Byte) : Nat := fieldOf b 0x34 4
def hSignature (b : List Byte) : Nat := fieldOf b 0x38 4
def hBindings (b : List Byte) : Nat := fieldOf b 0x3C 4

/-- The data blocks of an object. -/
def dataBlocks (b : List Byte) : List DataBlock :=
  (List.range (hDataCount b)).map fun k =>
    let o := hData b + 16 * k
    { off := fieldOf b o 4, len := fieldOf b (o + 4) 4, fmt := fieldOf b (o + 8) 1, geom := fieldOf b (o + 9) 1,
      size := fieldOf b (o + 10) 1, kind := fieldOf b (o + 11) 1, count := fieldOf b (o + 12) 4 }

/-- Whether a data block's record is in order (R86, R386). An MX block without a geometry is not, and another format's geometry is ignored
(DESIGN CHOICE, log entry 105). -/
def blockOk (b : List Byte) (d : DataBlock) : Bool :=
  d.off % 65536 == 0 && insideObj b d.off d.len && decide (d.fmt < 14) && decide (d.geom < 4) && !(isMx d.fmt && d.geom == 3) &&
  decide (d.size < 5) && decide (d.kind < 2)

/-- The binding item at an index of the binding table. -/
def bindAt (b : List Byte) (k : Nat) : Bind :=
  let o := hBindings b + 16 * k
  { breg := fieldOf b o 1, form := fieldOf b (o + 1) 1, size := fieldOf b (o + 2) 1, arg := fieldOf b (o + 4) 4, count := fieldOf b (o + 8) 4 }

/-- Bytes that a form-2 item spans. -/
def bindSpan (x : Bind) : Nat := if x.size = 4 then (x.count + 1) / 2 else x.count * 2 ^ x.size

/-- Whether a binding item is in order (R386). -/
def bindOk (b : List Byte) (window k : Nat) : Bool :=
  let o := hBindings b + 16 * k
  let x := bindAt b k
  fieldOf b (o + 3) 1 == 0 && fieldOf b (o + 12) 4 == 0 && decide (x.breg < 16) &&
  match x.form with
  | 0 => x.size == 0 && x.count == 0 && decide (x.arg < 16)
  | 1 => x.size == 0 && x.count == 0 && decide (x.arg < hDataCount b)
  | 2 => decide (x.size < 5) && decide (x.arg + bindSpan x ≤ window)
  | _ => false

/-- Binding count of an entry, and the items before it. -/
def bindCount (b : List Byte) (e : Nat) : Nat := fieldOf b (hEntries b + 16 * e + 7) 1
def bindStart (b : List Byte) (e : Nat) : Nat := ((List.range e).map (bindCount b)).sum

/-- An entry with its bindings. -/
def entryAt (b : List Byte) (e : Nat) : Entry :=
  let o := hEntries b + 16 * e
  { off := fieldOf b o 4, kind := fieldOf b (o + 4) 1, budget := fieldOf b (o + 5) 1, flocks := fieldOf b (o + 6) 1,
    scratch := fieldOf b (o + 8) 4, binds := (upFrom (bindStart b e) (bindCount b e)).map (bindAt b) }

/-- Whether an offset is a code offset: whole words, inside the code section (R264). -/
def inObjCode (b : List Byte) (o : Nat) : Bool := o % 4 == 0 && decide (hCode b ≤ o) && decide (o < hCode b + hCodeSize b)

/-- Whether an entry is in order (R78, R264, R386): its offsets, its kind, a budget and flock count that R62 and R77 allow, its items. -/
def entryOk (b : List Byte) (e : Nat) : Bool :=
  let x := entryAt b e
  (if x.kind < 2 then inObjCode b x.off else decide (x.off < b.length)) && decide (x.kind < 3) && decide (fieldOf b (hEntries b + 16 * e + 12) 4 < b.length) &&
  decide (bindCount b e ≤ 16) && (x.kind == 2 || (x.budget % 8 == 0 && decide (8 ≤ x.budget) && decide (x.budget ≤ 64))) &&
  (x.kind != 0 || (decide (1 ≤ x.flocks) && decide (x.flocks ≤ 32))) &&
  (upFrom (bindStart b e) (bindCount b e)).all (bindOk b x.scratch) && noRepeats (x.binds.map (·.breg))

/-- Status 0x01 of R346: header, tables and offsets. -/
def tablesOk (b : List Byte) : Bool :=
  let items := bindStart b (hEntryCount b)
  insideObj b 0 64 && fieldOf b 0 4 == 0x5CA71500 && fieldOf b 4 2 == 1 && decide (hClasses b < 4) &&
  insideObj b (hEntries b) (16 * hEntryCount b) && insideObj b (hSets b) (8 * hSetCount b) && insideObj b (hData b) (16 * hDataCount b) &&
  insideObj b (hCode b) (hCodeSize b) && (hSignature b == 0 || insideObj b (hSignature b) 64) &&
  (if hBindings b = 0 then items == 0 else insideObj b (hBindings b) (16 * items)) &&
  (dataBlocks b).all (blockOk b) && (List.range (hEntryCount b)).all (entryOk b) &&
  (List.range (hSetCount b)).all fun k => fieldOf b (hSets b + 8 * k + 6) 2 == 0

/-- The 64 KiB pages of a data block, from the object's first byte. -/
def blockPages (d : DataBlock) : List Nat := (List.range (max 1 ((d.len + 65535) / 65536))).map fun k => d.off + 65536 * k

/-- Whether every data page stands on a 64 KiB boundary and is mapped by a 64 KiB leaf of the domain (R346). -/
def dataPagesOk (s : State) (dom va : Nat) (b : List Byte) : Bool :=
  (dataBlocks b).all fun d => (blockPages d).all fun o =>
    (va + o) % 65536 == 0 && match leafOf s dom (va + o) with
      | some (x, _) => leafSize x == 0 && leafOwner x == dom
      | none => false

/-! ### Target sets and call targets (R268, R270) -/

/-- The list of a target set. -/
def setAt (b : List Byte) (k : Nat) : List Nat :=
  let o := hSets b + 8 * k
  (List.range (fieldOf b (o + 4) 2)).map fun i => fieldOf b (fieldOf b o 4 + 4 * i) 4

def setOk (b : List Byte) (k : Nat) : Bool :=
  let o := hSets b + 8 * k
  let n := fieldOf b (o + 4) 2
  decide (1 ≤ n) && decide (n ≤ 256) && insideObj b (fieldOf b o 4) (4 * n) &&
  (setAt b k).all (inObjCode b)

def setsOk (b : List Byte) : Bool := decide (hSetCount b ≤ 64) && (List.range (hSetCount b)).all (setOk b)

/-- Whether an offset is a function's first clause. -/
def isFunction (b : List Byte) (t : Int) : Bool :=
  (List.range (hEntryCount b)).any fun e => let x := entryAt b e; x.kind == 1 && t == (x.off : Int)

/-- Whether the target that a call or call.l at an offset names is a function; other words name none. -/
def callOk (b : List Byte) (off w w2 : Nat) : Bool :=
  let major := bits w 31 25
  if major = 0x52 then isFunction b (off + 4 * toSigned 12 (bits w 15 4))
  else if major = 0x73 then isFunction b (off + toSigned 32 w2)
  else true

/-- Checks the calls of a code section up to an end, clause by clause: rest is the number of words left in the current clause. A word
outside a clause that is no header is passed over. -/
def callsOk (b : List Byte) (stop : Nat) : Nat → Nat → Nat → Bool
  | 0, _, _ => true
  | fuel + 1, off, rest =>
    let w := fieldOf b off 4
    if stop < off + 4 then true
    else if rest = 0 then callsOk b stop fuel (off + 4) (if bits w 31 28 = 0b1100 then bits w 27 25 + 1 else 0)
    else if isLongMajor (bits w 31 25) then
      callOk b off w (fieldOf b (off + 4) 4) && callsOk b stop fuel (off + 8) (rest - 2)
    else callOk b off w 0 && callsOk b stop fuel (off + 4) (rest - 1)

/-- Status 0x06 of R346. -/
def targetsOk (b : List Byte) : Bool :=
  setsOk b && callsOk b (hCode b + hCodeSize b) (hCodeSize b / 4) (hCode b) 0

/-! ### Loading (R337, R346, R353) -/

/-- The granules that a range of a domain's addresses stands in. -/
def granulesOf (s : State) (dom va n : Nat) : List Nat :=
  ((List.range (unitsOf va n)).filterMap fun k =>
    let a := (va / 65536 + k) * 65536
    (leafOf s dom a).map fun x => leafFrame x.1 + a % pageSize (leafSize x.1) / 65536).eraseDups

/-- Status of R346 for an object's bytes, in its order. -/
def loadStatus (s : State) (dom va : Nat) (b : List Byte) : Nat :=
  let sig := hSignature b
  if !tablesOk b || !dataPagesOk s dom va b then 0x01
  else if bitAt (hClasses b) 0 ∧ hStepping b ≠ s.mgmt.stepping then 0x02
  else if hFeatures b &&& featureWord s ≠ hFeatures b then 0x03
  else if hVersion b < s.mgmt.fuse then 0x04
  else if if sig = 0 then domSigned s dom
    else !Config.ed25519Verifies (domCodeKey (domDesc s dom)) (b.take sig) ((b.drop sig).take 64) then 0x05
  else if !targetsOk b then 0x06
  else if (granulesOf s dom va b.length).any fun g => granuleOwner s (65536 * g) != dom then 0x07
  else if 4096 ≤ (s.objects.countP fun o => o.dom == dom) then 0x08
  else 0

/-- The lowest object number of a domain that is free, from 1. -/
def freeNumber (s : State) (dom : Nat) : Nat :=
  ((upFrom 1 4096).find? fun n => !s.objects.any fun o => o.dom == dom && o.number == n).getD 0

/-- Writes the leaf of a data page: its block's element format and geometry; cached translations of the page are invalidated (R346). -/
def typePage (dom va fmt geom : Nat) (s : State) : State :=
  match leafOf s dom va with
  | none => s
  | some (x, pa) =>
    let y := x - leafFormat x * 2 ^ 9 - leafGeom x * 2 ^ 13 + fmt * 2 ^ 9 + geom * 2 ^ 13
    dropAndAwait dom (va / 65536) 1 (physWrite pa (leBytes 16 y) s)

/-- Seals a granule (R337). -/
def sealGranule (s : State) (g : Nat) : State :=
  { s with frames := smapSet 0 s.frames g (smapGet 0 s.frames g ||| 0xC000) }

/-- Loads an object that has passed every check: its number comes with the state. -/
def installObject (dom va : Nat) (patchable cached : Bool) (b : List Byte) (s : State) : State × Nat :=
  let gs := granulesOf s dom va b.length
  let n := freeNumber s dom
  let o : CodeObj :=
    { num := s.nextObj, number := n, dom := dom, va := va, len := b.length, patchable := patchable, cached := cached, retiring := false,
      occ := 0, stepping := hStepping b, codeOff := hCode b, codeSize := hCodeSize b
      entries := (List.range (hEntryCount b)).map (entryAt b), sets := (List.range (hSetCount b)).map (setAt b), blocks := dataBlocks b
      hash := Config.sha512 b, granules := if patchable then [] else gs }
  let s := (dataBlocks b).foldl (fun s d => (blockPages d).foldl (fun s k => typePage dom (va + k) d.fmt d.geom s) s) s
  let s := if patchable then s else gs.foldl sealGranule s
  let s := s.cores.foldl (fun s k => dropObjectWords k.1 o s) s
  ({ s with
      objects := s.objects ++ [o], nextObj := s.nextObj + 1
      codeSeen := smapDrop s.codeSeen (inRange (icacheKey dom va) b.length) }, n)

/-- Checks an object's bytes and loads it: the status, and the number where it is loaded. -/
def loadObject (dom va : Nat) (patchable cached : Bool) (b : List Byte) (s : State) : CmdEnd :=
  let st := loadStatus s dom va b
  if st ≠ 0 then ended st s
  else
    let (s, n) := installObject dom va patchable cached b s
    (s, some (0, leBytes 2 n))

/-- LOAD_CODE_OBJECT (R346). -/
def execLoadCodeObject (port : Port) (cmd : Nat) (s : State) : Out :=
  mailboxOp 0x40 true 15 port cmd (fun s =>
    let dom := mboxNat s port 0 2
    let va := mboxNat s port 3 8
    if 1024 ≤ dom then ended 0x82 s
    else match objectRead dom (mboxNat s port 11 4) va s with
      | (s, none) => ended 0x09 s
      | (s, some b) => loadObject dom va (bitAt (mboxNat s port 2 1) 0) false b s) s

/-- UNLOAD_CODE_OBJECT (R347): the object is retiring; it goes when no launch runs it. -/
def execUnloadCodeObject (port : Port) (cmd : Nat) (s : State) : Out :=
  mailboxOp 0x41 true 4 port cmd (fun s =>
    match s.objects.find? fun o => o.dom == mboxNat s port 0 2 && o.number == mboxNat s port 2 2 with
    | none => ended 0x82 s
    | some o =>
      ended 0 (unloadIdle o.num { s with objects := updFirst (fun x => x.num == o.num) (fun x => { x with retiring := true }) s.objects })) s

/-! ### The translation cache (R348 to R350) -/

/-- Physical address of the slot of a source. -/
def txSlot (s : State) (digest : List Byte) (features : Nat) : Nat :=
  s.mgmt.txBase + 16 * (leNat ((digestBytes (digest ++ leBytes 16 features)).take 8) % s.mgmt.txSlots)

/-- The signed part of a cache entry, up to its identity signature (R349). -/
def txHeader (version features : Nat) (digest obj : List Byte) : List Byte :=
  leBytes 4 0x5CA77C00 ++ leBytes 2 1 ++ leBytes 1 (hStepping obj) ++ leBytes 1 0 ++ leBytes 4 version ++ leBytes 4 obj.length ++
  leBytes 16 features ++ digest ++ leBytes 32 Config.identityKey.toNat ++ leBytes 8 Config.deviceSerial.toNat ++ leBytes 8 0 ++
  leBytes 64 Config.certificate.toNat

/-- A cache entry. -/
def txEntry (version features : Nat) (digest obj : List Byte) : List Byte :=
  let h := txHeader version features digest obj
  h ++ leBytes 64 (Config.identitySign (h ++ obj)).toNat ++ leBytes 48 0 ++ obj

/-- Whether a copied entry's signatures hold. -/
def txSigned (e : List Byte) : Bool :=
  let n := fieldOf e 0x0C 4
  Config.ed25519Verifies Config.rootKey ((e.drop 0x60).take 48) ((e.drop 0x90).take 64) &&
  Config.ed25519Verifies (BitVec.ofNat 256 (fieldOf e 0x60 32)) (e.take 0xD0 ++ (e.drop 0x140).take n) ((e.drop 0xD0).take 64)

/-- Whether a domain uses a range already: a loaded object, or the frames of a launch. -/
def regionUsed (s : State) (dom va n : Nat) : Bool :=
  let meets (a len : Nat) : Bool := decide (a < va + n) && decide (va < a + len)
  s.objects.any (fun o => o.dom == dom && meets o.va o.len) ||
  s.launches.any fun l => l.dom == dom && !l.ended && meets l.frames (256 * frameSize l.f l.b l.wn)

/-- A new region of a domain's memory for n bytes behind a head, at an address the spec leaves open: a 64 KiB boundary; none where that is
in use (log entry 65). -/
def newRegion (dom head n : Nat) (s : State) : State × Option Nat :=
  let va := (Config.freeNat s.fresh % (2 ^ 41 - 1) + 1) * 65536
  (takeFree s, if regionUsed s dom (va - head) (head + n) then none else some va)

/-- A miss: Utsum's object goes to a new region, and is loaded from there. -/
def placeObject (dom : Nat) (obj : List Byte) (s : State) : CmdEnd :=
  match newRegion dom 0 obj.length s with
  | (s, none) => ended 0x09 s
  | (s, some va) =>
    match deviceWrite dom true va obj s with
    | (s, false) => ended 0x09 s
    | (s, true) => loadObject dom va false false obj s

/-- Another device may change a slot first: what it leaves there is free (R350, R351). -/
def otherDevice (slot : Nat) (s : State) : State :=
  let n := s.fresh
  let s := { s with fresh := n + 3 }
  if Config.freeNat n % 2 = 0 then s
  else physWrite slot (leBytes 8 (Config.freeNat (n + 1))) (physWrite (slot + 8) (leBytes 8 (Config.freeNat (n + 2))) s)

/-- The compare-and-swap on a slot's state word; whether it was made comes with the state. -/
def swapSlot (slot old new : Nat) (s : State) : State × Bool :=
  let s := otherDevice slot s
  if leNat (physRead s slot 8) = old then (physWrite slot (leBytes 8 new) s, true) else (s, false)

/-- Whether an entry of n bytes can stand at an address: in CXL-pooled memory of domain 0, apart from the slots. -/
def entryFits (s : State) (pa n : Nat) : Bool :=
  (List.range (n / 65536 + 2)).all (fun k =>
    let a := min (pa + 65536 * k) (pa + n - 1)
    Config.inPooledTier a && granuleOwner s a == 0) &&
  (decide (pa + n ≤ s.mgmt.txBase) || decide (s.mgmt.txBase + 16 * s.mgmt.txSlots ≤ pa))

/-- Inserts an entry into an empty slot: the entry, its address, then the state word by compare-and-swap from 0. Where the entry stands is
free; without a place it is discarded (log entry 65). -/
def insertEntry (slot : Nat) (e : List Byte) (s : State) : State :=
  let pa := Config.freeNat s.fresh % 2 ^ 64
  if leNat (physRead s slot 8) ≠ 0 ∨ !entryFits s pa e.length then takeFree s
  else (swapSlot slot 0 Config.deviceSerial.toNat (physWrite (slot + 8) (leBytes 8 pa) (physWrite pa e (takeFree s)))).1

/-- A miss: Utsum translates the source, and the entry is inserted where the slot is empty. -/
def translateMiss (dom version features : Nat) (src digest : List Byte) (slot : Option Nat) (s : State) : CmdEnd :=
  let obj := Config.utsum s.fresh src
  match placeObject dom obj (takeFree s) with
  | (s, some (0, r)) => (match slot with
      | some k => insertEntry k (txEntry version features digest obj) s
      | none => s, some (0, r))
  | r => r

/-- The entry of a slot that answers a request, with the state word read: its digest and feature vector match. -/
def txLookup (s : State) (slot features : Nat) (digest : List Byte) : Option (Nat × List Byte) :=
  let st := leNat (physRead s slot 8)
  if st = 0 then none
  else
    let pa := leNat (physRead s (slot + 8) 8)
    let h := physRead s pa 0x140
    if (h.drop 0x20).take 64 = digest ∧ fieldOf h 0x10 16 = features then some (st, h ++ physRead s (pa + 0x140) (fieldOf h 0x0C 4))
    else none

/-- Copies an entry into a new region, its object at the region's start (log entry 65): where that stands, and the copy as it reads. -/
def copyEntry (dom : Nat) (e : List Byte) (s : State) : State × Option (Nat × List Byte) :=
  match newRegion dom 0x140 (e.length - 0x140) s with
  | (s, none) => (s, none)
  | (s, some va) =>
    match deviceWrite dom true (va - 0x140) e s with
    | (s, false) => (s, none)
    | (s, true) =>
      match objectRead dom e.length (va - 0x140) s with
      | (s, some c) => (s, some (va, c))
      | (s, none) => (s, none)

/-- TRANSLATE_PORTABLE_OBJECT (R350): version, lookup, copy and check of the copy; a rejected copy evicts its entry, where no other device
is first (R351). A domain without cache maps looks nothing up and inserts nothing (DESIGN CHOICE, log entry 103). -/
def execTranslatePortableObject (port : Port) (cmd : Nat) (s : State) : Out :=
  mailboxOp 0x42 true 14 port cmd (fun s =>
    let dom := mboxNat s port 0 2
    if 1024 ≤ dom then ended 0x82 s
    else match objectRead dom (mboxNat s port 10 4) (mboxNat s port 2 8) s with
      | (s, none) => ended 0x09 s
      | (s, some src) =>
        let v := Config.frazonVersion src
        let features := (Config.frazonFeatures src).toNat
        let digest := digestBytes src
        if v < s.mgmt.fuse then ended 0x04 s
        else
          let slot := if domCacheMaps s dom ∧ s.mgmt.txSlots ≠ 0 then some (txSlot s digest features) else none
          match slot.bind fun k => (txLookup s k features digest).map fun e => (k, e) with
          | none => translateMiss dom v features src digest slot s
          | some (k, st, e) =>
            match copyEntry dom e s with
            | (s, none) => ended 0x09 s
            | (s, some (va, c)) =>
              if txSigned c ∧ s.mgmt.fuse ≤ fieldOf c 8 4 then loadObject dom va false true (c.drop 0x140) s
              else translateMiss dom v features src digest slot (swapSlot k st 0 s).1) s

end Sys2Proof.Machine
end

