-- ==== Sys2Proof/Machine/Errors.lean ====
section
/-! DEFINITION. The watchdog, soft errors, failed banks and data that arrives poisoned (R231, R360, R369 to R374, R377, R378). -/

namespace Sys2Proof.Machine

/-! ### Records of imprecise traps (R360) -/

/-- The unretired flock of a workgroup with the lowest number, with its slot. -/
def firstFlock (s : State) (w : Wg) : Option (Nat × Flock) :=
  (flocksOf s w).foldl (fun (a : Option (Nat × Flock)) x => match a with
    | some y => if x.2.index < y.2.index then some x else some y
    | none => some x) none

/-- A record at a flock's next instruction: the path of slot 0, or of slot 1 where slot 0 is empty. -/
def nextRec (f : Option Flock) (cause : Nat) (fs : List (Nat × Nat × Nat)) : TrapRec :=
  let second := f.any fun (f : Flock) => f.path0.isNone
  let p := f.bind fun f => pathOf f second
  { cause := cause, flock := (f.map fun (f : Flock) => f.index).getD 0, pcSlot := if second then 1 else 0
    mask := (p.map fun (p : Path) => p.mask).getD 0, pc := (p.map fun (p : Path) => p.pc).getD 0, va := 0, hcause := 0, handle := 0
    detail := detailOf fs, lane := 0xFF }

/-! ### The watchdog (R378) -/

/-- Whether a long-latency instruction is a full-empty one of which only deferred requests remain. -/
def onlyDeferred (s : State) (p : Pending) : Bool :=
  p.fe.isSome && s.feQueue.any (fun r => r.uid == p.uid) && !s.feRetry.any fun r => r.uid == p.uid

/-- Whether a wait mask holds a path back, and covers only deferred full-empty requests: a flag of it is not zero, and nothing else counts
on one that is not. -/
def waitsDeferred (s : State) (f : Flock) (mask : Nat) : Bool :=
  let open_ := (List.range 12).filter fun k => bitAt mask k && getCf f k != 0
  open_ != [] && open_.all fun k => f.pending.all fun q => q.flag != some k || onlyDeferred s q

/-- What a path waits on, by the watchdog's numbers; 0 where it is not blocked. -/
def waitCode (s : State) (f : Flock) (p : Path) : Nat :=
  match p.wait with
  | .bar _ => 1
  | .handle => 2
  | .tile => 3
  | .leave => 4
  | .flags mask => if waitsDeferred s f mask then 5 else 0
  | _ => 0

/-- Whether every path of a flock is blocked. -/
def flockBlocked (s : State) (f : Flock) : Bool :=
  (f.path0.toList ++ f.path1.toList ++ f.stack).all fun p => waitCode s f p != 0

/-- Whether every path of every unretired flock of a workgroup is blocked. -/
def wgBlocked (s : State) (w : Wg) : Bool := w.slots != [] && (flocksOf s w).all fun x => flockBlocked s x.2

/-- Whether the watchdog's blocked time is paused: a copy on a handle of the workgroup waits for a page. -/
def watchPaused (s : State) (w : Wg) : Bool :=
  (coreAt s w.core).handles.any fun e => ownsHandle w e.2 && e.2.job.any fun j => j.tag.isSome

/-- Run time of a workgroup, in ns. -/
def runTime (s : State) (w : Wg) : Nat := w.ranNs + (s.time - w.since)

def blockedOut (s : State) (w : Wg) : Bool := onCore w && decide (1000 * (launchOf s w.launch).blockedUs < w.blocked)
def ranOut (s : State) (w : Wg) : Bool := onCore w && decide (1000000 * (launchOf s w.launch).runMs < runTime s w)

/-- The watchdog's trap. -/
def watchdog (kind : Nat) (w : Wg) (s : State) : State :=
  let first := (firstFlock s w).map (·.2)
  let mask := ((flocksOf s w).map fun x => if flockBlocked s x.2 then 2 ^ x.2.index else 0).sum
  let on := match first with
    | none => 0
    | some f => if !flockBlocked s f then 0
      else match pathOf f f.path0.isNone with
        | some p => waitCode s f p
        | none => 0
  trapAt w.launch w.index (nextRec first 0x3F [(0, 1, kind), (4, 4, mask), (8, 1, on)]) s

/-- The watchdog is taken once in a residence. -/
def takeWatchdog (kind : Nat) (w : Wg) (s : State) : State :=
  if w.watched then s else watchdog kind w (updWg w.launch w.index (fun w => { w with watched := true }) s)

/-- WATCHDOG_BLOCKED_LIMIT (R378). -/
def execWatchdogBlockedLimit (launch wg : Nat) (s : State) : Out :=
  let w := wgOf s launch wg
  .next (if blockedOut s w then takeWatchdog 1 w s else s)

/-- WATCHDOG_RUN_LIMIT (R378). -/
def execWatchdogRunLimit (launch wg : Nat) (s : State) : Out :=
  let w := wgOf s launch wg
  .next (if ranOut s w then takeWatchdog 2 w s else s)

/-! ### Errors (R371, R373, R374) -/

/-- CORRECTED_ERROR (R373): nothing but the count changes. -/
def execCorrectedError (s : State) : Out :=
  .next (setMgmt (fun m => { m with errCorrected := min (2 ^ 32 - 1) (m.errCorrected + 1) }) s)

/-- An uncorrectable error in state that a workgroup owns (R371): poison with source 2, and an entry, which follows the save that it reports
(R361). -/
def stateError (w : Wg) (f : Option Flock) (unit : Nat) (s : State) : State :=
  errEntryFor (some (w.launch, w.index)) 6 w.core (launchOf s w.launch).dom 0 w.launch (trapAt w.launch w.index (nextRec f 0x1A [(0, 1, 2), (1, 1, unit)]) s)

/-- The shares among which a line lies: those of the version before, while it has not moved (R173). -/
def lineBanks (s : State) (l : Line) : List Nat :=
  match (smapFind s.paddocks l.pad).bind (·.resize) with
  | some z => if (z.departing ++ z.folding).contains l.base then shareList z.old.toNat else padShares s l.pad
  | none => padShares s l.pad

/-- The lines of paddocks that lie in a bank, or have a partial in it. -/
def linesIn (s : State) (bank : Nat) : List Line :=
  s.lines.filter fun l =>
    let bs := lineBanks s l
    l.pad != 0 && bs.contains bank && (placedIn bs l.pad l.base == bank || holdsPartial bs l bank)

/-- Loses a line of a failed bank: what only it held is poisoned at its home (R172, R369). -/
def loseLine (bank : Nat) (s : State) (l : Line) : State :=
  let s := dropLine l.pad l.base s
  if l.dirty ∨ l.partials ≠ [] then
    noteLost l.base l.data.length ((sectorsOf l.base l.data.length).foldl (poisonSector 2 bank (locOwner s l.base)) s)
  else s

/-- The workgroups with window bytes in a core bank: free, but only where windows can lie in it, and not where the other banks have no room
for them (R176, R374). -/
def windowsIn (s : State) (bank : Nat) : List Wg :=
  let core := bank / 24
  let rest := 65536 * (windowRoom s core bank).length
  let ws := s.wgs.filter fun w => onCore w && w.wn != 0 && w.core == core
  let hit := ws.filter fun w => decide (rest < w.wn) || Config.windowBank w.launch w.index (bank % 24)
  if (bankCore bank).isNone || !(windowRoom s core 16128).contains bank then []
  else if hit = [] ∧ rest < poolUsed s core then ws.take 1
  else hit

/-- Whether a workgroup waits for its core, or is about to. -/
def waitsForCore (w : Wg) : Bool :=
  match w.phase with
  | .stopping c => c < 3
  | .saved _ => true
  | .resumed _ => true
  | .held => true
  | _ => false

/-- Whether a launch no longer fits: no core of its field can take a workgroup it has to admit, or a saved one's core can no longer take it
(R374). -/
def noLongerFits (s : State) (l : Launch) : Bool :=
  (decide (l.next < l.n) && !(fieldCores l).any (emptyFits s l)) ||
  s.wgs.any fun w => w.launch == l.num && waitsForCore w && !emptyFits s l w.core

/-- Ends the launches that no longer fit (R374). -/
def endMisfits (s : State) : State :=
  (s.launches.filter fun l => running l && noLongerFits s l).foldl (fun s l =>
    endIfDrained l.num (stopLaunch l.num { status := 0x44, trapped := false, cause := 0, index := 0 } s)) s

/-- Marks a bank failed (R374). -/
def failBank (bank : Nat) (s : State) : State :=
  if s.failed.contains bank then s
  else
    let ws := windowsIn s bank
    let s := errEntry 5 bank 0xFFFF 0 0 { s with failed := setInsert s.failed bank }
    let s := (linesIn s bank).foldl (loseLine bank) s
    endMisfits (ws.foldl (fun s w => stateError w ((firstFlock s w).map (·.2)) 4 s) s)

/-- Counts an uncorrectable data error of a bank: more than 16 within 1 ms fail it (R374). -/
def countBankError (bank : Nat) (s : State) : State :=
  let ts := (smapGet [] s.mgmt.bankErrs bank).filter (fun t => decide (s.time ≤ t + 1000000)) ++ [s.time]
  let s := setMgmt (fun m => { m with bankErrs := smapPut m.bankErrs bank ts }) s
  if 16 < ts.length then failBank bank s else s

/-- An uncorrectable error in window data strikes a core bank that holds bytes of the window (R374): which one is free (DESIGN CHOICE, log
entry 84). -/
def countWindowError (w : Wg) (s : State) : State :=
  let pool := poolBanks s w.core
  let mine := pool.filter fun b => Config.windowBank w.launch w.index (b % 24)
  let banks := if mine = [] then pool else mine
  match banks[Config.freeNat s.fresh % max banks.length 1]? with
  | some b => countBankError b (takeFree s)
  | none => s

/-- UNCORRECTABLE_CORE_STATE_ERROR (R371): in the registers or tile of a flock, or in the window or queues of its workgroup. -/
def execUncorrectableCoreStateError (core slot unit : Nat) (s : State) : Out :=
  let f := flockAt s core slot
  .next (if f.launch = 0 ∨ unit = 0 ∨ 5 < unit then s
    else
      let w := wgOf s f.launch f.wg
      let t := stateError w (if unit < 4 then some f else (firstFlock s w).map (·.2)) unit s
      if unit = 4 then countWindowError w t else t)

/-- UNCORRECTABLE_MEMORY_ERROR (R369, R374): in memory, in a bank's data, or in a bank's tag or state arrays. -/
def execUncorrectableMemoryError (loc : Nat) (bank : Option Nat) (tag : Bool) (s : State) : Out :=
  .next (match bank with
    | none => poisonSector 1 0xFFFF (locOwner s loc) s (sectorOf loc)
    | some b =>
      if 16128 ≤ b then s
      else if tag then failBank b s
      else countBankError b (poisonSector 2 b (locOwner s loc) s (sectorOf loc)))

/-- AGENT_LOSS (R231): the line whose only modified copy an agent held is poisoned: a held line of its paddock's size, which is gone, or the
128 bytes of a host cache's (log entry 66). -/
def execAgentLoss (loc : Nat) (s : State) : Out :=
  let (t, base, n) := match lineOver s loc with
    | some l => (dropLine l.pad l.base s, l.base, l.data.length)
    | none => (s, loc / 128 * 128, 128)
  .next (noteLost base n ((sectorsOf base n).foldl (poisonSector 4 0xFFFF (locOwner s loc)) t))

/-- WRITE_ARRIVING_OVER_CXL (R370): the bytes are written at their home, whose agent is no core (log entry 9); poison in the data marks
every sector they reach. -/
def execWriteArrivingOverCxl (pa : Nat) (data : List Byte) (poisoned : Bool) (s : State) : Out :=
  let s := clearCovered [(pa, data.length)] (physWrite pa data s)
  .next (if poisoned then (sectorsOf pa data.length).foldl (poisonSector 1 0xFFFF (locOwner s pa)) s else s)

/-- A read over CXL, by a host or another device: combine partials are folded in at the home (R226), check values are verified, and the data
come with poison set where a sector is poisoned (R370, R372). -/
def cxlRead (pa n : Nat) (s : State) : State :=
  let ls := s.lines.filter fun l => decide (l.base < pa + n) && decide (pa < l.base + l.data.length)
  let s := ls.foldl (fun s l => if padMode s l.pad = 2 then foldLine l.pad l.base s else s) s
  let s := physVerify pa n s
  { s with cxlOut := (physRead s pa n, anyPoison s pa n) }

end Sys2Proof.Machine
end

