-- ==== Sys2Proof/Machine/Time.lean ====
section
/-! DEFINITION. The passage of time (R6, R26, R31, R36, R225, R244, R245, R255, R378). -/

namespace Sys2Proof.Machine

/-- Tenths of a cycle that one nanosecond holds in a speed mode (R24). -/
def tenthsPerNs (m : Speed) : Nat :=
  match m with
  | .full => 18
  | .balanced => 15
  | .cool => 11

/-- One island's clock after ns (R6, R24); an island starts in Cool mode (R37). -/
def runIsle (s : State) (ns i : Nat) : Isle :=
  let x := smapGet noIsle s.isles i
  let t := x.tenths + ns * tenthsPerNs (smapGet .cool s.mgmt.now i)
  { x with clk := x.clk + t / 10, tenths := t % 10 }

/-- A workgroup's blocked time after ns (R378). -/
def countBlocked (s : State) (ns : Nat) (w : Wg) : Wg :=
  if w.phase ≠ .resident then w
  else if !wgBlocked s w then { w with blocked := 0 }
  else if watchPaused s w then w
  else { w with blocked := w.blocked + ns }

/-- A queue's times after ns (R244, R245). -/
def countWaited (s : State) (ns : Nat) (e : Nat × Queue) : Nat × Queue :=
  if dispatchable s e.1 e.2 then (e.1, { e.2 with waited := e.2.waited + ns, idleAt := s.time + ns }) else e

/-- What every unit's clock and counters become after ns; the power of PWR_STATUS is a value the spec does not state. -/
def passTime (ns : Nat) (s : State) : State :=
  { s with
    time := s.time + ns
    isles := (List.range 64).foldl (fun m i => smapSet noIsle m i (runIsle s ns i)) s.isles
    wgs := s.wgs.map (countBlocked s ns)
    queues := s.queues.map (countWaited s ns)
    fresh := s.fresh + 1
    mgmt := { s.mgmt with watts := Config.freeNat s.fresh } }

/-- The slots of a core at which the swap rule's count has run out (R255); a parked flock's paths stay as they were (R286). -/
def dueSwaps (s : State) (k : Nat × Core) : List Instr :=
  k.2.flocks.flatMap fun f => if parked s k.1 f.1 ∨ f.2.stack = [] ∨ clockOf s k.1 - f.2.swapBase < Config.swapLimit then []
    else ([false, true].filter fun b => (pathOf f.2 b).any atYieldPoint).map fun b => .swapCountExpiry k.1 f.1 b

/-- The watchdog's events of a workgroup, once in a residence: while it stops, too (R358, R378). -/
def dueWatch (s : State) (w : Wg) : List Instr :=
  if w.watched then []
  else (if blockedOut s w then [.watchdogBlockedLimit w.launch w.index] else []) ++
    if ranOut s w then [.watchdogRunLimit w.launch w.index] else []

/-- The hardware slot of a queue that has been idle for 2 ms. -/
def dueUnmap (s : State) (e : Nat × Queue) : List Instr :=
  match e.2.hw with
  | some h => if !dispatchable s e.1 e.2 ∧ e.2.idleAt + 2000000 ≤ s.time then [.slotIdleUnmap h] else []
  | none => []

/-- The automatic ticks that a core owes. -/
def dueTicks (s : State) (c : Nat) : List Instr := List.replicate (owedTicks s c - s.todo.count (.autoTick c)) (.autoTick c)

/-- Time passes; what its passing makes due is due. The tick in which reads of CFG_OWN wait ends first (R36). -/
def elapse (ns : Nat) (s : State) : State :=
  let s := passTime ns (if ns = 0 then s else endTick s)
  let s := pokeThermal s
  let s := (s.cores.flatMap (dueSwaps s) ++ s.wgs.flatMap (dueWatch s) ++ s.queues.flatMap (dueUnmap s) ++
    if s.quantum < s.time / 100000 then [Instr.quantumBoundary] else []).foldl (fun s i => due i s) s
  if s.autoOn then { s with todo := s.todo ++ (List.range Config.coreCount).flatMap (dueTicks s) } else s

/-- CFG_OWN_TICK_DECISION (R36): the tick of TIMEBASE in which reads of CFG_OWN arrived ends, and with it they are decided. -/
def execCfgOwnTickDecision (s : State) : Out := .next (if (tickWinner s).isSome then elapse 1 s else s)

end Sys2Proof.Machine
end

