-- ==== Sys2Proof/Machine/Dispatch.lean ====
section
/-! DEFINITION. The dispatch of every instruction and device event to its meaning. -/

namespace Sys2Proof.Machine

def exec (i : Instr) (s : State) : Host.Outcome State Fault Refusal :=
  match i with
  | .iadd g d a b c t => Sys2Proof.Machine.execIadd g d a b c t s
  | .isub g d a b c t => Sys2Proof.Machine.execIsub g d a b c t s
  | .imul g d a b c t => Sys2Proof.Machine.execImul g d a b c t s
  | .andB g d a b c t => Sys2Proof.Machine.execAndB g d a b c t s
  | .orB g d a b c t => Sys2Proof.Machine.execOrB g d a b c t s
  | .xorB g d a b c t => Sys2Proof.Machine.execXorB g d a b c t s
  | .shl g d a b c t => Sys2Proof.Machine.execShl g d a b c t s
  | .shr g d a b c t => Sys2Proof.Machine.execShr g d a b c t s
  | .imin g d a b c t => Sys2Proof.Machine.execImin g d a b c t s
  | .imax g d a b c t => Sys2Proof.Machine.execImax g d a b c t s
  | .iabsd g d a b c t => Sys2Proof.Machine.execIabsd g d a b c t s
  | .bitcount g d a b c t => Sys2Proof.Machine.execBitcount g d a b c t s
  | .bfe g d a b c t => Sys2Proof.Machine.execBfe g d a b c t s
  | .mov g d a f n => Sys2Proof.Machine.execMov g d a f n s
  | .sel p d a b c => Sys2Proof.Machine.execSel p d a b c s
  | .max2sel g d a b q t u => Sys2Proof.Machine.execMax2sel g d a b q t u s
  | .sreg g d sx u c => Sys2Proof.Machine.execSreg g d sx u c s
  | .fadd g d a b c t => Sys2Proof.Machine.execFadd g d a b c t s
  | .fsub g d a b c t => Sys2Proof.Machine.execFsub g d a b c t s
  | .fmul g d a b c t => Sys2Proof.Machine.execFmul g d a b c t s
  | .fmin g d a b c t => Sys2Proof.Machine.execFmin g d a b c t s
  | .fmax g d a b c t => Sys2Proof.Machine.execFmax g d a b c t s
  | .fcmp g k p a b c t => Sys2Proof.Machine.execFcmp g k p a b c t s
  | .frcp g d a f c t => Sys2Proof.Machine.execFrcp g d a f c t s
  | .frsq g d a f c t => Sys2Proof.Machine.execFrsq g d a f c t s
  | .fex2 g d a f c t => Sys2Proof.Machine.execFex2 g d a f c t s
  | .flg2 g d a f c t => Sys2Proof.Machine.execFlg2 g d a f c t s
  | .fsin g d a f c t => Sys2Proof.Machine.execFsin g d a f c t s
  | .fcos g d a f c t => Sys2Proof.Machine.execFcos g d a f c t s
  | .fclass g d a c t => Sys2Proof.Machine.execFclass g d a c t s
  | .fscale g d a b c t => Sys2Proof.Machine.execFscale g d a b c t s
  | .fround g d a f r c t => Sys2Proof.Machine.execFround g d a f r c t s
  | .cvt g d a f sx r => Sys2Proof.Machine.execCvt g d a f sx r s
  | .cvti g d a f r => Sys2Proof.Machine.execCvti g d a f r s
  | .pack g d a b c t => Sys2Proof.Machine.execPack g d a b c t s
  | .unpack g d a t u ix => Sys2Proof.Machine.execUnpack g d a t u ix s
  | .cbdec g d a sx u ix => Sys2Proof.Machine.execCbdec g d a sx u ix s
  | .cbload g sx r b => Sys2Proof.Machine.execCbload g sx r b s
  | .mxscale g d a e => Sys2Proof.Machine.execMxscale g d a e s
  | .icmp g k p a b c t => Sys2Proof.Machine.execIcmp g k p a b c t s
  | .pop g d a b o => Sys2Proof.Machine.execPop g d a b o s
  | .ballot g d p u => Sys2Proof.Machine.execBallot g d p u s
  | .agree g d a t => Sys2Proof.Machine.execAgree g d a t s
  | .matchK g d a w => Sys2Proof.Machine.execMatchK g d a w s
  | .xpick g d a b sx m => Sys2Proof.Machine.execXpick g d a b sx m s
  | .xfold g d a t u o => Sys2Proof.Machine.execXfold g d a t u o s
  | .lead g p a m => Sys2Proof.Machine.execLead g p a m s
  | .ld g d a r f sx z c => Sys2Proof.Machine.execLd g d a r f sx z c s
  | .st g d a r f sx z c => Sys2Proof.Machine.execSt g d a r f sx z c s
  | .ldsp g d a r f sx z c => Sys2Proof.Machine.execLdsp g d a r f sx z c s
  | .stsp g d a r f sx z c => Sys2Proof.Machine.execStsp g d a r f sx z c s
  | .atom g d a r f n o => Sys2Proof.Machine.execAtom g d a r f n o s
  | .red g d a r f o => Sys2Proof.Machine.execRed g d a r f o s
  | .atomsp g d a r f n o => Sys2Proof.Machine.execAtomsp g d a r f n o s
  | .ldfe g d a r f t c => Sys2Proof.Machine.execLdfe g d a r f t c s
  | .stfe g d a r f t c => Sys2Proof.Machine.execStfe g d a r f t c s
  | .fence sx o => Sys2Proof.Machine.execFence sx o s
  | .ldb g d sx r f => Sys2Proof.Machine.execLdb g d sx r f s
  | .cache g n sx r f o => Sys2Proof.Machine.execCache g n sx r f o s
  | .prefetch g n sx r f o => Sys2Proof.Machine.execPrefetch g n sx r f o s
  | .tick g a u => Sys2Proof.Machine.execTick g a u s
  | .accTake g t => Sys2Proof.Machine.execAccTake g t s
  | .accFree g t => Sys2Proof.Machine.execAccFree g t s
  | .accZero g t => Sys2Proof.Machine.execAccZero g t s
  | .accRd g d t f c => Sys2Proof.Machine.execAccRd g d t f c s
  | .region g t sx => Sys2Proof.Machine.execRegion g t sx s
  | .compress g d a m k mlo p x => Sys2Proof.Machine.execCompress g d a m k mlo p x s
  | .cp g h sx m f p => Sys2Proof.Machine.execCp g h sx m f p s
  | .cpColl g h sx m f p => Sys2Proof.Machine.execCpColl g h sx m f p s
  | .cpwait g h w => Sys2Proof.Machine.execCpwait g h w s
  | .cpfree g h => Sys2Proof.Machine.execCpfree g h s
  | .gather g h a m f c p => Sys2Proof.Machine.execGather g h a m f c p s
  | .scatter g h a m f c p => Sys2Proof.Machine.execScatter g h a m f c p s
  | .mcast g h sx m f p => Sys2Proof.Machine.execMcast g h sx m f p s
  | .coll g h sx p f o => Sys2Proof.Machine.execColl g h sx p f o s
  | .hstat g d h => Sys2Proof.Machine.execHstat g d h s
  | .bra g o h n => Sys2Proof.Machine.execBra g o h n s
  | .brx g ix sx h n u => Sys2Proof.Machine.execBrx g ix sx h n u s
  | .callI g l o n => Sys2Proof.Machine.execCallI g l o n s
  | .callx g l ix sx n u => Sys2Proof.Machine.execCallx g l ix sx n u s
  | .ret g l n => Sys2Proof.Machine.execRet g l n s
  | .exitI g n => Sys2Proof.Machine.execExitI g n s
  | .fabEnter g r => Sys2Proof.Machine.execFabEnter g r s
  | .fabLeave g => Sys2Proof.Machine.execFabLeave g s
  | .bar n => Sys2Proof.Machine.execBar n s
  | .yield g => Sys2Proof.Machine.execYield g s
  | .nap g n u => Sys2Proof.Machine.execNap g n u s
  | .trapI g n => Sys2Proof.Machine.execTrapI g n s
  | .icinv g c sx r => Sys2Proof.Machine.execIcinv g c sx r s
  | .fetchb => Sys2Proof.Machine.execFetchb s
  | .strm g d sx f w => Sys2Proof.Machine.execStrm g d sx f w s
  | .sysopHarvest g c sx r => Sys2Proof.Machine.execSysopHarvest g c sx r s
  | .sysopUnpoison g c sx r => Sys2Proof.Machine.execSysopUnpoison g c sx r s
  | .imad g d a b c t cc fm => Sys2Proof.Machine.execImad g d a b c t cc fm s
  | .bfi g d a b c t cc fm => Sys2Proof.Machine.execBfi g d a b c t cc fm s
  | .ffma g d a b c t cc fm => Sys2Proof.Machine.execFfma g d a b c t cc fm s
  | .movI g d c t imm => Sys2Proof.Machine.execMovI g d c t imm s
  | .iaddI g d a c t imm => Sys2Proof.Machine.execIaddI g d a c t imm s
  | .fcmpI g k p a c t imm => Sys2Proof.Machine.execFcmpI g k p a c t imm s
  | .icmpI g k p a c t imm => Sys2Proof.Machine.execIcmpI g k p a c t imm s
  | .ldo g d a r ord sc z f u cl disp => Sys2Proof.Machine.execLdo g d a r ord sc z f u cl disp s
  | .sto g d a r ord sc z f u cl disp => Sys2Proof.Machine.execSto g d a r ord sc z f u cl disp s
  | .atomo g d a r n o cc ord sc z f u cl disp => Sys2Proof.Machine.execAtomo g d a r n o cc ord sc z f u cl disp s
  | .redo g a r o cc ord sc z f u cl disp => Sys2Proof.Machine.execRedo g a r o cc ord sc z f u cl disp s
  | .mma g ti a b ru src cc fm f => Sys2Proof.Machine.execMma g ti a b ru src cc fm f s
  | .mmaSp g ti a b ru pat src cc fm f => Sys2Proof.Machine.execMmaSp g ti a b ru pat src cc fm f s
  | .mmaDec g ti a b ru pat src cc lossy fm f => Sys2Proof.Machine.execMmaDec g ti a b ru pat src cc lossy fm f s
  | .cpx g h a m k p cc ord sc f u cl disp => Sys2Proof.Machine.execCpx g h a m k p cc ord sc f u cl disp s
  | .paddock g a r cc f => Sys2Proof.Machine.execPaddock g a r cc f s
  | .braL g h n off => Sys2Proof.Machine.execBraL g h n off s
  | .callL g l n off => Sys2Proof.Machine.execCallL g l n off s
  | .strmL g d w offhi f offlo => Sys2Proof.Machine.execStrmL g d w offhi f offlo s
  | .reservedMajor w w2 => Sys2Proof.Machine.execReservedMajor w w2 s
  | .clauseStart => Sys2Proof.Machine.execClauseStart s
  | .longLatencyCompletion core slot uid => Sys2Proof.Machine.execLongLatencyCompletion core slot uid s
  | .swapCountExpiry core slot second => Sys2Proof.Machine.execSwapCountExpiry core slot second s
  | .napEnd core slot second => Sys2Proof.Machine.execNapEnd core slot second s
  | .flockRetirement core slot => Sys2Proof.Machine.execFlockRetirement core slot s
  | .workgroupCompletion launch wg => Sys2Proof.Machine.execWorkgroupCompletion launch wg s
  | .doorbellWrite port queue offset value => Sys2Proof.Machine.execDoorbellWrite port queue offset value s
  | .queueSyncWrite port value => Sys2Proof.Machine.execQueueSyncWrite port value s
  | .queueTableWrite port value => Sys2Proof.Machine.execQueueTableWrite port value s
  | .packetDispatch => Sys2Proof.Machine.execPacketDispatch s
  | .launchPacket queue => Sys2Proof.Machine.execLaunchPacket queue s
  | .copyPacket queue => Sys2Proof.Machine.execCopyPacket queue s
  | .barrierAndPacket queue => Sys2Proof.Machine.execBarrierAndPacket queue s
  | .signalPacket queue => Sys2Proof.Machine.execSignalPacket queue s
  | .paddockPacket queue => Sys2Proof.Machine.execPaddockPacket queue s
  | .homeChangePacket queue => Sys2Proof.Machine.execHomeChangePacket queue s
  | .homeChangeComplete dom va => Sys2Proof.Machine.execHomeChangeComplete dom va s
  | .slotIdleUnmap hwSlot => Sys2Proof.Machine.execSlotIdleUnmap hwSlot s
  | .workgroupAdmission launch core place => Sys2Proof.Machine.execWorkgroupAdmission launch core place s
  | .quantumBoundary => Sys2Proof.Machine.execQuantumBoundary s
  | .workgroupSave launch wg => Sys2Proof.Machine.execWorkgroupSave launch wg s
  | .workgroupRestore launch wg place => Sys2Proof.Machine.execWorkgroupRestore launch wg place s
  | .faultResumeWrite port value => Sys2Proof.Machine.execFaultResumeWrite port value s
  | .faultRingWrite port value => Sys2Proof.Machine.execFaultRingWrite port value s
  | .faultEntryDeferredWrite => Sys2Proof.Machine.execFaultEntryDeferredWrite s
  | .copyLastByteLanded core handle => Sys2Proof.Machine.execCopyLastByteLanded core handle s
  | .copyPageFailure core handle => Sys2Proof.Machine.execCopyPageFailure core handle s
  | .mcastDelivery uid core => Sys2Proof.Machine.execMcastDelivery uid core s
  | .fullEmptyReissue uid => Sys2Proof.Machine.execFullEmptyReissue uid s
  | .updateSharerAck pad base => Sys2Proof.Machine.execUpdateSharerAck pad base s
  | .paddockLineEviction pad base => Sys2Proof.Machine.execPaddockLineEviction pad base s
  | .paddockLineMove pad base => Sys2Proof.Machine.execPaddockLineMove pad base s
  | .paddockShareArrival pad share => Sys2Proof.Machine.execPaddockShareArrival pad share s
  | .paddockResizeComplete pad => Sys2Proof.Machine.execPaddockResizeComplete pad s
  | .autoTick core => Sys2Proof.Machine.execAutoTick core s
  | .tileReleaseEffective core tile => Sys2Proof.Machine.execTileReleaseEffective core tile s
  | .operatorFiring core lane => Sys2Proof.Machine.execOperatorFiring core lane s
  | .sourceStart core lane => Sys2Proof.Machine.execSourceStart core lane s
  | .sourceAppend core lane => Sys2Proof.Machine.execSourceAppend core lane s
  | .sinkTake core lane => Sys2Proof.Machine.execSinkTake core lane s
  | .streamCommandCompletion core lane => Sys2Proof.Machine.execStreamCommandCompletion core lane s
  | .controlTokenArrival core lane => Sys2Proof.Machine.execControlTokenArrival core lane s
  | .spatialDrainEnd core => Sys2Proof.Machine.execSpatialDrainEnd core s
  | .spatialRestore launch wg place => Sys2Proof.Machine.execSpatialRestore launch wg place s
  | .cfgOwnRead port => Sys2Proof.Machine.execCfgOwnRead port s
  | .cfgOwnTickDecision => Sys2Proof.Machine.execCfgOwnTickDecision s
  | .cfgOwnWrite port value => Sys2Proof.Machine.execCfgOwnWrite port value s
  | .portLinkLoss port => Sys2Proof.Machine.execPortLinkLoss port s
  | .ownershipLapse => Sys2Proof.Machine.execOwnershipLapse s
  | .pwrModeWrite port value => Sys2Proof.Machine.execPwrModeWrite port value s
  | .islandLimitWrite port upper value => Sys2Proof.Machine.execIslandLimitWrite port upper value s
  | .configRegisterWrite port offset value => Sys2Proof.Machine.execConfigRegisterWrite port offset value s
  | .apertureRead port offset size => Sys2Proof.Machine.execApertureRead port offset size s
  | .apertureWrite port offset data => Sys2Proof.Machine.execApertureWrite port offset data s
  | .tlbInvGoWrite port value => Sys2Proof.Machine.execTlbInvGoWrite port value s
  | .tlbInvalidationDone port => Sys2Proof.Machine.execTlbInvalidationDone port s
  | .setDomain port cmd => Sys2Proof.Machine.execSetDomain port cmd s
  | .tearDownDomain port cmd => Sys2Proof.Machine.execTearDownDomain port cmd s
  | .assignFrames port cmd => Sys2Proof.Machine.execAssignFrames port cmd s
  | .loadKey port cmd => Sys2Proof.Machine.execLoadKey port cmd s
  | .eraseKey port cmd => Sys2Proof.Machine.execEraseKey port cmd s
  | .attest port cmd => Sys2Proof.Machine.execAttest port cmd s
  | .stageFirmware port cmd => Sys2Proof.Machine.execStageFirmware port cmd s
  | .checkStagedImage port cmd => Sys2Proof.Machine.execCheckStagedImage port cmd s
  | .loadCodeObject port cmd => Sys2Proof.Machine.execLoadCodeObject port cmd s
  | .unloadCodeObject port cmd => Sys2Proof.Machine.execUnloadCodeObject port cmd s
  | .translatePortableObject port cmd => Sys2Proof.Machine.execTranslatePortableObject port cmd s
  | .setTranslationCache port cmd => Sys2Proof.Machine.execSetTranslationCache port cmd s
  | .mboxUnknownCommand port cmd => Sys2Proof.Machine.execMboxUnknownCommand port cmd s
  | .moduleReset => Sys2Proof.Machine.execModuleReset s
  | .firmwareVerificationDone => Sys2Proof.Machine.execFirmwareVerificationDone s
  | .thermalStepDown island => Sys2Proof.Machine.execThermalStepDown island s
  | .thermalStepUp island => Sys2Proof.Machine.execThermalStepUp island s
  | .thermalStop island => Sys2Proof.Machine.execThermalStop island s
  | .islandClockSwitch island => Sys2Proof.Machine.execIslandClockSwitch island s
  | .cxlDeviceEnumeration cxlPort devType => Sys2Proof.Machine.execCxlDeviceEnumeration cxlPort devType s
  | .watchdogBlockedLimit launch wg => Sys2Proof.Machine.execWatchdogBlockedLimit launch wg s
  | .watchdogRunLimit launch wg => Sys2Proof.Machine.execWatchdogRunLimit launch wg s
  | .correctedError => Sys2Proof.Machine.execCorrectedError s
  | .uncorrectableMemoryError loc bank tag => Sys2Proof.Machine.execUncorrectableMemoryError loc bank tag s
  | .uncorrectableCoreStateError core slot unit => Sys2Proof.Machine.execUncorrectableCoreStateError core slot unit s
  | .agentLoss loc => Sys2Proof.Machine.execAgentLoss loc s
  | .writeArrivingOverCxl pa data poisoned => Sys2Proof.Machine.execWriteArrivingOverCxl pa data poisoned s

end Sys2Proof.Machine
end

