-- ==== Sys2Proof/WellFormed.lean ====
section
/-! DEFINITION. Well-formed instructions: every field fits its place in the words (R53, R54) and holds a code that the instruction
assigns (R55). -/

namespace Sys2Proof

/-- Whether every field fits its place in the instruction's words. A device event has no words: its operands name
units of the machine. -/
def fieldsFit : Instr → Bool
  | .iadd g d a b c t => decide (g < 8) && decide (d < 64) && decide (a < 64) && decide (b < 64) && decide (c < 4) && decide (t < 4)
  | .isub g d a b c t => decide (g < 8) && decide (d < 64) && decide (a < 64) && decide (b < 64) && decide (c < 4) && decide (t < 4)
  | .imul g d a b c t => decide (g < 8) && decide (d < 64) && decide (a < 64) && decide (b < 64) && decide (c < 4) && decide (t < 4)
  | .andB g d a b c t => decide (g < 8) && decide (d < 64) && decide (a < 64) && decide (b < 64) && decide (c < 4) && decide (t < 4)
  | .orB g d a b c t => decide (g < 8) && decide (d < 64) && decide (a < 64) && decide (b < 64) && decide (c < 4) && decide (t < 4)
  | .xorB g d a b c t => decide (g < 8) && decide (d < 64) && decide (a < 64) && decide (b < 64) && decide (c < 4) && decide (t < 4)
  | .shl g d a b c t => decide (g < 8) && decide (d < 64) && decide (a < 64) && decide (b < 64) && decide (c < 4) && decide (t < 4)
  | .shr g d a b c t => decide (g < 8) && decide (d < 64) && decide (a < 64) && decide (b < 64) && decide (c < 4) && decide (t < 4)
  | .imin g d a b c t => decide (g < 8) && decide (d < 64) && decide (a < 64) && decide (b < 64) && decide (c < 4) && decide (t < 2)
  | .imax g d a b c t => decide (g < 8) && decide (d < 64) && decide (a < 64) && decide (b < 64) && decide (c < 4) && decide (t < 2)
  | .iabsd g d a b c t => decide (g < 8) && decide (d < 64) && decide (a < 64) && decide (b < 64) && decide (c < 4) && decide (t < 4)
  | .bitcount g d a b c t => decide (g < 8) && decide (d < 64) && decide (a < 64) && decide (b < 64) && decide (c < 4) && decide (t < 4)
  | .bfe g d a b c t => decide (g < 8) && decide (d < 64) && decide (a < 64) && decide (b < 64) && decide (c < 4) && decide (t < 4)
  | .mov g d a f n => decide (g < 8) && decide (d < 64) && decide (a < 64) && decide (f < 4) && decide (n < 2)
  | .sel p d a b c => decide (p < 8) && decide (d < 64) && decide (a < 64) && decide (b < 64) && decide (c < 4)
  | .max2sel g d a b q t u => decide (g < 8) && decide (d < 64) && decide (a < 64) && decide (b < 64) && decide (q < 4) && decide (t < 2) && decide (u < 2)
  | .sreg g d sx u c => decide (g < 8) && decide (d < 64) && decide (sx < 64) && decide (u < 2) && decide (c < 2)
  | .fadd g d a b c t => decide (g < 8) && decide (d < 64) && decide (a < 64) && decide (b < 64) && decide (c < 4) && decide (t < 4)
  | .fsub g d a b c t => decide (g < 8) && decide (d < 64) && decide (a < 64) && decide (b < 64) && decide (c < 4) && decide (t < 4)
  | .fmul g d a b c t => decide (g < 8) && decide (d < 64) && decide (a < 64) && decide (b < 64) && decide (c < 4) && decide (t < 4)
  | .fmin g d a b c t => decide (g < 8) && decide (d < 64) && decide (a < 64) && decide (b < 64) && decide (c < 4) && decide (t < 4)
  | .fmax g d a b c t => decide (g < 8) && decide (d < 64) && decide (a < 64) && decide (b < 64) && decide (c < 4) && decide (t < 4)
  | .fcmp g k p a b c t => decide (g < 8) && decide (k < 8) && decide (p < 8) && decide (a < 64) && decide (b < 64) && decide (c < 4) && decide (t < 4)
  | .frcp g d a f c t => decide (g < 8) && decide (d < 64) && decide (a < 64) && decide (f < 2) && decide (c < 4) && decide (t < 4)
  | .frsq g d a f c t => decide (g < 8) && decide (d < 64) && decide (a < 64) && decide (f < 2) && decide (c < 4) && decide (t < 4)
  | .fex2 g d a f c t => decide (g < 8) && decide (d < 64) && decide (a < 64) && decide (f < 2) && decide (c < 4) && decide (t < 4)
  | .flg2 g d a f c t => decide (g < 8) && decide (d < 64) && decide (a < 64) && decide (f < 2) && decide (c < 4) && decide (t < 4)
  | .fsin g d a f c t => decide (g < 8) && decide (d < 64) && decide (a < 64) && decide (f < 2) && decide (c < 4) && decide (t < 4)
  | .fcos g d a f c t => decide (g < 8) && decide (d < 64) && decide (a < 64) && decide (f < 2) && decide (c < 4) && decide (t < 4)
  | .fclass g d a c t => decide (g < 8) && decide (d < 64) && decide (a < 64) && decide (c < 4) && decide (t < 4)
  | .fscale g d a b c t => decide (g < 8) && decide (d < 64) && decide (a < 64) && decide (b < 64) && decide (c < 4) && decide (t < 4)
  | .fround g d a f r c t => decide (g < 8) && decide (d < 64) && decide (a < 64) && decide (f < 2) && decide (r < 8) && decide (c < 4) && decide (t < 4)
  | .cvt g d a f sx r => decide (g < 8) && decide (d < 64) && decide (a < 64) && decide (f < 8) && decide (sx < 2) && decide (r < 8)
  | .cvti g d a f r => decide (g < 8) && decide (d < 64) && decide (a < 64) && decide (f < 16) && decide (r < 8)
  | .pack g d a b c t => decide (g < 8) && decide (d < 64) && decide (a < 64) && decide (b < 64) && decide (c < 4) && decide (t < 4)
  | .unpack g d a t u ix => decide (g < 8) && decide (d < 64) && decide (a < 64) && decide (t < 16) && decide (u < 2) && decide (ix < 8)
  | .cbdec g d a sx u ix => decide (g < 8) && decide (d < 64) && decide (a < 64) && decide (sx < 8) && decide (u < 2) && decide (ix < 4)
  | .cbload g sx r b => decide (g < 8) && decide (sx < 8) && decide (r < 64) && decide (b < 16)
  | .mxscale g d a e => decide (g < 8) && decide (d < 64) && decide (a < 64) && decide (e < 4)
  | .icmp g k p a b c t => decide (g < 8) && decide (k < 8) && decide (p < 8) && decide (a < 64) && decide (b < 64) && decide (c < 4) && decide (t < 4)
  | .pop g d a b o => decide (g < 8) && decide (d < 8) && decide (a < 8) && decide (b < 8) && decide (o < 4)
  | .ballot g d p u => decide (g < 8) && decide (d < 64) && decide (p < 8) && decide (u < 2)
  | .agree g d a t => decide (g < 8) && decide (d < 8) && decide (a < 8) && decide (t < 4)
  | .matchK g d a w => decide (g < 8) && decide (d < 64) && decide (a < 64) && decide (w < 4)
  | .xpick g d a b sx m => decide (g < 8) && decide (d < 64) && decide (a < 64) && decide (b < 64) && decide (sx < 4) && decide (m < 4)
  | .xfold g d a t u o => decide (g < 8) && decide (d < 64) && decide (a < 64) && decide (t < 2) && decide (u < 2) && decide (o < 8)
  | .lead g p a m => decide (g < 8) && decide (p < 8) && decide (a < 64) && decide (m < 2)
  | .ld g d a r f sx z c => decide (g < 8) && decide (d < 64) && decide (a < 64) && decide (r < 16) && decide (f < 2) && decide (sx < 2) && decide (z < 8) && decide (c < 2)
  | .st g d a r f sx z c => decide (g < 8) && decide (d < 64) && decide (a < 64) && decide (r < 16) && decide (f < 2) && decide (sx < 2) && decide (z < 8) && decide (c < 2)
  | .ldsp g d a r f sx z c => decide (g < 8) && decide (d < 64) && decide (a < 64) && decide (r < 16) && decide (f < 2) && decide (sx < 2) && decide (z < 8) && decide (c < 2)
  | .stsp g d a r f sx z c => decide (g < 8) && decide (d < 64) && decide (a < 64) && decide (r < 16) && decide (f < 2) && decide (sx < 2) && decide (z < 8) && decide (c < 2)
  | .atom g d a r f n o => decide (g < 8) && decide (d < 64) && decide (a < 64) && decide (r < 16) && decide (f < 2) && decide (n < 2) && decide (o < 16)
  | .red g d a r f o => decide (g < 8) && decide (d < 64) && decide (a < 64) && decide (r < 16) && decide (f < 2) && decide (o < 16)
  | .atomsp g d a r f n o => decide (g < 8) && decide (d < 64) && decide (a < 64) && decide (r < 16) && decide (f < 2) && decide (n < 2) && decide (o < 16)
  | .ldfe g d a r f t c => decide (g < 8) && decide (d < 64) && decide (a < 64) && decide (r < 16) && decide (f < 2) && decide (t < 2) && decide (c < 2)
  | .stfe g d a r f t c => decide (g < 8) && decide (d < 64) && decide (a < 64) && decide (r < 16) && decide (f < 2) && decide (t < 2) && decide (c < 2)
  | .fence sx o => decide (sx < 8) && decide (o < 4)
  | .ldb g d sx r f => decide (g < 8) && decide (d < 16) && decide (sx < 64) && decide (r < 16) && decide (f < 2)
  | .cache g n sx r f o => decide (g < 8) && decide (n < 64) && decide (sx < 64) && decide (r < 16) && decide (f < 2) && decide (o < 4)
  | .prefetch g n sx r f o => decide (g < 8) && decide (n < 64) && decide (sx < 64) && decide (r < 16) && decide (f < 2) && decide (o < 4)
  | .tick g a u => decide (g < 8) && decide (a < 64) && decide (u < 2)
  | .accTake g t => decide (g < 8) && decide (t < 4)
  | .accFree g t => decide (g < 8) && decide (t < 4)
  | .accZero g t => decide (g < 8) && decide (t < 4)
  | .accRd g d t f c => decide (g < 8) && decide (d < 64) && decide (t < 4) && decide (f < 2) && decide (c < 32)
  | .region g t sx => decide (g < 8) && decide (t < 4) && decide (sx < 64)
  | .compress g d a m k mlo p x => decide (g < 8) && decide (d < 64) && decide (a < 64) && decide (m < 16) && decide (k < 2) && decide (mlo < 2) && decide (p < 4) && decide (x < 4)
  | .cp g h sx m f p => decide (g < 8) && decide (h < 64) && decide (sx < 64) && decide (m < 16) && decide (f < 2) && decide (p < 16)
  | .cpColl g h sx m f p => decide (g < 8) && decide (h < 64) && decide (sx < 64) && decide (m < 16) && decide (f < 2) && decide (p < 16)
  | .cpwait g h w => decide (g < 8) && decide (h < 64) && decide (w < 2)
  | .cpfree g h => decide (g < 8) && decide (h < 64)
  | .gather g h a m f c p => decide (g < 8) && decide (h < 64) && decide (a < 64) && decide (m < 16) && decide (f < 2) && decide (c < 2) && decide (p < 16)
  | .scatter g h a m f c p => decide (g < 8) && decide (h < 64) && decide (a < 64) && decide (m < 16) && decide (f < 2) && decide (c < 2) && decide (p < 16)
  | .mcast g h sx m f p => decide (g < 8) && decide (h < 64) && decide (sx < 64) && decide (m < 16) && decide (f < 2) && decide (p < 16)
  | .coll g h sx p f o => decide (g < 8) && decide (h < 64) && decide (sx < 64) && decide (p < 16) && decide (f < 2) && decide (o < 16)
  | .hstat g d h => decide (g < 8) && decide (d < 64) && decide (h < 64)
  | .bra g o h n => decide (g < 8) && decide (o < 262144) && decide (h < 4) && decide (n < 2)
  | .brx g ix sx h n u => decide (g < 8) && decide (ix < 64) && decide (sx < 64) && decide (h < 4) && decide (n < 2) && decide (u < 2)
  | .callI g l o n => decide (g < 8) && decide (l < 64) && decide (o < 4096) && decide (n < 2)
  | .callx g l ix sx n u => decide (g < 8) && decide (l < 64) && decide (ix < 64) && decide (sx < 64) && decide (n < 2) && decide (u < 2)
  | .ret g l n => decide (g < 8) && decide (l < 64) && decide (n < 2)
  | .exitI g n => decide (g < 8) && decide (n < 2)
  | .fabEnter g r => decide (g < 8) && decide (r < 16)
  | .fabLeave g => decide (g < 8)
  | .bar n => decide (n < 64)
  | .yield g => decide (g < 8)
  | .nap g n u => decide (g < 8) && decide (n < 4096) && decide (u < 2)
  | .trapI g n => decide (g < 8) && decide (n < 4096)
  | .icinv g c sx r => decide (g < 8) && decide (c < 64) && decide (sx < 64) && decide (r < 16)
  | .fetchb => true
  | .strm g d sx f w => decide (g < 8) && decide (d < 64) && decide (sx < 64) && decide (f < 2) && decide (w < 2)
  | .sysopHarvest g c sx r => decide (g < 8) && decide (c < 64) && decide (sx < 64) && decide (r < 16)
  | .sysopUnpoison g c sx r => decide (g < 8) && decide (c < 64) && decide (sx < 64) && decide (r < 16)
  | .imad g d a b c t cc fm => decide (g < 8) && decide (d < 64) && decide (a < 64) && decide (b < 64) && decide (c < 4) && decide (t < 4) && decide (cc < 64) && decide (fm < 16)
  | .bfi g d a b c t cc fm => decide (g < 8) && decide (d < 64) && decide (a < 64) && decide (b < 64) && decide (c < 4) && decide (t < 4) && decide (cc < 64) && decide (fm < 16)
  | .ffma g d a b c t cc fm => decide (g < 8) && decide (d < 64) && decide (a < 64) && decide (b < 64) && decide (c < 4) && decide (t < 4) && decide (cc < 64) && decide (fm < 16)
  | .movI g d c t imm => decide (g < 8) && decide (d < 64) && decide (c < 4) && decide (t < 4) && decide (imm < 4294967296)
  | .iaddI g d a c t imm => decide (g < 8) && decide (d < 64) && decide (a < 64) && decide (c < 4) && decide (t < 4) && decide (imm < 4294967296)
  | .fcmpI g k p a c t imm => decide (g < 8) && decide (k < 8) && decide (p < 8) && decide (a < 64) && decide (c < 4) && decide (t < 4) && decide (imm < 4294967296)
  | .icmpI g k p a c t imm => decide (g < 8) && decide (k < 8) && decide (p < 8) && decide (a < 64) && decide (c < 4) && decide (t < 4) && decide (imm < 4294967296)
  | .ldo g d a r ord sc z f u cl disp => decide (g < 8) && decide (d < 64) && decide (a < 64) && decide (r < 16) && decide (ord < 4) && decide (sc < 8) && decide (z < 8) && decide (f < 2) && decide (u < 2) && decide (cl < 2) && decide (disp < 2048)
  | .sto g d a r ord sc z f u cl disp => decide (g < 8) && decide (d < 64) && decide (a < 64) && decide (r < 16) && decide (ord < 4) && decide (sc < 8) && decide (z < 8) && decide (f < 2) && decide (u < 2) && decide (cl < 2) && decide (disp < 2048)
  | .atomo g d a r n o cc ord sc z f u cl disp => decide (g < 8) && decide (d < 64) && decide (a < 64) && decide (r < 16) && decide (n < 2) && decide (o < 16) && decide (cc < 64) && decide (ord < 4) && decide (sc < 8) && decide (z < 8) && decide (f < 2) && decide (u < 2) && decide (cl < 2) && decide (disp < 2048)
  | .redo g a r o cc ord sc z f u cl disp => decide (g < 8) && decide (a < 64) && decide (r < 16) && decide (o < 16) && decide (cc < 64) && decide (ord < 4) && decide (sc < 8) && decide (z < 8) && decide (f < 2) && decide (u < 2) && decide (cl < 2) && decide (disp < 2048)
  | .mma g ti a b ru src cc fm f => decide (g < 8) && decide (ti < 4) && decide (a < 64) && decide (b < 64) && decide (ru < 2) && decide (src < 2) && decide (cc < 64) && decide (fm < 16) && decide (f < 2)
  | .mmaSp g ti a b ru pat src cc fm f => decide (g < 8) && decide (ti < 4) && decide (a < 64) && decide (b < 64) && decide (ru < 2) && decide (pat < 4) && decide (src < 2) && decide (cc < 64) && decide (fm < 16) && decide (f < 2)
  | .mmaDec g ti a b ru pat src cc lossy fm f => decide (g < 8) && decide (ti < 4) && decide (a < 64) && decide (b < 64) && decide (ru < 2) && decide (pat < 4) && decide (src < 2) && decide (cc < 64) && decide (lossy < 2) && decide (fm < 8) && decide (f < 2)
  | .cpx g h a m k p cc ord sc f u cl disp => decide (g < 8) && decide (h < 64) && decide (a < 64) && decide (m < 16) && decide (k < 4) && decide (p < 16) && decide (cc < 64) && decide (ord < 4) && decide (sc < 8) && decide (f < 2) && decide (u < 2) && decide (cl < 2) && decide (disp < 2048)
  | .paddock g a r cc f => decide (g < 8) && decide (a < 64) && decide (r < 16) && decide (cc < 64) && decide (f < 2)
  | .braL g h n off => decide (g < 8) && decide (h < 4) && decide (n < 2) && decide (off < 4294967296)
  | .callL g l n off => decide (g < 8) && decide (l < 64) && decide (n < 2) && decide (off < 4294967296)
  | .strmL g d w offhi f offlo => decide (g < 8) && decide (d < 64) && decide (w < 2) && decide (offhi < 262144) && decide (f < 2) && decide (offlo < 8192)
  | .reservedMajor w w2 => isReservedMajor (bits w 31 25) && decide (w < 2 ^ 32) && (if isLongMajor (bits w 31 25) then decide (w2 < 2 ^ 32) else w2 == 0)
  | .clauseStart .. => true
  | .longLatencyCompletion core slot _ => decide (core < 576) && decide (slot < 64)
  | .swapCountExpiry core slot _ => decide (core < 576) && decide (slot < 64)
  | .napEnd core slot _ => decide (core < 576) && decide (slot < 64)
  | .flockRetirement core slot => decide (core < 576) && decide (slot < 64)
  | .workgroupCompletion .. => true
  | .doorbellWrite _ queue _ _ => decide (queue < 65536)
  | .queueSyncWrite .. => true
  | .queueTableWrite .. => true
  | .packetDispatch .. => true
  | .launchPacket queue => decide (queue < 65536)
  | .copyPacket queue => decide (queue < 65536)
  | .barrierAndPacket queue => decide (queue < 65536)
  | .signalPacket queue => decide (queue < 65536)
  | .paddockPacket queue => decide (queue < 65536)
  | .homeChangePacket queue => decide (queue < 65536)
  | .homeChangeComplete .. => true
  | .slotIdleUnmap hwSlot => decide (hwSlot < 256)
  | .workgroupAdmission _ core _ => decide (core < 576)
  | .quantumBoundary .. => true
  | .workgroupSave .. => true
  | .workgroupRestore .. => true
  | .faultResumeWrite .. => true
  | .faultRingWrite .. => true
  | .faultEntryDeferredWrite .. => true
  | .copyLastByteLanded core handle => decide (core < 576) && decide (handle < 64)
  | .copyPageFailure core handle => decide (core < 576) && decide (handle < 64)
  | .mcastDelivery _ core => decide (core < 576)
  | .fullEmptyReissue .. => true
  | .updateSharerAck pad _ => decide (pad < 64)
  | .paddockLineEviction pad _ => decide (pad < 64)
  | .paddockLineMove pad _ => decide (pad < 64)
  | .paddockShareArrival pad share => decide (pad < 64) && decide (share < 16128)
  | .paddockResizeComplete pad => decide (pad < 64)
  | .autoTick core => decide (core < 576)
  | .tileReleaseEffective core tile => decide (core < 576) && decide (tile < 4)
  | .operatorFiring core lane => decide (core < 576) && decide (lane < 64)
  | .sourceStart core lane => decide (core < 576) && decide (lane < 64)
  | .sourceAppend core lane => decide (core < 576) && decide (lane < 64)
  | .sinkTake core lane => decide (core < 576) && decide (lane < 64)
  | .streamCommandCompletion core lane => decide (core < 576) && decide (lane < 64)
  | .controlTokenArrival core lane => decide (core < 576) && decide (lane < 64)
  | .spatialDrainEnd core => decide (core < 576)
  | .spatialRestore .. => true
  | .cfgOwnRead .. => true
  | .cfgOwnTickDecision .. => true
  | .cfgOwnWrite .. => true
  | .portLinkLoss .. => true
  | .ownershipLapse .. => true
  | .pwrModeWrite .. => true
  | .islandLimitWrite .. => true
  | .configRegisterWrite .. => true
  | .apertureRead .. => true
  | .apertureWrite .. => true
  | .tlbInvGoWrite .. => true
  | .tlbInvalidationDone .. => true
  | .setDomain .. => true
  | .tearDownDomain .. => true
  | .assignFrames .. => true
  | .loadKey .. => true
  | .eraseKey .. => true
  | .attest .. => true
  | .stageFirmware .. => true
  | .checkStagedImage .. => true
  | .loadCodeObject .. => true
  | .unloadCodeObject .. => true
  | .translatePortableObject .. => true
  | .setTranslationCache .. => true
  | .mboxUnknownCommand .. => true
  | .moduleReset .. => true
  | .firmwareVerificationDone .. => true
  | .thermalStepDown island => decide (island < 64)
  | .thermalStepUp island => decide (island < 64)
  | .thermalStop island => decide (island < 64)
  | .islandClockSwitch island => decide (island < 64)
  | .cxlDeviceEnumeration cxlPort _ => decide (cxlPort < 8)
  | .watchdogBlockedLimit .. => true
  | .watchdogRunLimit .. => true
  | .correctedError .. => true
  | .uncorrectableMemoryError _ bank _ => bank.all fun b => decide (b < 16128)
  | .uncorrectableCoreStateError core slot _ => decide (core < 576) && decide (slot < 64)
  | .agentLoss .. => true
  | .writeArrivingOverCxl .. => true

/-- An instruction that has words and executes as itself: its fields fit, and each holds an assigned code. -/
def wellFormed (i : Instr) : Bool := fieldsFit i && Machine.legalForm i

end Sys2Proof
end

