-- ==== Sys2Proof/Machine/Turn.lean ====
section
/-! DEFINITION. Whose turn it is: the issue turn of a flock (R253, R255, R278), and the choice the model makes where the schedule leaves one
(log entry 2). -/

namespace Sys2Proof.Machine

/-! ### Issue turns -/

/-- Runs the issuing path: a clause start, or the instruction at its PC (R46, R55). -/
def runPath (s : State) : Out :=
  let p := curPath s
  if p.left = 0 then exec .clauseStart s
  else
    match fetchInstr s with
    | (s, none) => .next s
    | (s, some ws) =>
      match decodeWords (ws.getD 0 0) (ws.getD 1 0) with
      | .ok i => exec i s
      | .error _ => .next (takeTrap (illegalRec ws (wordMask s (ws.getD 0 0)) s) s)

/-- Runs a PC slot's path; what it waited for, it finds again or no longer. -/
def runSlot (second : Bool) (s : State) : Out :=
  let s := { s with second := second }
  runPath (match (curPath s).wait with
    | .none => s
    | .bar _ => s
    | _ => waitFor .none s)

/-- Blocked time starts again once a path of the issuing flock leaves its wait (R378). -/
def leaveWait (s : State) : State := updWg (cur s).launch (cur s).wg (fun w => { w with blocked := 0 }) s

/-- Whether a path still waits where it stood: in a slot, or on the stack where a swap has put it. -/
def stillStands (p : Path) (f : Flock) : Bool :=
  (f.path0.toList ++ f.path1.toList ++ f.stack).any fun q =>
    q.pc == p.pc && q.left == p.left && q.mask &&& p.mask == p.mask && readiness 0 q == .polls

/-- Whether a path got on in its turn. -/
def gotOn (p : Path) (o : Out) : Bool :=
  match o with
  | .next t => !stillStands p (cur t)
  | _ => true

/-- Tries a path that waits: whether it got on comes with the answer. Only a path that leaves its wait restarts blocked time (R378). -/
def trySlot (second : Bool) (s : State) : Out × Bool :=
  let o := runSlot second s
  if gotOn ((pathOf (cur s) second).getD emptyPath) o then
    (match o with
      | .next t => .next (leaveWait t)
      | o => o, true)
  else (o, false)

/-- A slot's path, by what it can do. -/
def slotReady (s : State) (second : Bool) : Ready :=
  match pathOf (cur s) second with
  | none => .blocked
  | some p => readiness (clockOf s s.core) p

/-- The slot with the lower PC (R253). -/
def lowerSlot (f : Flock) : Bool :=
  match f.path0, f.path1 with
  | some p, some q => decide (q.pc < p.pc)
  | none, some _ => true
  | _, _ => false

/-- One slot's part in an issue turn: whether it issued comes with the answer. -/
def attempt (second : Bool) (s : State) : Out × Bool :=
  match slotReady s second with
  | .runs => (runSlot second s, true)
  | .polls => trySlot second s
  | .blocked => (.next s, false)

/-- A flock's issue turn: the slot with the lower PC if it can issue, otherwise the other (R253). What a slot that still waits has done
stands. -/
def issueFlock (s : State) : Out :=
  let a := lowerSlot (cur s)
  match attempt a s with
  | (.next t, false) => (attempt (!a) t).1
  | (r, _) => r

/-- Whether a flock of the issuing core is ready: a path of it can issue, or what it waits for has come. -/
def isReady (s : State) (f : Nat) : Bool :=
  let t := { s with slot := f }
  mayIssue s s.core f && [false, true].any fun b => slotReady t b != .blocked && gotOn ((pathOf (cur t) b).getD emptyPath) (runSlot b t)

/-- The flock that takes the issue turn of core and slot: where that flock has yielded, another ready one of its octet (R45). -/
def turnTaker (s : State) : State :=
  if !(cur s).yielded then s
  else
    let octet := (cur s).octet
    let t := setCur { cur s with yielded := false } s
    let others := (coreAt s s.core).flocks.filter fun x => x.1 != s.slot && x.2.octet == octet && isReady s x.1
    match nextAfter s.core s.slot (others.map fun x => (s.core, x.1)) with
    | some x => { t with slot := x.2 }
    | none => t

/-- The issue turn of core and slot. -/
def issueTurn (s : State) : Out := issueFlock (turnTaker s)

/-! ### The model's own choice -/

/-- A turn of the schedule. -/
def runTurn (t : Turn) (s : State) : Out :=
  match t with
  | .event i => if fieldsFit i then exec i s else .fault .illFormedTurn
  | .issue c f => if 576 ≤ c ∨ 64 ≤ f then .fault .illFormedTurn else
      let s := { s with core := c, slot := f }
      if mayIssue s c f then issueTurn s else .next s
  | .elapse ns => .next (elapse ns s)
  | .fetchAhead c f b off => if 576 ≤ c ∨ 64 ≤ f then .fault .illFormedTurn else .next (fetchAhead c f b off s)
  | .keepCode dom va => .next (keepCode dom va s)
  | .fetchOld c f b off n => if 576 ≤ c ∨ 64 ≤ f then .fault .illFormedTurn else .next (fetchOld c f b off n s)
  | .dropCode c dom va => if 576 ≤ c then .fault .illFormedTurn else .next (dropCode c dom va s)
  | .dropTranslation dom va => .next (dropTranslation dom va s)
  | .cxlRead pa n => .next (cxlRead pa n s)
  | .heat i r => if 64 ≤ i then .fault .illFormedTurn else .next (heat i r s)

/-- The admissions that the drover can make. -/
def admissions (s : State) : List Instr :=
  s.launches.filterMap fun l =>
    match nextCore s l with
    | none => none
    | some c => (findPlaces (blocksOf l.b) l.f (takenPlaces s c)).map fun p => .workgroupAdmission l.num c p

/-- The restores that the drover can make. -/
def restores (s : State) : List Instr :=
  (s.wgs.filter (restoreTurn s)).filterMap fun w =>
    (findPlaces (blocksOf (launchOf s w.launch).b) w.keptSlots.length (takenPlaces s w.core)).map fun p =>
      if w.spatial then .spatialRestore w.launch w.index p else .workgroupRestore w.launch w.index p

/-- What the lanes of a core's fabric can do. -/
def laneTurns (k : Nat × Core) : List Instr :=
  match k.2.fabric with
  | none => []
  | some f => .spatialDrainEnd k.1 :: (List.range f.ops.length).flatMap fun l =>
      [.sourceStart k.1 l, .sourceAppend k.1 l, .sinkTake k.1 l, .operatorFiring k.1 l, .streamCommandCompletion k.1 l,
       .controlTokenArrival k.1 l]

/-- The device events that may be possible. -/
def choices (s : State) : List Instr :=
  (if s.mgmt.fwState < 2 then [.firmwareVerificationDone] else []) ++
  [Port.portA, Port.portB].flatMap (fun p => if invalReady s p then [.tlbInvalidationDone p] else []) ++
  (match s.mgmt.serving.bind fun p => (portRegs s p).mbox.run.map (cmdEvent p) with
    | some i => if (s.mgmt.answer.isSome || s.mgmt.awaited != { uids := [], lines := [] }) && commandDone s then [i] else []
    | none => []) ++
  (if (dispatchChoice s).isSome then [.packetDispatch] else []) ++ s.feRetry.map (fun r => .fullEmptyReissue r.uid) ++
  admissions s ++ restores s

/-- Whether an event of `choices` had an effect: each changes one of these. -/
def hasMoved (s t : State) : Bool :=
  decide (t.todo ≠ s.todo) || decide (t.wgs ≠ s.wgs) || decide (t.launches ≠ s.launches) || decide (t.packets ≠ s.packets) ||
  decide (t.queues ≠ s.queues) || decide (t.cores ≠ s.cores) || decide (t.feRetry ≠ s.feRetry) || decide (t.portA ≠ s.portA) ||
  decide (t.portB ≠ s.portB) || decide (t.mgmt ≠ s.mgmt)

/-- The first of several events that has an effect. -/
def firstEffect (s : State) : List Instr → Option State
  | [] => none
  | i :: r =>
    match exec i s with
    | .next t => if hasMoved s t then some t else firstEffect s r
    | _ => firstEffect s r

/-- Whether an event has an effect. -/
def hasEffect (s : State) (i : Instr) : Bool :=
  match exec i s with
  | .next t => hasMoved s t
  | _ => false

/-- What the lanes of every fabric can do now. -/
def laneChoices (s : State) : List Instr := (s.cores.flatMap laneTurns).filter (hasEffect s)

/-- Without a schedule: a device event that is possible; else, in turns, all that the lanes can do, and the next flock that can run; else a
flock that waits, as a little time passes; else time alone. -/
def defaultTurn (s : State) : Out :=
  match firstEffect s (choices s) with
  | some t => .next t
  | none =>
    let lanes := laneChoices s
    let odd := s.time % 2
    match lanes, nextAfter s.core s.slot (candidates s .runs) with
    | [], some x => issueTurn { elapse (2 - odd) s with core := x.1, slot := x.2 }
    | _ :: _, some x =>
      if odd = 0 then .next { elapse 1 s with todo := s.todo ++ lanes }
      else issueTurn { elapse 1 s with core := x.1, slot := x.2 }
    | l, none =>
      match nextAfter s.core s.slot (candidates s .polls) with
      | some x =>
        if l ≠ [] ∧ odd = 0 then .next { elapse 1 s with todo := s.todo ++ l }
        else issueTurn { elapse (if l = [] then 10 - odd else 1) s with core := x.1, slot := x.2 }
      | none => if l = [] then .next (elapse 1000 s) else .next { elapse 1 s with todo := s.todo ++ l }

/-- Without a schedule, a completion stays outstanding while a path of its flock can run, for eight issue turns at most: a flock's other
path gets its turns (R45, R49). -/
def heldBack (s : State) (i : Instr) : Bool :=
  match i with
  | .longLatencyCompletion c f _ => (candidates s .runs).contains (c, f) && s.time / 2 % 8 != 0
  | _ => false

/-- Without a schedule: the oldest due event, or the model's own choice. -/
def freeTurn (s : State) : Out :=
  match s.todo with
  | i :: r => if heldBack s i then defaultTurn s else exec i { s with todo := r }
  | [] => defaultTurn s

/-! ### Placing one instruction (the host's withFetchWord) -/

/-- A state whose next issue turn executes the given words: a resident flock with all its threads on one path, inside a clause of just these
words, which the core's instruction cache holds (log entry 12). -/
def placeWords (ws : List Nat) (s : State) : State :=
  let l := s.nextLaunch
  let o := s.nextObj
  let k := coreAt s s.core
  let p : Path := { pc := 64, left := ws.length, hint := false, mask := BitVec.allOnes 32, setA := 0, setB := 1, wait := .none }
  let f := { emptyFlock with launch := l, budget := 64, path0 := some p }
  let s := { s with
    agenda := [.issue s.core s.slot], todo := [], second := false, nextLaunch := l + 1, nextObj := o + 1
    launches := { noLaunch with num := l, obj := o, n := 1, f := 1, b := 64 } :: s.launches
    wgs := { noWg with launch := l, core := s.core, phase := .resident, slots := [s.slot] } :: s.wgs
    objects := { noObj with num := o, codeSize := 4096 } :: s.objects }
  let words := (ws.zipIdx).map fun w => (icacheKey 0 (64 + 4 * w.2), BitVec.ofNat 32 w.1)
  setCore s.core { k with
    flocks := smapPut k.flocks s.slot f
    icache := words.foldl (fun m w => smapPut m w.1 w.2) k.icache } s

/-- The turn that a step takes. -/
def takeTurn (s : State) : Out :=
  match s.agenda with
  | t :: r => runTurn t { s with agenda := r }
  | [] => freeTurn s

/-- The end of a turn: the error ring entries that have become due are written (R376; log entry 76). -/
def closeTurn (o : Out) : Out :=
  match o with
  | .next t => .next (flushErrors t)
  | o => o

end Sys2Proof.Machine
end

