-- ==== Sys2Proof/Machine/Step.lean ====
section
/-! DEFINITION. One step of the device: the schedule's next turn, or else the oldest due event, or else the model's own choice (log
entry 2); and the placing of one instruction that the host asks for. -/

namespace Sys2Proof.Machine

/-- One step. -/
def step (s : State) : Host.Outcome State Fault Refusal := closeTurn (takeTurn s)

/-- The state whose next step runs the instruction with bits w, numbered as the opcode table numbers them. -/
def State.withFetchWord (s : State) (nbits w : Nat) : State :=
  let v := w % 2 ^ nbits
  placeWords (if isLongMajor (bits v 31 25) then [v % 4294967296, v / 4294967296 % 4294967296] else [v % 4294967296]) s

end Sys2Proof.Machine
end

