-- ==== Sys2Proof/Safety.lean ====
section
/-! DEFINITION. What counts as a safe run, and the words in which the statements are made: what an instruction accepts, what it writes, what
it leaves as it was. -/

namespace Sys2Proof

open Machine

/-! ### Runs -/

/-- A turn names units that exist. -/
def Safety.turnOk : Turn → Bool
  | .event i => fieldsFit i
  | .issue c f => decide (c < 576) && decide (f < 64)
  | .elapse _ => true
  | .fetchAhead c f _ _ => decide (c < 576) && decide (f < 64)
  | .keepCode _ _ => true
  | .fetchOld c f _ _ _ => decide (c < 576) && decide (f < 64)
  | .dropCode c _ _ => decide (c < 576)
  | .dropTranslation _ _ => true
  | .heat i _ => decide (i < 64)
  | .cxlRead _ _ => true

/-- The schedule names units that exist. -/
def Safety.agendaOk (s : State) : Bool := s.agenda.all Safety.turnOk

/-- A state from which the machine steps on. -/
def Safety.Goes (s : State) : Prop := ∃ t, step s = .next t

/-! ### Register instructions -/

/-- The checks that every instruction makes first pass (R55, R62): each field holds an assigned code, and each v register named lies below
the flock's allocation. -/
def Safety.Accepts (i : Instr) (regs : List Nat) (s : State) : Prop := legalForm i = true ∧ ∀ n ∈ regs, n < (cur s).budget

/-- The instruction raises illegal-opcode, with its words in the record, in every state (R55). -/
def Safety.Illegal (i : Instr) : Prop := ∀ s : State, ∃ m, exec i s = .next (takeTrap (illegalRec (encode i) m s) s)

/-- The word of a short form: major, guard, D, A, B and modifier (R53). -/
def Safety.word (major g d a b m : Nat) : Nat := major * 2 ^ 25 + g * 2 ^ 22 + d * 2 ^ 16 + a * 2 ^ 10 + b * 2 ^ 4 + m

/-- The threads that compute for a destination: every active thread for a v register, the lowest of them for an s register (R59, R100). -/
def Safety.takers (m : Mask) (d : Dst) : List Nat :=
  match d with
  | .v _ => threadsOf m
  | .s _ => (lowest m).toList

/-- Between two flocks, destination d has val in the threads that computed, and every other v and s register is as it was. -/
def Safety.Writes (f g : Flock) (m : Mask) (d : Dst) (val : Nat → Word) : Prop :=
  (∀ n t, t < 32 → getV g t n = if d = .v n ∧ inMask m t then val t else getV f t n) ∧
  ∀ n, getS g n = match lowest m with
    | some t => if d = .s n then val t else getS f n
    | none => getS f n

/-- Predicate p has val in the threads of a mask, every other predicate value is as it was, and p7 is never written (R60). -/
def Safety.WritesPred (f g : Flock) (m : Mask) (p : Nat) (val : Nat → Bool) : Prop :=
  ∀ n t, t < 32 → inMask (getP g n) t = if n = p ∧ p ≠ 7 ∧ inMask m t then val t else inMask (getP f n) t

/-- Two flocks differ in v, s and p registers and status at most. The reuse latch, which no program sees (R41), is left out. -/
def Safety.SameElse (f g : Flock) : Prop :=
  ∃ la, g = { f with v := g.v, s := g.s, p := g.p, status := g.status, latch := la }

/-- The instruction completes: it writes val to d and raises the flags that its threads raise (R93), and the path moves on. -/
def Safety.Computes (i : Instr) (s : State) (m : Mask) (d : Dst) (val : Nat → Word) (fl : Nat → Nat) : Prop :=
  ∃ g, exec i s = .next (advance (encode i).length (setCur g s)) ∧ Safety.Writes (cur s) g m d val ∧ Safety.SameElse (cur s) g ∧
    g.p = (cur s).p ∧ g.status = (cur s).status ||| BitVec.ofNat 32 (flAll ((Safety.takers m d).map fl))

/-- The instruction completes: it writes val to predicate p and nothing else, and the path moves on. -/
def Safety.Decides (i : Instr) (s : State) (m : Mask) (p : Nat) (val : Nat → Bool) : Prop :=
  ∃ g, exec i s = .next (advance (encode i).length (setCur g s)) ∧ Safety.WritesPred (cur s) g m p val ∧ Safety.SameElse (cur s) g ∧
    g.v = (cur s).v ∧ g.s = (cur s).s ∧ g.status = (cur s).status

/-- An operation on a register's one element of 32 bits, or on its two elements of 16 bits (R82, R104). -/
def Safety.each (packed : Bool) (op : (w : Nat) → BitVec w → BitVec w → BitVec w) (x y : Word) : Word :=
  if packed then op 16 (x.extractLsb' 16 16) (y.extractLsb' 16 16) ++ op 16 (x.extractLsb' 0 16) (y.extractLsb' 0 16) else op 32 x y

/-- The same for an operation of a float format, on codes and with flags. -/
def Safety.eachCode (packed : Bool) (op : Nat → Nat → Nat × Nat) (x y : Word) : Word × Nat :=
  if packed then
    ((BitVec.ofNat 16 (op (x.extractLsb' 16 16).toNat (y.extractLsb' 16 16).toNat).1 ++
        BitVec.ofNat 16 (op (x.extractLsb' 0 16).toNat (y.extractLsb' 0 16).toNat).1 : Word),
      (op (x.extractLsb' 0 16).toNat (y.extractLsb' 0 16).toNat).2 ||| (op (x.extractLsb' 16 16).toNat (y.extractLsb' 16 16).toNat).2)
  else (BitVec.ofNat 32 (op x.toNat y.toNat).1, (op x.toNat y.toNat).2)

/-- The v registers that a destination and operands name. -/
def Safety.named (d : Dst) (srcs : List Src) : List Nat := dstRegs d ++ srcs.flatMap srcRegs

/-- A two-operand instruction of R56 whose classes are 00, 01 and 10: op on A and B, element by element, with no flag. -/
def Safety.Binary (i : Instr) (s : State) (g d a b c : Nat) (packed : Bool) (op : (w : Nat) → BitVec w → BitVec w → BitVec w) : Prop :=
  Safety.Computes i s (active s g) (dstOf c d)
    (fun t => Safety.each packed op (readSrc (cur s) (srcOf c a) t) (readSrc (cur s) (srcB c b) t)) (fun _ => 0)

/-- The same for a float major. -/
def Safety.BinaryFloat (i : Instr) (s : State) (g d a b c : Nat) (packed : Bool) (op : Nat → Nat → Nat × Nat) : Prop :=
  Safety.Computes i s (active s g) (dstOf c d)
    (fun t => (Safety.eachCode packed op (readSrc (cur s) (srcOf c a) t) (readSrc (cur s) (srcB c b) t)).1)
    (fun t => (Safety.eachCode packed op (readSrc (cur s) (srcOf c a) t) (readSrc (cur s) (srcB c b) t)).2)

/-- A one-operand float major. -/
def Safety.UnaryFloat (i : Instr) (s : State) (g d a c : Nat) (packed : Bool) (op : Nat → Nat × Nat) : Prop :=
  Safety.Computes i s (active s g) (dstOf c d)
    (fun t => (Safety.eachCode packed (fun x _ => op x) (readSrc (cur s) (srcOf c a) t) 0).1)
    (fun t => (Safety.eachCode packed (fun x _ => op x) (readSrc (cur s) (srcOf c a) t) 0).2)

/-- The mask of wid bits from position pos, cut at bit 31 (R109). -/
def Safety.fieldMask (pos wid : Nat) : Word := ((BitVec.allOnes wid).setWidth 64 <<< pos).setWidth 32

/-- The real number that a finite value stands for. -/
def Safety.value : FVal → Rat
  | .fin neg m e => (if neg then -1 else 1) * m * (2 : Rat) ^ e
  | _ => 0

/-- A finite value. -/
def Safety.Finite (x : FVal) : Prop := ∃ n m e, x = .fin n m e

/-- Of the numbers of a grid, w is the one that a rounding mode picks for v; even says that w is even among them (R90). -/
def Safety.Picks (mode : RMode) (grid : Rat → Prop) (even : Prop) (v w : Rat) : Prop :=
  grid w ∧ ∀ y, grid y → match mode with
    | .rn => |w - v| ≤ |y - v| ∧ (|w - v| = |y - v| → y = w ∨ even)
    | .rna => |w - v| ≤ |y - v| ∧ (|w - v| = |y - v| → |y| ≤ |w|)
    | .rz => |w| ≤ |v| ∧ 0 ≤ w * v ∧ (|y| ≤ |v| → 0 ≤ y * v → |y| ≤ |w|)
    | .rp => v ≤ w ∧ (v ≤ y → w ≤ y)
    | .rm => w ≤ v ∧ (y ≤ v → y ≤ w)

/-- The numbers that a format has a code for (R80). -/
def Safety.Representable (f : Fmt) (y : Rat) : Prop := ∃ c, Safety.Finite (fdecode f c) ∧ Safety.value (fdecode f c) = y

/-- The whole numbers. -/
def Safety.Whole (y : Rat) : Prop := ∃ k : Int, (k : Rat) = y

/-- A magnitude rounds to base + step or beyond, where base and base + step are neighbours, base odd or not (R90). -/
def Safety.reaches (mode : RMode) (neg odd : Bool) (base step mag : Rat) : Bool :=
  decide (base + step ≤ mag) || (decide (base < mag) && match mode with
    | .rn => decide (base + step / 2 < mag) || (decide (base + step / 2 = mag) && odd)
    | .rna => decide (base + step / 2 ≤ mag)
    | .rz => false
    | .rp => !neg
    | .rm => neg)

/-- The largest finite value of a format. -/
def Safety.largest (f : Fmt) : Rat := Safety.value (fdecode f (maxCode f))

/-- A value is too large for a format: its rounding with an unbounded exponent lies beyond the largest finite value (R91). -/
def Safety.tooLarge (f : Fmt) (mode : RMode) (v : Rat) : Bool :=
  Safety.reaches mode (decide (v < 0)) (maxCode f % 2 == 1) (Safety.largest f)
    (Safety.largest f - Safety.value (fdecode f (maxCode f - 1))) |v|

/-- A value is tiny: rounded to the format's precision with an unbounded exponent it lies below the smallest normal (R93). -/
def Safety.tiny (f : Fmt) (mode : RMode) (v : Rat) : Bool :=
  let normal : Rat := 2 ^ (1 - (f.bias : Int))
  let step : Rat := normal / 2 ^ (f.mbits + 1)
  !Safety.reaches mode (decide (v < 0)) true (normal - step) step |v|

/-- The table of R91: what is written for a result too large for a format, and the flags. -/
def Safety.replacement (f : Fmt) (mode : RMode) (sat neg : Bool) : Nat × Nat :=
  let largest := withSign f neg (maxCode f)
  let beyond := if f.kind = .nanOnly then nanCode f else withSign f neg (infCode f)
  if sat ∨ f.kind = .finite then (largest, flOverflow ||| flInexact ||| flSaturated)
  else (match mode, neg with
    | .rn, _ => beyond
    | .rna, _ => beyond
    | .rz, _ => largest
    | .rp, false => beyond
    | .rp, true => largest
    | .rm, false => largest
    | .rm, true => beyond, flOverflow ||| flInexact)

/-- A result is the rounding of an exact value v that is not zero, with its flags (R79, R90 to R93): the replacement of R91 where v is too
large; otherwise the code of v's sign that the mode picks, which .ftz flushes where it is subnormal. -/
def Safety.Rounds (f : Fmt) (mode : RMode) (sat ftz : Bool) (v : Rat) (r : Nat × Nat) : Prop :=
  let neg := decide (v < 0)
  if Safety.tooLarge f mode v then r = Safety.replacement f mode sat neg
  else ∃ mag ≤ maxCode f,
    let c := withSign f neg mag
    let w := Safety.value (fdecode f c)
    Safety.Picks mode (Safety.Representable f) (c % 2 = 0) v w ∧
    r = if ftz ∧ isSubnormal f c then (withSign f neg 0, flUnderflow ||| flInexact)
      else (c, if w = v then 0 else if Safety.tiny f mode v then flUnderflow ||| flInexact else flInexact)

/-- The same of any exact value: an exact zero is written with the sign given, and raises no flag. -/
def Safety.RoundsOrZero (f : Fmt) (mode : RMode) (sat ftz : Bool) (v : Rat) (zeroNeg : Bool) (r : Nat × Nat) : Prop :=
  if v = 0 then r = (withSign f zeroNeg 0, 0) else Safety.Rounds f mode sat ftz v r

/-- The canonical NaN without a flag, the NaN of an invalid operation, an infinity and a zero (R81, R93). -/
def Safety.quiet (f : Fmt) : Nat × Nat := (nanCode f, 0)
def Safety.invalid (f : Fmt) : Nat × Nat := (nanCode f, flInvalid)
def Safety.infinity (f : Fmt) (neg : Bool) : Nat × Nat := (withSign f neg (infCode f), 0)
def Safety.zero (f : Fmt) (neg : Bool) : Nat × Nat := (withSign f neg 0, 0)

/-- A product is infinite, with its sign: an infinity times anything but zero and NaN. -/
def Safety.ProductInfinite (x y : FVal) (neg : Bool) : Prop :=
  ∃ n n', neg = (n != n') ∧ (x = .inf n ∧ y = .inf n' ∨ ∃ m e, m ≠ 0 ∧ (x = .inf n ∧ y = .fin n' m e ∨ x = .fin n m e ∧ y = .inf n'))

/-- A product is 0 · ∞. -/
def Safety.ProductInvalid (x y : FVal) : Prop := ∃ n n' e, x = .inf n ∧ y = .fin n' 0 e ∨ x = .fin n 0 e ∧ y = .inf n'

/-! ### Memory instructions -/

/-- A long-latency instruction may issue: its checks pass, a thread is active, and its completion flag can count (R48, R55, R62). -/
def Safety.Passes (i : Instr) (m : Mask) (f : Nat) (regs : List Nat) (s : State) : Prop :=
  Safety.Accepts i regs s ∧ m ≠ 0 ∧ flagFull s f = false

/-- With no active thread, an instruction whose checks pass only moves on (R48). -/
def Safety.Idles (i : Instr) (m : Mask) (regs : List Nat) (s : State) : Prop :=
  Safety.Accepts i regs s → m = 0 → exec i s = .next (advance (encode i).length s)

/-- The state once the long-latency part of an instruction is issued and its path has moved on (R48, R49). -/
def Safety.issued (i : Instr) (f : Nat) (p : Pending) (s : State) : State := advance (encode i).length (issueLong f p s)

/-- The 128-byte units whose records an order-carrying access meets (R228); scope 0 carries no order. -/
def Safety.orderUnits (s : State) (scope : Nat) (acq rel writing : Bool) (ls : List Reach) : List Nat :=
  if scope = 0 ∨ (!acq ∧ !rel) then [] else syncUnits s scope writing ls

/-- The scope checker finds no conflict (R228). -/
def Safety.Ordered (s : State) (scope : Nat) (acq rel writing : Bool) (ls : List Reach) : Prop :=
  ∀ u ∈ Safety.orderUnits s scope acq rel writing ls, syncConflict s (issuer s) scope acq rel u = none

/-- The records that an order-carrying access of state s leaves, made in state t (R228). -/
def Safety.noted (s : State) (scope : Nat) (acq rel writing : Bool) (ls : List Reach) (t : State) : State :=
  (Safety.orderUnits s scope acq rel writing ls).foldl (recordSync (issuer s) scope acq rel) t

/-- No earlier access of an accessing thread is unperformed that is kept before this one, and none stands on a byte that it touches (R187,
R215); an instruction that is being performed has waited. -/
def Safety.InOrder (q : Ask) (op : Op) (ls : List Reach) (s : State) : Prop :=
  s.performing = true ∨ keptBehind s (askOp q op ls s) = false

/-- An access whose checks pass, and that earlier accesses of its threads keep waiting, issues all the same: it is held, to be performed
whole (R187). -/
def Safety.HeldBack (i : Instr) (q : Ask) (f : Nat) (op : Op) (ls : List Reach) (s s1 : State) : Prop :=
  ¬ Safety.InOrder q op ls s1 → exec i s = .next (holdBack i f (askOp q op ls s1) s1)

/-- What a load of a size code writes for thread t: zero- or sign-extended, or a pair of registers for 64 bits (R57, R181). -/
def Safety.loaded (z d t v : Nat) : List (Nat × Word) :=
  match z with
  | 0 => [(vKey d t, (BitVec.ofNat 8 v).setWidth 32)]
  | 1 => [(vKey d t, (BitVec.ofNat 8 v).signExtend 32)]
  | 2 => [(vKey d t, (BitVec.ofNat 16 v).setWidth 32)]
  | 3 => [(vKey d t, (BitVec.ofNat 16 v).signExtend 32)]
  | 4 => [(vKey d t, BitVec.ofNat 32 v)]
  | _ => [(vKey d t, (BitVec.ofNat 64 v).extractLsb' 0 32), (vKey (d + 1) t, (BitVec.ofNat 64 v).extractLsb' 32 32)]

/-- The number that thread t's element holds in a window: 0 where the element is dropped. -/
def Safety.windowValue (w : Wg) (n : Nat) (ls : List Reach) (t : Nat) : Nat :=
  match ls.find? fun l => l.t == t && l.part == 0 with
  | some l => if l.dropped then 0 else leNat (winBytes w l.va n)
  | none => 0

/-- A load whose checks pass completes its issue: what it will write is what its elements hold, in the window or in memory. -/
def Safety.LoadCompletes (i : Instr) (q : Ask) (z d f scope : Nat) (regs : List Nat) (s : State) : Prop :=
  Safety.Idles i q.m regs s ∧
  ∀ (s1 : State) (ls : List Reach), Safety.Passes i q.m f regs s → checkLanes q s = (s1, .ok ls) →
    Safety.HeldBack i q f (loadAct (scope != 0)) ls s s1 ∧
    (Safety.InOrder q (loadAct (scope != 0)) ls s1 →
    (rcdScratch (getB (cur s1) q.reg).toNat = true →
      exec i s = .next (Safety.issued i f
        { noPending with vw := q.ts.flatMap fun t => Safety.loaded z d t (Safety.windowValue (curWg s1) q.bytes ls t) } s1)) ∧
    (rcdScratch (getB (cur s1) q.reg).toNat = false → Safety.Ordered s1 scope true false false ls →
      poisonTrap q (verifyLanes q ls s1) ls = none →
      let out := readLanes q (rcdSlot (getB (cur (verifyLanes q ls s1)) q.reg).toNat) ls (verifyLanes q ls s1)
      exec i s = .next (Safety.issued i f { noPending with vw := loadWrites q z d out.2.1, units := laneUnits ls }
        (raise out.2.2 (Safety.noted s1 scope true false false ls out.1)))))

/-- A store whose checks pass writes each element's bytes, in the window or at the page's home, in ascending thread order. -/
def Safety.StoreCompletes (i : Instr) (q : Ask) (z d f scope : Nat) (regs : List Nat) (s : State) : Prop :=
  Safety.Idles i q.m regs s ∧
  ∀ (s1 : State) (ls : List Reach), Safety.Passes i q.m f regs s → checkLanes q s = (s1, .ok ls) →
    Safety.HeldBack i q f (storeAct (scope != 0)) ls s s1 ∧
    (Safety.InOrder q (storeAct (scope != 0)) ls s1 →
    let data (t : Nat) : Nat := (getV (cur s1) t d).toNat + if z = 5 then (getV (cur s1) t (d + 1)).toNat * 2 ^ 32 else 0
    (rcdScratch (getB (cur s1) q.reg).toNat = true →
      exec i s = .next (Safety.issued i f noPending (updWg (cur s1).launch (cur s1).wg
        (fun w => (ls.filter fun l => !l.dropped).foldl (fun w l => winPuts l.va (leBytes q.bytes (data l.t)) w) w) s1))) ∧
    (rcdScratch (getB (cur s1) q.reg).toNat = false → Safety.Ordered s1 scope false true true ls →
      combineBad s1 (fun _ => true) ls = none →
      let t := writeLanes q.bytes data ls (Safety.noted s1 scope false true true ls s1)
      exec i s = .next (Safety.issued i f { noPending with lines := laneUpdating t ls, units := laneUnits ls } t)))

/-- An atomic whose checks pass does one read-modify-write for each element, in ascending thread order, and returns the old values where it
names a destination. -/
def Safety.AtomicCompletes (i : Instr) (q : Ask) (o z f scope : Nat) (acq rel : Bool) (data : State → Nat → Datum) (ret : Option Nat)
    (regs : List Nat) (s : State) : Prop :=
  Safety.Idles i q.m regs s ∧
  ∀ (s1 : State) (ls : List Reach), Safety.Passes i q.m f regs s → checkLanes q s = (s1, .ok ls) →
    Safety.HeldBack i q f (atomicAct acq rel) ls s s1 ∧
    (Safety.InOrder q (atomicAct acq rel) ls s1 →
    let back (vs : List (Nat × Nat × Nat)) : List (Nat × Word) := match ret with
      | some d => loadWrites q z d vs
      | none => []
    (rcdScratch (getB (cur s1) q.reg).toNat = true →
      let out := windowSteps o q.bytes (data s1) ls (curWg s1)
      exec i s = .next (Safety.issued i f { noPending with vw := back out.2 } (updWg (cur s1).launch (cur s1).wg (fun _ => out.1) s1))) ∧
    (rcdScratch (getB (cur s1) q.reg).toNat = false → Safety.Ordered s1 scope acq rel true ls →
      combineBad s1 (fun _ => true) ls = none → poisonTrap q (verifyLanes q ls s1) ls = none →
      let out := atomicSteps o q.bytes scope (data s1) ls (Safety.noted s1 scope acq rel true ls (verifyLanes q ls s1))
      exec i s = .next (Safety.issued i f
        { noPending with vw := back out.2, lines := if ret.isSome then [] else laneUpdating out.1 ls, units := laneUnits ls } out.1)))

/-- A reduction whose checks pass applies its operation to each element, in ascending thread order. -/
def Safety.ReductionCompletes (i : Instr) (q : Ask) (o f scope : Nat) (rel : Bool) (data : State → Nat → Nat) (regs : List Nat)
    (s : State) : Prop :=
  Safety.Idles i q.m regs s ∧
  ∀ (s1 : State) (ls : List Reach), Safety.Passes i q.m f regs s → checkLanes q s = (s1, .ok ls) →
    Safety.HeldBack i q f (redAct rel) ls s s1 ∧
    (Safety.InOrder q (redAct rel) ls s1 →
    Safety.Ordered s1 scope false rel true ls → combineBad s1 (fun pad => !combineAccepts s1 o q.bytes pad) ls = none →
    poisonTrap q (verifyLanes q ls s1) ls = none →
    let t := (ls.filter fun l => !l.dropped).foldl (fun s l => reduceStep o q.bytes scope (data s1 l.t) l s)
      (Safety.noted s1 scope false rel true ls (verifyLanes q ls s1))
    exec i s = .next (Safety.issued i f { noPending with lines := laneUpdating t ls, units := laneUnits ls } t))

/-! ### Frames -/

/-- The v registers that an instruction on registers alone names, in the order of its fields (R62): none for any other instruction. -/
def Safety.registersNamed : Instr → Option (List Nat)
  | .iadd _ d a b c _ | .isub _ d a b c _ | .imul _ d a b c _ | .andB _ d a b c _ | .orB _ d a b c _ | .xorB _ d a b c _
  | .shl _ d a b c _ | .shr _ d a b c _ | .imin _ d a b c _ | .imax _ d a b c _ | .iabsd _ d a b c _ | .bfe _ d a b c _
  | .fadd _ d a b c _ | .fsub _ d a b c _ | .fmul _ d a b c _ | .fmin _ d a b c _ | .fmax _ d a b c _ | .fscale _ d a b c _
  | .pack _ d a b c _ | .sel _ d a b c => some (Safety.named (dstOf c d) [srcOf c a, srcB c b])
  | .bitcount _ d a _ c _ | .frcp _ d a _ c _ | .frsq _ d a _ c _ | .fex2 _ d a _ c _ | .flg2 _ d a _ c _ | .fsin _ d a _ c _
  | .fcos _ d a _ c _ | .fclass _ d a c _ | .fround _ d a _ _ c _ | .iaddI _ d a c _ _ => some (Safety.named (dstOf c d) [srcOf c a])
  | .bfi _ d a b c _ cc _ | .ffma _ d a b c _ cc _ => some (Safety.named (dstOf c d) [srcOf c a, srcB c b, srcOf c cc])
  | .imad _ d a b c _ cc fm =>
    some (if fm = 2 then dstRegs (dstOf c d) ++ Safety.named (dstOf c (d + 1)) [srcOf c a, srcB c b, srcOf c cc, srcOf c (cc + 1)]
      else Safety.named (dstOf c d) [srcOf c a, srcB c b, srcOf c cc])
  | .mov _ d a f _ => some (Safety.named (if f < 2 then .v d else .s d) [if f = 0 ∨ f = 3 then .v a else .s a])
  | .movI _ d c _ _ => some (Safety.named (dstOf c d) [])
  | .max2sel _ d a b _ _ u => some (Safety.named (.v d) [.v a, if u = 1 then .s b else .v b])
  | .sreg _ d _ u _ | .ballot _ d _ u => some (Safety.named (if u = 1 then .s d else .v d) [])
  | .fcmp _ _ _ a b c _ | .icmp _ _ _ a b c _ => some (srcRegs (srcOf c a) ++ srcRegs (srcB c b))
  | .fcmpI _ _ _ a c _ _ | .icmpI _ _ _ a c _ _ => some (srcRegs (srcOf c a))
  | .cvt _ d a _ _ _ | .cvti _ d a _ _ | .mxscale _ d a _ | .matchK _ d a _ => some [d, a]
  | .unpack _ d a _ u _ | .cbdec _ d a _ u _ => some (if u = 1 then [] else [d, a])
  | .xpick _ d a b sx _ => some ([d, a] ++ if sx = 0 then [b] else [])
  | .xfold _ d a _ u _ => some (if u = 1 then [a] else [d, a])
  | .pop _ _ _ _ _ | .agree _ _ _ _ => some []
  | .lead _ _ a md => some (if md = 1 then [a] else [])
  | _ => none

/-! ### Tiles and copies -/

/-- The issuing flock holds a tile or can claim it (R138). -/
def Safety.CanTake (t : Nat) (s : State) : Prop := holds (tileAt s s.core t) s.slot = true ∨ claimable (tileAt s s.core t) = true

/-- The state in which the issuing flock holds a tile: as it is, or with the tile claimed (R138). -/
def Safety.took (t : Nat) (s : State) : State :=
  if holds (tileAt s s.core t) s.slot then s else setTile s.core t (claimed (curLaunch s) s.slot (tileAt s s.core t)) s

/-- A copy whose checks pass and whose handle is free completes its issue: the engine accepts its elements (R194, R197), and will wait for
the earlier accesses that are kept before it; rel says that it is a release (R200), who which thread a trap would name. -/
def Safety.CopyAccepted (i : Instr) (m : Mask) (f h mreg preg : Nat) (out : Bool) (scope : Nat) (who : Nat → Nat × Int)
    (clamp misfit excess : Bool) (ps : Pairing) (regs : List Nat) (rel : Bool) (s : State) : Prop :=
  let es := copyElems (getB (cur s) mreg).toNat (getB (cur s) preg).toNat ps
  Safety.Idles i m regs s ∧
  (Safety.Passes i m f regs s → copyTrap s m mreg preg who out clamp misfit excess ps = none →
    handleFree s h = true →
    exec i s = .next (acceptCopy h preg mreg out scope (copyAfter s rel false m (if out then [] else landings es)) es
      (Safety.issued i f noPending s)))

/-- A slice whose checks pass is supplied (R199): it opens a round on a free handle, with no flock exited, or joins the open round of its
workgroup, once for each flock. -/
def Safety.SliceSupplied (i : Instr) (m : Mask) (f h mreg preg : Nat) (idx : Int) (clamp : Bool) (regs : List Nat) (rel : Bool)
    (s : State) : Prop :=
  Safety.Idles i m regs s ∧
  let r := (getB (cur s) mreg).toNat
  let p := (getB (cur s) preg).toNat
  let x := handleAt s s.core h
  let ps := blockPairing r p idx fun q => q % max (curLaunch s).f 1 == (cur s).index
  Safety.Passes i m f regs s → copyTrap s m mreg preg (blockWho m idx) false clamp false false ps = none →
  (x.st = .free → exitedFlock s = none →
    exec i s = .next (addSlice h preg mreg (copyAfter s rel false m (landings (copyElems r p ps))) (copyElems r p ps) (setHandle s.core h
      { emptyHandle with
        st := .filling
        owner := some ((cur (Safety.issued i f noPending s)).launch, (cur (Safety.issued i f noPending s)).wg) }
      (Safety.issued i f noPending s)))) ∧
  (x.st = .filling → x.owner = some ((cur s).launch, (cur s).wg) → x.slices ≠ [] → x.job = none →
    (∀ e ∈ x.slices, e.1 ≠ (cur s).index) →
    exec i s = .next (addSlice h preg mreg (copyAfter s rel false m (landings (copyElems r p ps))) (copyElems r p ps) (Safety.issued i f noPending s)))

/-- A multicast whose checks pass: one engine reads the block, and a delivery is due for each core that it names (R202). -/
def Safety.MulticastSent (i : Instr) (m : Mask) (f h mreg preg scope : Nat) (idx : Int) (clamp : Bool) (cores : List Nat)
    (regs : List Nat) (rel : Bool) (s : State) : Prop :=
  Safety.Idles i m regs s ∧
  let ps := wholeBlock s mreg preg idx
  Safety.Passes i m f regs s → copyTrap s m mreg preg (blockWho m idx) false clamp false false ps = none →
  let u := Safety.issued i f noPending s
  (cores = [] → exec i s = .next u) ∧
  (cores ≠ [] → ∃ (t : State) (x : Mcast), exec i s = .next t ∧ t.mcasts = u.mcasts ++ [x] ∧
    x.uid = u.fresh ∧ x.launch = (cur u).launch ∧ x.handle = h ∧ x.cores = cores ∧ x.core = u.core ∧ x.data = [] ∧ x.fail = none ∧
    x.after = copyAfter s rel false m (landings (copyElems (getB (cur s) mreg).toNat (getB (cur s) preg).toNat ps)) ∧
    x.job.map (·.scope) = some scope ∧ x.job.map (·.rest) = some (copyElems (getB (cur s) mreg).toNat (getB (cur s) preg).toNat ps) ∧
    (∀ c ∈ cores, .mcastDelivery u.fresh c ∈ t.todo) ∧
    t = { u with fresh := u.fresh + 1, mcasts := t.mcasts, todo := t.todo })

/-! ### Control -/

/-- The groups in which a transfer moves the live threads of the issuing path: each thread of go to dest, the others to the next header
(R264, R265). -/
def Safety.groups (s : State) (go : Mask) (dest : Nat → Nat) : List (Nat × Mask) :=
  groupsOf (nextHeader (curPath s)) (liveMask (cur s) (curPath s)) fun t => if inMask go t then dest t else nextHeader (curPath s)

/-- Some of the issuing path's live threads are in m, and others are not (R266). -/
def Safety.Splits (s : State) (m : Mask) : Prop :=
  (∃ t, t < 32 ∧ inMask m t = true) ∧ ∃ t, t < 32 ∧ inMask (liveMask (cur s) (curPath s)) t = true ∧ inMask m t = false

/-- A transfer completes where the divergence stack has room: the threads of go move in their groups, with what the instruction writes
beside, and hintmiss is raised where miss holds; where the stack has no room, stack-overflow (0x06) is raised with every active thread of m
in its record (R357), and nothing moves (R265). -/
def Safety.Transfers (i : Instr) (s : State) (m go : Mask) (dest : Nat → Nat) (backward : Bool) (miss : Prop) (body : Flock → Flock) :
    Prop :=
  let gs := Safety.groups s go dest
  let need := (cur s).stack.length + pushCount (cur s) s.second gs.length
  let u := setCur (body (cur s)) s
  (need ≤ Config.stackLimit → (miss → exec i s = .next (transfer gs backward (raise flHintmiss u))) ∧
    (¬miss → exec i s = .next (transfer gs backward u))) ∧
  (Config.stackLimit < need → exec i s = .next (takeTrap (trapRec s 0x06 m [(0, 1, Config.stackLimit)]) s))

/-- A range that an instruction names without translating it passes its checks (R280, R282). -/
def Safety.ExtentOk (s : State) (n sx reg : Nat) : Prop :=
  let r := (getB (cur s) reg).toNat
  (getS (cur s) n).toNat = 0 ∨
  (rcdInvalid r = false ∧ rangeBad r (getS (cur s) sx).toNat (getS (cur s) n).toNat = none ∧ rcdScratch r = false ∧ rcdRead r = true)

/-! ### Spatial mode, packets and the mailbox -/

/-- A stream command read in state u is accepted: it joins its lane's list, and its instruction is outstanding (R304, R305). -/
def Safety.StreamAccepted (i : Instr) (m : Mask) (flag : Nat) (sreg : Option Nat) (c : BitVec 128) (s u : State) : Prop :=
  ∀ f, (coreAt u u.core).fabric = some f → cmdMisfit f c = false → cmdTrap u m c = none → (laneAt f (cmdLane c)).cmds.length < 4 →
    let x := laneAt f (cmdLane c)
    let y : StrmCmd :=
      { cmd := c, rcd := getB (cur u) (cmdRecord c), book := sampleBook (curWg u) (rcdSlot (getB (cur u) (cmdRecord c)).toNat)
        sreg := sreg, uid := some u.fresh, pc := (curPath u).pc, mask := liveMask (cur u) (curPath u), accepted := true, long := false }
    let v := Safety.issued i flag { noPending with lane := some (cmdLane c) } u
    exec i s = .next (setCore v.core
      { coreAt v v.core with fabric := some (setLane (cmdLane c) { x with cmds := x.cmds ++ [y] } f) } v)

/-- A packet of a kind is next on its queue, its header and its signal's address are legal, and a privileged type stands on a privileged
queue: its effect begins in the state without it (R239 to R243). -/
def Safety.PacketReady (s : State) (q kind sigOff used : Nat) (privileged : Bool) (p : Packet) : Prop :=
  nextPacket s q kind = some p ∧ headerBad p.body used = false ∧ packetNat p.body sigOff 8 % 8 = 0 ∧ (privileged = true → p.priv = true)

/-- The state in which a command runs: the mailbox holds it, and its port is served (R340). -/
def Safety.begun (p : Port) (c : Nat) (s : State) : State :=
  setMgmt (fun m => { m with serving := some p })
    (setPort p { portRegs s p with mbox := { (portRegs s p).mbox with run := some c } } s)

/-- A command is accepted: its code, its port's mailbox and its length are as R340 asks, firmware serves it, the port owns the configuration
where the command needs it, and no command waits for accesses. -/
def Safety.CommandTaken (p : Port) (c code : Nat) (owned : Bool) (need : Nat) (s : State) : Prop :=
  cmdCode c = code ∧ (portRegs s p).mbox.run = none ∧ fwReady s = true ∧ (owned = true → s.mgmt.owner = some p) ∧
  need ≤ cmdLength c ∧ cmdLength c ≤ 4096 ∧ (s.mgmt.serving = none ∨ s.mgmt.serving = some p) ∧
  s.mgmt.answer = none ∧ s.mgmt.awaited = { uids := [], lines := [] }

/-- A write of a port reaches a configuration register: firmware is ready and the port owns the configuration (R35, R37). -/
def Safety.Owns (p : Port) (s : State) : Prop := fwReady s = true ∧ s.mgmt.owner = some p

end Sys2Proof
end

