-- ==== Sys2Proof/Certificates/Slice0/Obligations.lean ====
section
/-! DEFINITION. The statements for the provers. -/

section

open Sys2Proof Sys2Proof.Machine

/-! ### Encodings -/

/-- R53, R54: every field of an instruction stands in its words at its whole width. Decoding the words of any instruction whose fields fit
gives that instruction, from the words and from the bytes at the head of any further bytes. -/
def Obligations.DecodeOfEncodeIsTheInstruction : Prop :=
  ∀ i : Instr, fieldsFit i = true → encode i ≠ [] →
    decodeWords ((encode i).getD 0 0) ((encode i).getD 1 0) = .ok i ∧
    ∀ rest : List Byte, decode ((encode i).flatMap bytesOfWord ++ rest) = .ok (i, rest)

/-- R53, R54, R69: a word, or a pair of words for a long form, has one reading: an instruction that decodes encodes to the words it came
from, and its fields fit. R69: a word whose major is reserved, or is 0x7F, decodes to the reserved row alone, and no other word does. -/
def Obligations.WordsHaveOneReading : Prop :=
  (∀ (w x : Nat) (i : Instr), w < 2 ^ 32 → x < 2 ^ 32 → decodeWords w x = .ok i →
    encode i = (if isLongMajor (bits w 31 25) then [w, x] else [w]) ∧ fieldsFit i = true) ∧
  (∀ w x : Nat, isReservedMajor (bits w 31 25) = true ↔ ∃ u v : Nat, decodeWords w x = .ok (.reservedMajor u v))

/-- Words that the spec writes out decode to the instructions they stand for. -/
def Obligations.WordsOfTheSpecDecode : Prop :=
  decodeWords 0x61C40088 0 = .ok (.ld 7 4 0 2 0 0 4 0) ∧ decodeWords 0x61C50098 0 = .ok (.ld 7 5 0 2 0 1 4 0) ∧
  decodeWords 0x05C60070 0 = .ok (.imul 7 6 0 7 0 0) ∧ decodeWords 0x01C81050 0 = .ok (.iadd 7 8 4 5 0 0) ∧
  decodeWords 0x51D11051 0 = .ok (.icmp 7 2 1 4 5 0 1) ∧ decodeWords 0x51D11468 0 = .ok (.icmp 7 2 1 5 6 2 0) ∧
  decodeWords 0x18862402 0 = .ok (.mov 2 6 9 0 1) ∧ decodeWords 0x59C51000 0 = .ok (.matchK 7 5 4 0) ∧
  decodeWords 0x15C61400 0 = .ok (.bitcount 7 6 5 0 0 0) ∧ decodeWords 0x5FC11401 0 = .ok (.lead 7 1 5 1)

/-! ### Register instructions -/

/-- R59, R60: a thread is active where it is on the issuing path, has not exited and its guard is true; p7 reads true. -/
def Obligations.ActiveThreadsAreGuardedLiveThreads : Prop :=
  ∀ (s : State) (g n t : Nat), t < 32 →
    inMask (activeNeg s g n) t =
      (inMask (curPath s).mask t && !inMask (cur s).exited t && (inMask (getP (cur s) g) t != decide (n = 1))) ∧
    active s g = activeNeg s g 0 ∧ inMask (getP (cur s) 7) t = true

/-- R104: the nine two-operand integer majors: their words, and what each computes, modulo 2^w for each element, with no flag. -/
def Obligations.IntegerArithmeticPerElement : Prop :=
  (∀ g d a b c t : Nat, let m := 4 * c + t
    encode (.iadd g d a b c t) = [Safety.word 0x00 g d a b m] ∧ encode (.isub g d a b c t) = [Safety.word 0x01 g d a b m] ∧
    encode (.imul g d a b c t) = [Safety.word 0x02 g d a b m] ∧ encode (.andB g d a b c t) = [Safety.word 0x03 g d a b m] ∧
    encode (.orB g d a b c t) = [Safety.word 0x04 g d a b m] ∧ encode (.xorB g d a b c t) = [Safety.word 0x05 g d a b m] ∧
    encode (.shl g d a b c t) = [Safety.word 0x06 g d a b m] ∧ encode (.shr g d a b c t) = [Safety.word 0x07 g d a b m] ∧
    encode (.iabsd g d a b c t) = [Safety.word 0x09 g d a b m]) ∧
  ∀ (s : State) (g d a b c t : Nat), c < 3 → (∀ n ∈ Safety.named (dstOf c d) [srcOf c a, srcB c b], n < (cur s).budget) →
    Safety.Binary (.iadd g d a b c t) s g d a b c (decide (2 ≤ t)) (fun _ x y => x + y) ∧
    Safety.Binary (.isub g d a b c t) s g d a b c (decide (2 ≤ t)) (fun _ x y => x - y) ∧
    Safety.Binary (.imul g d a b c t) s g d a b c (decide (2 ≤ t)) (fun _ x y => x * y) ∧
    Safety.Binary (.andB g d a b c t) s g d a b c (decide (2 ≤ t)) (fun _ x y => x &&& y) ∧
    Safety.Binary (.orB g d a b c t) s g d a b c (decide (2 ≤ t)) (fun _ x y => x ||| y) ∧
    Safety.Binary (.xorB g d a b c t) s g d a b c (decide (2 ≤ t)) (fun _ x y => x ^^^ y) ∧
    Safety.Binary (.shl g d a b c t) s g d a b c (decide (2 ≤ t)) (fun w x y => x <<< (y.toNat % w)) ∧
    Safety.Binary (.shr g d a b c t) s g d a b c (decide (2 ≤ t))
      (fun w x y => if t % 2 = 1 then x.sshiftRight (y.toNat % w) else x >>> (y.toNat % w)) ∧
    Safety.Binary (.iabsd g d a b c t) s g d a b c (decide (2 ≤ t))
      (fun w x y => BitVec.ofNat w (if t % 2 = 1 then (x.toInt - y.toInt).natAbs else ((x.toNat : Int) - y.toNat).natAbs))

/-- R105: imin and imax: their words, and the smaller and the larger, compared as the type says. -/
def Obligations.IntegerExtremes : Prop :=
  (∀ g d a b c t : Nat, encode (.imin g d a b c t) = [Safety.word 0x08 g d a b (4 * c + t)] ∧
    encode (.imax g d a b c t) = [Safety.word 0x08 g d a b (4 * c + 2 + t)]) ∧
  (∀ g d a b c t : Nat, 3 ≤ c → Safety.Illegal (.imin g d a b c t) ∧ Safety.Illegal (.imax g d a b c t)) ∧
  ∀ (s : State) (g d a b c t : Nat), c < 3 → (∀ n ∈ Safety.named (dstOf c d) [srcOf c a, srcB c b], n < (cur s).budget) →
    Safety.Binary (.imin g d a b c t) s g d a b c false
      (fun _ x y => if (if t % 2 = 1 then x.slt y else x.ult y) then x else y) ∧
    Safety.Binary (.imax g d a b c t) s g d a b c false
      (fun _ x y => if (if t % 2 = 1 then x.slt y else x.ult y) then y else x)

/-- R106, R107, R109: bitcount by element, bfe's field, zero- or sign-extended, and bfi's insertion, cut at bit 31; with no flag; their
words, and the codes that are illegal-opcode. -/
def Obligations.BitCountsAndBitFields : Prop :=
  (∀ g d a b c t cc fm : Nat, encode (.bitcount g d a b c t) = [Safety.word 0x0A g d a b (4 * c + t)] ∧
    encode (.bfe g d a b c t) = [Safety.word 0x0B g d a b (4 * c + t)] ∧
    encode (.bfi g d a b c t cc fm) = [Safety.word 0x61 g d a b (4 * c + t), cc * 2 ^ 26 + fm * 2 ^ 17] ∧
    ((c ≠ 0 ∧ c ≠ 2) ∨ 3 ≤ b → Safety.Illegal (.bitcount g d a b c t)) ∧ (3 ≤ c ∨ 2 ≤ t → Safety.Illegal (.bfe g d a b c t)) ∧
    (3 ≤ c ∨ t ≠ 0 ∨ fm ≠ 0 → Safety.Illegal (.bfi g d a b c t cc fm))) ∧
  (∀ (s : State) (g d a b c t : Nat), (c = 0 ∨ c = 2) → b < 3 →
    (∀ n ∈ Safety.named (dstOf c d) [srcOf c a], n < (cur s).budget) →
    Safety.Computes (.bitcount g d a b c t) s (active s g) (dstOf c d)
      (fun th => Safety.each (decide (2 ≤ t)) (fun _ x _ => if b = 0 then x.cpop else if b = 1 then x.clz else x.ctz)
        (readSrc (cur s) (srcOf c a) th) 0) (fun _ => 0)) ∧
  (∀ (s : State) (g d a b c t : Nat), c < 3 → t < 2 →
    (∀ n ∈ Safety.named (dstOf c d) [srcOf c a, srcB c b], n < (cur s).budget) →
    Safety.Computes (.bfe g d a b c t) s (active s g) (dstOf c d)
      (fun th =>
        let x := (readSrc (cur s) (srcOf c a) th).setWidth 64
        let y := readSrc (cur s) (srcB c b) th
        let field := (x >>> (y.extractLsb' 0 5).toNat).setWidth (min (y.extractLsb' 8 6).toNat 32)
        if t = 1 then field.signExtend 32 else field.setWidth 32) (fun _ => 0)) ∧
  ∀ (s : State) (g d a b c cc : Nat), c < 3 →
    (∀ n ∈ Safety.named (dstOf c d) [srcOf c a, srcB c b, srcOf c cc], n < (cur s).budget) →
    Safety.Computes (.bfi g d a b c 0 cc 0) s (active s g) (dstOf c d)
      (fun th =>
        let z := readSrc (cur s) (srcOf c cc) th
        let pos := (z.extractLsb' 0 5).toNat
        let mask := Safety.fieldMask pos (min (z.extractLsb' 8 6).toNat 32)
        (readSrc (cur s) (srcOf c a) th &&& ~~~mask) ||| ((readSrc (cur s) (srcB c b) th <<< pos) &&& mask)) (fun _ => 0)

/-- R110, R111, R112: the four forms of mov with its negated guard, mov.i, iadd.i, and sel over the live threads of the path; their words,
and the codes that are illegal-opcode. -/
def Obligations.MovesAndImmediates : Prop :=
  (∀ g d a b c t n imm : Nat, encode (.mov g d a c n) = [Safety.word 0x0C g d a 0 (4 * c + 2 * n)] ∧
    encode (.movI g d c t imm) = [Safety.word 0x63 g d 0 0 (4 * c + t), imm] ∧
    encode (.iaddI g d a c t imm) = [Safety.word 0x64 g d a 0 (4 * c + t), imm] ∧
    encode (.sel g d a b c) = [Safety.word 0x0D g d a b (4 * c)] ∧
    ((c ≠ 0 ∧ c ≠ 2) ∨ 2 ≤ t → Safety.Illegal (.movI g d c t imm)) ∧ (c ≠ 0 ∧ c ≠ 2 → Safety.Illegal (.iaddI g d a c t imm)) ∧
    (3 ≤ c → Safety.Illegal (.sel g d a b c))) ∧
  (∀ (s : State) (g d a f n : Nat), f < 4 →
    (∀ k ∈ Safety.named (if f < 2 then .v d else .s d) [if f = 0 ∨ f = 3 then .v a else .s a], k < (cur s).budget) →
    Safety.Computes (.mov g d a f n) s (activeNeg s g n) (if f < 2 then .v d else .s d)
      (fun th => if f = 0 ∨ f = 3 then getV (cur s) th a else getS (cur s) a) (fun _ => 0)) ∧
  (∀ (s : State) (g d c t imm : Nat), (c = 0 ∨ c = 2) → t < 2 → (∀ k ∈ Safety.named (dstOf c d) [], k < (cur s).budget) →
    Safety.Computes (.movI g d c t imm) s (active s g) (dstOf c d) (fun _ => BitVec.ofNat 32 imm) (fun _ => 0)) ∧
  (∀ (s : State) (g d a c t imm : Nat), (c = 0 ∨ c = 2) → (∀ k ∈ Safety.named (dstOf c d) [srcOf c a], k < (cur s).budget) →
    Safety.Computes (.iaddI g d a c t imm) s (active s g) (dstOf c d)
      (fun th => Safety.each (decide (2 ≤ t)) (fun _ x y => x + y) (readSrc (cur s) (srcOf c a) th) (BitVec.ofNat 32 imm))
      (fun _ => 0)) ∧
  ∀ (s : State) (p d a b c : Nat), c < 3 → (∀ k ∈ Safety.named (dstOf c d) [srcOf c a, srcB c b], k < (cur s).budget) →
    Safety.Computes (.sel p d a b c) s (activeNeg s 7 0) (dstOf c d)
      (fun th => if inMask (getP (cur s) p) th then readSrc (cur s) (srcOf c a) th else readSrc (cur s) (srcB c b) th) (fun _ => 0)

/-- R108: imad modulo 2^w, saturating with the saturated flag, and widening to a 64-bit pair; its words, and the codes that are
illegal-opcode. -/
def Obligations.MultiplyAddVariants : Prop :=
  (∀ g d a b c t cc fm : Nat, encode (.imad g d a b c t cc fm) = [Safety.word 0x60 g d a b (4 * c + t), cc * 2 ^ 26 + fm * 2 ^ 17] ∧
    (3 ≤ c ∨ 3 ≤ fm ∨ (fm = 2 ∧ (2 ≤ t ∨ d % 2 = 1 ∨ cc % 2 = 1)) → Safety.Illegal (.imad g d a b c t cc fm))) ∧
  ∀ (s : State) (g d a b c t cc : Nat), c < 3 →
    let x := readSrc (cur s) (srcOf c a)
    let y := readSrc (cur s) (srcB c b)
    let z := readSrc (cur s) (srcOf c cc)
    let part (w k : Nat) (v : Word) : Int := if t % 2 = 1 then (v.extractLsb' (16 * k) w).toInt else (v.extractLsb' (16 * k) w).toNat
    let exact (w k th : Nat) : Int := part w k (x th) * part w k (y th) + part w k (z th)
    let low (w : Nat) : Int := if t % 2 = 1 then -(2 : Int) ^ (w - 1) else 0
    let high (w : Nat) : Int := if t % 2 = 1 then (2 : Int) ^ (w - 1) - 1 else (2 : Int) ^ w - 1
    ((∀ k ∈ Safety.named (dstOf c d) [srcOf c a, srcB c b, srcOf c cc], k < (cur s).budget) →
      Safety.Computes (.imad g d a b c t cc 0) s (active s g) (dstOf c d)
        (fun th => if 2 ≤ t then BitVec.ofInt 16 (exact 16 1 th) ++ BitVec.ofInt 16 (exact 16 0 th) else BitVec.ofInt 32 (exact 32 0 th))
        (fun _ => 0) ∧
      Safety.Computes (.imad g d a b c t cc 1) s (active s g) (dstOf c d)
        (fun th =>
          let clamp (w k : Nat) : BitVec w := BitVec.ofInt w (max (low w) (min (high w) (exact w k th)))
          if 2 ≤ t then clamp 16 1 ++ clamp 16 0 else clamp 32 0)
        (fun th =>
          let out (w k : Nat) : Bool := decide (exact w k th < low w ∨ high w < exact w k th)
          if (if 2 ≤ t then out 16 0 || out 16 1 else out 32 0) then 16 else 0)) ∧
    (t < 2 → d % 2 = 0 → cc % 2 = 0 →
      (∀ k ∈ Safety.named (dstOf c d) [srcOf c a, srcB c b, srcOf c cc] ++ Safety.named (dstOf c (d + 1)) [srcOf c (cc + 1)],
        k < (cur s).budget) →
      let wide (th : Nat) : BitVec 64 :=
        BitVec.ofInt 64 (part 32 0 (x th) * part 32 0 (y th)) + (readSrc (cur s) (srcOf c (cc + 1)) th ++ z th)
      ∃ f g', exec (.imad g d a b c t cc 2) s = .next (advance 2 (setCur g' s)) ∧
        Safety.Writes (cur s) f (active s g) (dstOf c d) (fun th => (wide th).extractLsb' 0 32) ∧
        Safety.Writes f g' (active s g) (dstOf c (d + 1)) (fun th => (wide th).extractLsb' 32 32) ∧
        Safety.SameElse (cur s) g' ∧ g'.p = (cur s).p ∧ g'.status = (cur s).status)

/-- R113: max2sel writes the larger halves, ties keeping A, and the two decision predicates of the pair it names; its modifier. -/
def Obligations.AddCompareSelect : Prop :=
  (∀ g d a b q t u : Nat, encode (.max2sel g d a b q t u) =
    [Safety.word 0x0E g d a b (4 * q + 2 * t + u)]) ∧
  ∀ (s : State) (g d a b q t u : Nat), q < 4 →
    (∀ k ∈ Safety.named (.v d) [.v a, if u = 1 then .s b else .v b], k < (cur s).budget) →
    let y (th : Nat) : Word := if u = 1 then getS (cur s) b else getV (cur s) th b
    let half (x : Word) (e : Nat) : BitVec 16 := x.extractLsb' (16 * e) 16
    let wins (e th : Nat) : Bool :=
      if t = 1 then (half (getV (cur s) th a) e).slt (half (y th) e) else (half (getV (cur s) th a) e).ult (half (y th) e)
    let best (e th : Nat) : BitVec 16 := if wins e th then half (y th) e else half (getV (cur s) th a) e
    ∃ g', exec (.max2sel g d a b q t u) s = .next (advance 1 (setCur g' s)) ∧
      Safety.Writes (cur s) g' (active s g) (.v d) (fun th => best 1 th ++ best 0 th) ∧
      Safety.SameElse (cur s) g' ∧ g'.status = (cur s).status ∧
      ∀ n th, th < 32 → inMask (getP g' n) th =
        if q ≠ 3 ∧ inMask (active s g) th ∧ n = 2 * q then wins 0 th
        else if q ≠ 3 ∧ inMask (active s g) th ∧ n = 2 * q + 1 then wins 1 th
        else inMask (getP (cur s) n) th

/-- R63, R64, R65: sreg delivers the special value it names and, with .clr, clears bits 0 to 5 and 8 of the status after the read. -/
def Obligations.SpecialValuesRead : Prop :=
  ∀ (s : State) (g d sx u c : Nat), sx ≤ 16 → (u = 1 → 2 ≤ sx) → (c = 0 ∨ sx = 15) →
    (∀ k ∈ Safety.named (if u = 1 then .s d else .v d) [], k < (cur s).budget) →
    let value (t : Nat) : Nat := match sx with
      | 0 => 32 * (cur s).index + t
      | 1 => t
      | 2 => (cur s).index
      | 3 => (cur s).wg
      | 4 => s.core % 24
      | 5 => s.core / 24
      | 6 => (curLaunch s).fx
      | 7 => (curLaunch s).fy
      | 8 => (curLaunch s).fw
      | 9 => (curLaunch s).fh
      | 10 => (curLaunch s).n
      | 11 => (curLaunch s).f
      | 12 => clockOf s s.core
      | 13 => s.time
      | 14 => (coreAt s s.core).pts.toNat
      | 15 => (cur s).status.toNat
      | _ => (cur s).budget
    ∃ g', exec (.sreg g d sx u c) s = .next (advance 1 (setCur g' s)) ∧
      Safety.Writes (cur s) g' (active s g) (if u = 1 then .s d else .v d) (fun t => BitVec.ofNat 32 (value t)) ∧
      Safety.SameElse (cur s) g' ∧ g'.p = (cur s).p ∧
      ∀ k < 32, g'.status.getLsbD k =
        ((cur s).status.getLsbD k && !(decide (c = 1) && decide (active s g ≠ 0) && (decide (k < 6) || decide (k = 8))))

/-- R114, R115, R119, R121: the float majors with two or three operands work on each element in the format of their type, and raise the
flags of its elements. Where the exact result is finite, the code written is its rounding (R90 to R93), an exact zero with the sign of its
rule; NaNs, infinities and invalid operations give what their rules list. fmin and fmax return one of their operands, -0 below +0. -/
def Obligations.FloatArithmeticPerElement : Prop :=
  (∀ (s : State) (g d a b c t : Nat), c < 3 → t < 3 →
    (∀ n ∈ Safety.named (dstOf c d) [srcOf c a, srcB c b], n < (cur s).budget) →
    let f := floatFmt t
    Safety.BinaryFloat (.fadd g d a b c t) s g d a b c (t != 0) (faddCode f) ∧
    Safety.BinaryFloat (.fsub g d a b c t) s g d a b c (t != 0) (fsubCode f) ∧
    Safety.BinaryFloat (.fmul g d a b c t) s g d a b c (t != 0) (fmulCode f) ∧
    Safety.BinaryFloat (.fmin g d a b c t) s g d a b c (t != 0) (fun x y => (fminmaxCode f false x y, 0)) ∧
    Safety.BinaryFloat (.fmax g d a b c t) s g d a b c (t != 0) (fun x y => (fminmaxCode f true x y, 0)) ∧
    Safety.BinaryFloat (.fscale g d a b c t) s g d a b c (t != 0)
      (fun x y => fscaleCode f x (if t = 0 then (BitVec.ofNat 32 y).toInt else (BitVec.ofNat 16 y).toInt))) ∧
  (∀ (s : State) (g d a b c t cc fm : Nat) (mode : RMode), c < 3 → t < 3 → fm < 16 → rmodeOf (fm % 8) = some mode →
    (∀ n ∈ Safety.named (dstOf c d) [srcOf c a, srcB c b, srcOf c cc], n < (cur s).budget) →
    let z := readSrc (cur s) (srcOf c cc)
    let one (k th : Nat) : Nat × Nat :=
      let w := if t = 0 then 32 else 16
      ffmaCode (floatFmt t) mode (decide (8 ≤ fm)) ((readSrc (cur s) (srcOf c a) th).extractLsb' (16 * k) w).toNat
        ((readSrc (cur s) (srcB c b) th).extractLsb' (16 * k) w).toNat ((z th).extractLsb' (16 * k) w).toNat
    Safety.Computes (.ffma g d a b c t cc fm) s (active s g) (dstOf c d)
      (fun th => if t = 0 then BitVec.ofNat 32 (one 0 th).1 else BitVec.ofNat 16 (one 1 th).1 ++ BitVec.ofNat 16 (one 0 th).1)
      (fun th => if t = 0 then (one 0 th).2 else (one 0 th).2 ||| (one 1 th).2)) ∧
  (∀ (f : Fmt) (a b : Nat), f ∈ [fmtF32, fmtBf16, fmtF16] →
    let x := fdecode f a
    let y := fdecode f b
    (x = .nan ∨ y = .nan → ∀ op ∈ [faddCode, fsubCode, fmulCode], op f a b = Safety.quiet f) ∧
    (∀ n n' : Bool, x = .inf n → y = .inf n' →
      faddCode f a b = (if n = n' then Safety.infinity f n else Safety.invalid f) ∧
      fsubCode f a b = (if n = n' then Safety.invalid f else Safety.infinity f n)) ∧
    (∀ (n n' : Bool) (m : Nat) (e : Int), x = .inf n → y = .fin n' m e →
      faddCode f a b = Safety.infinity f n ∧ faddCode f b a = Safety.infinity f n ∧
      fsubCode f a b = Safety.infinity f n ∧ fsubCode f b a = Safety.infinity f (!n)) ∧
    (∀ n : Bool, Safety.ProductInfinite x y n → fmulCode f a b = Safety.infinity f n) ∧
    (Safety.ProductInvalid x y → fmulCode f a b = Safety.invalid f) ∧
    (∀ (n n' : Bool) (m m' : Nat) (e e' : Int), x = .fin n m e → y = .fin n' m' e' →
      Safety.RoundsOrZero f .rn false false (Safety.value x + Safety.value y) (n && n') (faddCode f a b) ∧
      Safety.RoundsOrZero f .rn false false (Safety.value x - Safety.value y) (n && !n') (fsubCode f a b) ∧
      Safety.RoundsOrZero f .rn false false (Safety.value x * Safety.value y) (n != n') (fmulCode f a b)) ∧
    (∀ k : Int,
      (x = .nan → fscaleCode f a k = Safety.quiet f) ∧ (∀ n : Bool, x = .inf n → fscaleCode f a k = Safety.infinity f n) ∧
      ∀ (n : Bool) (m : Nat) (e : Int), x = .fin n m e →
        Safety.RoundsOrZero f .rn false false (Safety.value x * 2 ^ k) n (fscaleCode f a k)) ∧
    ∀ wantMax : Bool,
      let r := fminmaxCode f wantMax a b
      (x = .nan → y ≠ .nan → r = b) ∧ (x ≠ .nan → y = .nan → r = a) ∧ (x = .nan → y = .nan → r = nanCode f) ∧
      (x ≠ .nan → y ≠ .nan → (r = a ∨ r = b) ∧
        (∀ z ∈ [x, y], (if wantMax then fltVal (fdecode f r) z else fltVal z (fdecode f r)) = false) ∧
        ∀ (n n' : Bool) (e e' : Int), x = .fin n 0 e → y = .fin n' 0 e' →
          fdecode f r = .fin (if wantMax then n && n' else n || n') 0 e)) ∧
  ∀ (f : Fmt) (mode : RMode) (ftz : Bool) (a b c : Nat), f ∈ [fmtF32, fmtBf16, fmtF16] →
    let x := fdecode f (flushIn f ftz a)
    let y := fdecode f (flushIn f ftz b)
    let z := fdecode f (flushIn f ftz c)
    let r := ffmaCode f mode ftz a b c
    (x = .nan ∨ y = .nan ∨ z = .nan → r = Safety.quiet f) ∧
    (Safety.ProductInvalid x y → z ≠ .nan → r = Safety.invalid f) ∧
    (∀ n : Bool, Safety.ProductInfinite x y n → z ≠ .nan → r = if z = .inf (!n) then Safety.invalid f else Safety.infinity f n) ∧
    (∀ n : Bool, Safety.Finite x → Safety.Finite y → z = .inf n → r = Safety.infinity f n) ∧
    ∀ (n n' n'' : Bool) (m m' m'' : Nat) (e e' e'' : Int), x = .fin n m e → y = .fin n' m' e' → z = .fin n'' m'' e'' →
      Safety.RoundsOrZero f mode false ftz (Safety.value x * Safety.value y + Safety.value z)
        (if (n != n') = n'' then n'' else mode == .rm) r

/-- R117, R118, R120: the unary float majors, fclass and fround, on each element in the format of their type; the special results of R117
with their flags, what .ftz makes of a subnormal operand (R92), and an invalid operation on a number below zero. frcp is the rounding of
1/x; frsq is the representable number nearest to 1/√x, said by squares: half way to any other lies beyond it. fex2 of a whole number and
flg2 of a power of two are the rounding of their exact value, and fex2 overflows and underflows far out. fclass writes its mask bit; fround
the whole number that its mode picks, with the operand's sign. The other results of fex2, flg2, fsin and fcos are not stated here (log entry
5). -/
def Obligations.UnaryFloatsPerElement : Prop :=
  (∀ (s : State) (g d a c t : Nat), (c = 0 ∨ c = 2) → t < 3 → (∀ n ∈ Safety.named (dstOf c d) [srcOf c a], n < (cur s).budget) →
    let f := floatFmt t
    (∀ ftz : Nat, ftz < 2 →
      Safety.UnaryFloat (.frcp g d a ftz c t) s g d a c (t != 0) (unaryCode .rcp f (ftz == 1)) ∧
      Safety.UnaryFloat (.frsq g d a ftz c t) s g d a c (t != 0) (unaryCode .rsq f (ftz == 1)) ∧
      Safety.UnaryFloat (.fex2 g d a ftz c t) s g d a c (t != 0) (unaryCode .ex2 f (ftz == 1)) ∧
      Safety.UnaryFloat (.flg2 g d a ftz c t) s g d a c (t != 0) (unaryCode .lg2 f (ftz == 1)) ∧
      Safety.UnaryFloat (.fsin g d a ftz c t) s g d a c (t != 0) (unaryCode .sin f (ftz == 1)) ∧
      Safety.UnaryFloat (.fcos g d a ftz c t) s g d a c (t != 0) (unaryCode .cos f (ftz == 1))) ∧
    Safety.UnaryFloat (.fclass g d a c t) s g d a c (t != 0) (fun x => (fclassCode f x, 0)) ∧
    ∀ (ftz r : Nat) (mode : RMode), ftz < 2 → rmodeOf r = some mode →
      Safety.UnaryFloat (.fround g d a ftz r c t) s g d a c (t != 0) (froundCode f mode (ftz == 1))) ∧
  ∀ (f : Fmt) (ftz : Bool) (a : Nat), f ∈ [fmtF32, fmtBf16, fmtF16] →
    let normal : Rat := 2 ^ (1 - (f.bias : Int))
    let x := fdecode f (flushIn f ftz a)
    let v := Safety.value x
    let of (fn : UnaryFn) := unaryCode fn f ftz a
    let one := (f.bias * 2 ^ f.mbits, 0)
    (x = if ftz ∧ |Safety.value (fdecode f a)| < normal then (match fdecode f a with
        | .fin n _ e => .fin n 0 e
        | y => y) else fdecode f a) ∧
    (x = .nan → ∀ fn, of fn = Safety.quiet f) ∧
    (∀ n : Bool, x = .inf n → of .rcp = Safety.zero f n ∧ of .rsq = (if n then Safety.invalid f else Safety.zero f false) ∧
      of .ex2 = (if n then Safety.zero f false else Safety.infinity f false) ∧
      of .lg2 = (if n then Safety.invalid f else Safety.infinity f false) ∧
      of .sin = Safety.invalid f ∧ of .cos = Safety.invalid f) ∧
    (∀ (n : Bool) (e : Int), x = .fin n 0 e → of .rcp = Safety.infinity f n ∧ of .rsq = Safety.infinity f n ∧ of .ex2 = one ∧
      of .lg2 = Safety.infinity f true ∧ of .sin = Safety.zero f n ∧ of .cos = one) ∧
    (∀ (n : Bool) (m : Nat) (e : Int), m ≠ 0 → x = .fin n m e →
      Safety.Rounds f .rn false ftz (1 / v) (of .rcp) ∧ (n = true → of .rsq = Safety.invalid f ∧ of .lg2 = Safety.invalid f) ∧
      (n = false → ∃ c ≤ maxCode f,
        let w := Safety.value (fdecode f c)
        0 < w ∧ of .rsq = (c, if w * w * v = 1 then 0 else flInexact) ∧ ∀ y, Safety.Representable f y →
          (w < y → 1 ≤ ((w + y) / 2) ^ 2 * v) ∧ (-w < y → y < w → ((w + y) / 2) ^ 2 * v ≤ 1)) ∧
      (∀ k : Int, v = k → Safety.Rounds f .rn false ftz (2 ^ k) (of .ex2)) ∧
      (1024 ≤ v → of .ex2 = (infCode f, flOverflow ||| flInexact)) ∧ (v ≤ -1024 → of .ex2 = (0, flUnderflow ||| flInexact)) ∧
      ∀ k : Int, v = 2 ^ k → Safety.RoundsOrZero f .rn false ftz k false (of .lg2)) ∧
    (fclassCode f a = match fdecode f a with
      | .nan => 2 ^ 8
      | .inf n => if n then 2 ^ 0 else 2 ^ 7
      | .fin n m e =>
        if m = 0 then (if n then 2 ^ 3 else 2 ^ 4)
        else if |Safety.value (.fin n m e)| < normal then (if n then 2 ^ 2 else 2 ^ 5)
        else if n then 2 ^ 1 else 2 ^ 6) ∧
    ∀ mode : RMode,
      let r := froundCode f mode ftz a
      (x = .nan → r = Safety.quiet f) ∧ (∀ n : Bool, x = .inf n → r = Safety.infinity f n) ∧
      ∀ (n : Bool) (m : Nat) (e : Int), x = .fin n m e → ∃ (m' : Nat) (e' : Int) (k : Int),
        fdecode f r.1 = .fin n m' e' ∧ Safety.value (fdecode f r.1) = k ∧
        Safety.Picks mode Safety.Whole (k % 2 = 0) v k ∧ r.2 = if (k : Rat) = v then 0 else flInexact

/-- R90: what each rounding mode makes of a magnitude m · 2^(-k) that lies between two whole numbers. R79, R114: sums and products of finite
values are formed exactly before they are rounded, and values compare as numbers (R101). R80, R90: a finite value of a format rounds to its
own code, in every mode, and raises no flag. R90 to R93: any other finite value rounds to the representable neighbour that its mode picks,
or, too large, to the row of R91's table; its flags follow, and .ftz flushes a subnormal result; the largest codes, the infinities and the
NaNs are those of R80 and R81, the flags those of R65. R81: fadd, fsub, fmul, ffma, fmin and fmax write no NaN but the canonical one,
whatever payload an operand had. -/
def Obligations.RoundingAndNansFollowTheirRules : Prop :=
  (∀ (mode : RMode) (neg : Bool) (m k : Nat), 0 < k →
    let r := roundShift mode neg m k
    let below := m / 2 ^ k
    let rest := m % 2 ^ k
    r.2 = decide (rest ≠ 0) ∧ (rest = 0 → r.1 = below) ∧ (rest ≠ 0 → r.1 = below ∨ r.1 = below + 1) ∧
    (rest ≠ 0 → match mode with
      | .rz => r.1 = below
      | .rp => r.1 = if neg then below else below + 1
      | .rm => r.1 = if neg then below + 1 else below
      | .rna => r.1 = if 2 * rest < 2 ^ k then below else below + 1
      | .rn => if 2 * rest = 2 ^ k then r.1 % 2 = 0 else r.1 = if 2 * rest < 2 ^ k then below else below + 1)) ∧
  (∀ (mode : RMode) (n n' : Bool) (m m' : Nat) (e e' : Int),
    let x := FVal.fin n m e
    let y := FVal.fin n' m' e'
    Safety.value (faddVal mode x y).1 = Safety.value x + Safety.value y ∧ (faddVal mode x y).2 = false ∧
    Safety.value (fmulVal x y).1 = Safety.value x * Safety.value y ∧ (fmulVal x y).2 = false ∧
    (fltVal x y = true ↔ Safety.value x < Safety.value y)) ∧
  (∀ (f : Fmt) (mode : RMode) (sat neg : Bool) (code m : Nat) (e : Int),
    f ∈ [fmtF32, fmtBf16, fmtF16, fmtE4m3, fmtE5m2, fmtE2m1] → code < 2 ^ (1 + f.ebits + f.mbits) → fdecode f code = .fin neg m e →
    roundFin f mode sat false neg m e = (code, 0)) ∧
  (∀ (f : Fmt) (mode : RMode) (sat ftz neg : Bool) (m : Nat) (e : Int), f ∈ [fmtF32, fmtBf16, fmtF16, fmtE4m3, fmtE5m2, fmtE2m1] →
    Safety.RoundsOrZero f mode sat ftz (Safety.value (.fin neg m e)) neg (roundFin f mode sat ftz neg m e)) ∧
  ([fmtF32, fmtBf16, fmtF16, fmtE4m3, fmtE5m2, fmtE2m1].map maxCode = [0x7F7FFFFF, 0x7F7F, 0x7BFF, 0x7E, 0x7B, 7] ∧
    [fmtF32, fmtBf16, fmtF16, fmtE5m2].map infCode = [0x7F800000, 0x7F80, 0x7C00, 0x7C] ∧
    [fmtF32, fmtBf16, fmtF16, fmtE4m3, fmtE5m2].map nanCode = [0x7FC00000, 0x7FC0, 0x7E00, 0x7F, 0x7E] ∧
    [flInvalid, flOverflow, flUnderflow, flInexact, flSaturated] = [1, 2, 4, 8, 16]) ∧
  (∀ (f : Fmt) (a b c : Nat) (mode : RMode) (ftz : Bool), f ∈ [fmtF32, fmtBf16, fmtF16] →
    (∀ r ∈ [faddCode f a b, fsubCode f a b, fmulCode f a b, ffmaCode f mode ftz a b c], fdecode f r.1 = .nan → r.1 = nanCode f) ∧
    ∀ wantMax : Bool, fdecode f (fminmaxCode f wantMax a b) = .nan → fminmaxCode f wantMax a b = nanCode f)

/-- R122 to R125, R127: conversions between formats, packing and unpacking, codebook decoding and block quantisation. cvt writes the
rounding of A (R90 to R93), an infinity or a NaN as R91 says; cvti the whole number that its mode picks, clamped to the nearest bound, 0
from a NaN, or an integer's rounding; a widened value is the same value; mxscale's scale is floor(log2 of the largest) less emax, and its
elements are roundings with a clamp that never sets overflow. -/
def Obligations.ConversionsWriteTheirResults : Prop :=
  (∀ (s : State) (g d a f sx r : Nat) (mode : RMode), f < 5 → rmodeOf r = some mode →
    (∀ n ∈ Safety.named (.v d) [.v a], n < (cur s).budget) →
    let x (th : Nat) := cvtCode (cvtFmt f) mode (sx == 1) (getV (cur s) th a).toNat
    Safety.Computes (.cvt g d a f sx r) s (active s g) (.v d) (fun th => BitVec.ofNat 32 (x th).1) (fun th => (x th).2)) ∧
  (∀ (s : State) (g d a f r : Nat) (mode : RMode), f < 9 → rmodeOf r = some mode →
    (∀ n ∈ Safety.named (.v d) [.v a], n < (cur s).budget) →
    let x (th : Nat) := cvtiResult f mode (getV (cur s) th a).toNat
    Safety.Computes (.cvti g d a f r) s (active s g) (.v d) (fun th => BitVec.ofNat 32 (x th).1) (fun th => (x th).2)) ∧
  (∀ (s : State) (g d a b c : Nat), c < 3 → (∀ n ∈ Safety.named (dstOf c d) [srcOf c a, srcB c b], n < (cur s).budget) →
    let x := readSrc (cur s) (srcOf c a)
    let y := readSrc (cur s) (srcB c b)
    Safety.Computes (.pack g d a b c 0) s (active s g) (dstOf c d)
      (fun th => (y th).extractLsb' 0 16 ++ (x th).extractLsb' 0 16) (fun _ => 0) ∧
    Safety.Computes (.pack g d a b c 1) s (active s g) (dstOf c d)
      (fun th => (0 : BitVec 16) ++ ((y th).extractLsb' 0 8 ++ (x th).extractLsb' 0 8)) (fun _ => 0)) ∧
  (∀ (s : State) (g d a t u ix : Nat), t < 9 → ix < (if t = 8 then 8 else if t = 0 ∨ t = 1 ∨ t = 4 ∨ t = 5 then 2 else 4) →
    (∀ n ∈ Safety.named (if u = 1 then .s d else .v d) [if u = 1 then .s a else .v a], n < (cur s).budget) →
    let x (th : Nat) : Word := if u = 1 then getS (cur s) a else getV (cur s) th a
    let half (th : Nat) : BitVec 16 := (x th).extractLsb' (16 * ix) 16
    let byte (th : Nat) : BitVec 8 := (x th).extractLsb' (8 * ix) 8
    Safety.Computes (.unpack g d a t u ix) s (active s g) (if u = 1 then .s d else .v d)
      (fun th => match t with
        | 0 => (half th).setWidth 32
        | 1 => (half th).signExtend 32
        | 2 => (byte th).setWidth 32
        | 3 => (byte th).signExtend 32
        | 4 => BitVec.ofNat 32 (widenF32 fmtBf16 (half th).toNat)
        | 5 => BitVec.ofNat 32 (widenF32 fmtF16 (half th).toNat)
        | 6 => BitVec.ofNat 32 (widenF32 fmtE4m3 (byte th).toNat)
        | 7 => BitVec.ofNat 32 (widenF32 fmtE5m2 (byte th).toNat)
        | _ => BitVec.ofNat 32 (widenF32 fmtE2m1 ((x th).extractLsb' (4 * ix) 4).toNat)) (fun _ => 0)) ∧
  (∀ (s : State) (g d a sx u ix : Nat), ix < 4 →
    (∀ n ∈ Safety.named (if u = 1 then .s d else .v d) [if u = 1 then .s a else .v a], n < (cur s).budget) →
    let x (th : Nat) : Word := if u = 1 then getS (cur s) a else getV (cur s) th a
    let entry (k th : Nat) : BitVec 16 := smapGet 0 (curWg s).cb (16 * sx + ((x th).extractLsb' (8 * ix + 4 * k) 4).toNat)
    Safety.Computes (.cbdec g d a sx u ix) s (active s g) (if u = 1 then .s d else .v d)
      (fun th => entry 1 th ++ entry 0 th) (fun _ => 0)) ∧
  (∀ (s : State) (g d a e : Nat), e < 3 → (∀ n ∈ Safety.named (.v d) [.v a], n < (cur s).budget) →
    let x (th : Nat) : FVal := fdecode fmtF32 (getV (cur s) th a).toNat
    let scale := mxScaleByte e ((threadsOf (active s g)).map x)
    Safety.Computes (.mxscale g d a e) s (active s g) (.v d)
      (fun th => BitVec.ofNat 32 (scale * 256 + (mxElement e scale (x th)).1)) (fun th => (mxElement e scale (x th)).2)) ∧
  (∀ (d : Nat) (mode : RMode) (sat : Bool) (a : Nat), d < 5 →
    let f := [fmtBf16, fmtF16, fmtE4m3, fmtE5m2, fmtE2m1].getD d fmtBf16
    let r := cvtCode (cvtFmt d) mode sat a
    match fdecode fmtF32 a with
    | .nan => r = if d = 4 then (0, flInvalid) else Safety.quiet f
    | .inf n => r = if (d = 0 ∨ d = 1 ∨ d = 3) ∧ sat = false then Safety.infinity f n else Safety.replacement f mode sat n
    | .fin n m e => Safety.RoundsOrZero f mode sat false (Safety.value (.fin n m e)) n r) ∧
  (∀ (d : Nat) (mode : RMode) (a : Nat), d < 6 →
    let lo : Int := [-2 ^ 31, 0, -2 ^ 15, 0, -2 ^ 7, 0].getD d 0
    let hi : Int := [2 ^ 31 - 1, 2 ^ 32 - 1, 2 ^ 15 - 1, 2 ^ 16 - 1, 2 ^ 7 - 1, 2 ^ 8 - 1].getD d 0
    let r := cvtiResult d mode a
    let writes (k : Int) (fl : Nat) : Prop := (r.1 : Int) = k % 2 ^ 32 ∧ r.2 = fl
    match fdecode fmtF32 a with
    | .nan => writes 0 flInvalid
    | .inf n => writes (if n then lo else hi) flInvalid
    | .fin n m e => ∃ k : Int, Safety.Picks mode Safety.Whole (k % 2 = 0) (Safety.value (.fin n m e)) k ∧
      if k < lo then writes lo flInvalid else if hi < k then writes hi flInvalid
      else writes k (if (k : Rat) = Safety.value (.fin n m e) then 0 else flInexact)) ∧
  (∀ (d : Nat) (mode : RMode) (a : Word), 6 ≤ d → d < 9 →
    Safety.RoundsOrZero ([fmtF32, fmtBf16, fmtF16].getD (d - 6) fmtF32) mode false false a.toInt false (cvtiResult d mode a.toNat)) ∧
  (∀ (f : Fmt) (a : Nat), f ∈ [fmtBf16, fmtF16, fmtE4m3, fmtE5m2, fmtE2m1] →
    match fdecode f a with
    | .nan => widenF32 f a = nanCode fmtF32
    | .inf n => fdecode fmtF32 (widenF32 f a) = .inf n
    | .fin n m e => ∃ (m' : Nat) (e' : Int), fdecode fmtF32 (widenF32 f a) = .fin n m' e' ∧
      Safety.value (.fin n m' e') = Safety.value (.fin n m e)) ∧
  (∀ (e : Nat) (l : List FVal), e < 3 →
    ((∃ v ∈ l, ¬ Safety.Finite v) → mxScaleByte e l = 255) ∧
    ((∀ v ∈ l, Safety.Finite v) →
      ((∀ v ∈ l, Safety.value v = 0) → mxScaleByte e l = 0) ∧
      ∀ k : Int, (∃ v ∈ l, (2 : Rat) ^ k ≤ |Safety.value v|) → (∀ v ∈ l, |Safety.value v| < (2 : Rat) ^ (k + 1)) →
        (mxScaleByte e l : Int) = max (k - [2, 8, 15].getD e 0 + 127) 0)) ∧
  ∀ (e k : Nat) (v : FVal), e < 3 →
    let f := [fmtE2m1, fmtE4m3, fmtE5m2].getD e fmtE2m1
    (k = 255 → mxElement e k v = ([0, 0x7F, 0x7E].getD e 0, 0)) ∧
    ∀ (n : Bool) (m : Nat) (x : Int), k < 255 → v = .fin n m x → ∃ r,
      Safety.RoundsOrZero f .rn true false (Safety.value v * 2 ^ (127 - (k : Int))) n r ∧
      mxElement e k v = (r.1, r.2 &&& (flUnderflow ||| flInexact ||| flSaturated))

/-- R101, R116, R128: the compares write their condition to the predicate of every active thread, with no flag; a write to p7 is discarded;
their words, and the codes that are illegal-opcode. -/
def Obligations.ComparesWriteTheirPredicate : Prop :=
  (∀ g k p a b c t imm : Nat, let d := 8 * k + p
    encode (.icmp g k p a b c t) = [Safety.word 0x28 g d a b (4 * c + t)] ∧
    encode (.icmpI g k p a c t imm) = [Safety.word 0x71 g d a 0 (4 * c + t), imm] ∧
    encode (.fcmp g k p a b c t) = [Safety.word 0x15 g d a b (4 * c + t)] ∧
    encode (.fcmpI g k p a c t imm) = [Safety.word 0x70 g d a 0 (4 * c + t), imm] ∧
    (3 ≤ c ∨ 2 ≤ t ∨ 6 ≤ k → Safety.Illegal (.icmp g k p a b c t)) ∧
    ((c ≠ 0 ∧ c ≠ 2) ∨ 2 ≤ t ∨ 6 ≤ k → Safety.Illegal (.icmpI g k p a c t imm)) ∧
    (3 ≤ c ∨ t ≠ 0 → Safety.Illegal (.fcmp g k p a b c t)) ∧ ((c ≠ 0 ∧ c ≠ 2) ∨ t ≠ 0 → Safety.Illegal (.fcmpI g k p a c t imm))) ∧
  (∀ (s : State) (g k p a b c t : Nat), c < 3 → t < 2 → k < 6 → (∀ n ∈ [srcOf c a, srcB c b].flatMap srcRegs, n < (cur s).budget) →
    let cond (x y : Word) : Bool := match k with
      | 0 => x == y
      | 1 => x != y
      | 2 => if t = 1 then x.slt y else x.ult y
      | 3 => if t = 1 then x.sle y else x.ule y
      | 4 => if t = 1 then y.slt x else y.ult x
      | _ => if t = 1 then y.sle x else y.ule x
    Safety.Decides (.icmp g k p a b c t) s (active s g) p
      (fun th => cond (readSrc (cur s) (srcOf c a) th) (readSrc (cur s) (srcB c b) th)) ∧
    ∀ imm : Nat, imm < 2 ^ 32 → c ≠ 1 →
      Safety.Decides (.icmpI g k p a c t imm) s (active s g) p
        (fun th => cond (readSrc (cur s) (srcOf c a) th) (BitVec.ofNat 32 imm))) ∧
  ∀ (s : State) (g k p a b c : Nat), c < 3 → k < 8 → (∀ n ∈ [srcOf c a, srcB c b].flatMap srcRegs, n < (cur s).budget) →
    let cond (x y : Word) : Bool :=
      let u := fdecode fmtF32 x.toNat
      let v := fdecode fmtF32 y.toNat
      let nan := decide (u = .nan) || decide (v = .nan)
      match k with
      | 0 => !nan && !fltVal u v && !fltVal v u
      | 1 => nan || fltVal u v || fltVal v u
      | 2 => !nan && fltVal u v
      | 3 => !nan && !fltVal v u
      | 4 => !nan && fltVal v u
      | 5 => !nan && !fltVal u v
      | 6 => !nan
      | _ => nan
    Safety.Decides (.fcmp g k p a b c 0) s (active s g) p
      (fun th => cond (readSrc (cur s) (srcOf c a) th) (readSrc (cur s) (srcB c b) th)) ∧
    ∀ imm : Nat, imm < 2 ^ 32 → c ≠ 1 →
      Safety.Decides (.fcmpI g k p a c 0 imm) s (active s g) p
        (fun th => cond (readSrc (cur s) (srcOf c a) th) (BitVec.ofNat 32 imm))

/-- R129, R131, R135: pop combines predicates, agree tests the active threads' predicate, lead marks the lowest thread; their words, and the
codes that are illegal-opcode. -/
def Obligations.PredicatesCombineAgreeAndLead : Prop :=
  (∀ g d a b o : Nat, encode (.pop g d a b o) = [Safety.word 0x29 g d a b o] ∧ encode (.agree g d a o) = [Safety.word 0x2B g d a 0 o] ∧
    encode (.lead g d a o) = [Safety.word 0x2F g d a 0 o] ∧ Safety.Illegal (.agree g d a 3) ∧ (a ≠ 0 → Safety.Illegal (.lead g d a 0))) ∧
  ∀ (s : State) (g : Nat),
    (∀ d a b o : Nat, o < 4 →
      Safety.Decides (.pop g d a b o) s (active s g) d (fun th =>
        let x := inMask (getP (cur s) a) th
        let y := inMask (getP (cur s) b) th
        match o with
        | 0 => x && y
        | 1 => x || y
        | 2 => x != y
        | _ => x && !y)) ∧
    (∀ d a t : Nat, t < 3 →
      Safety.Decides (.agree g d a t) s (active s g) d (fun _ =>
        let all := (List.range 32).all fun u => !inMask (active s g) u || inMask (getP (cur s) a) u
        let any := (List.range 32).any fun u => inMask (active s g) u && inMask (getP (cur s) a) u
        match t with
        | 0 => any
        | 1 => all
        | _ => all || !any)) ∧
    ∀ p a md : Nat, (md = 1 ∨ md = 0 ∧ a = 0) → (md = 1 → a < (cur s).budget) →
      Safety.Decides (.lead g p a md) s (active s g) p (fun th =>
        let picked (u : Nat) : Bool := inMask (active s g) u && (decide (md = 0) || inMask (getV (cur s) th a) u)
        picked th && (List.range th).all fun u => !picked u)

/-- R130, R132 to R134: ballot, match, xpick and xfold over the active threads, as their registers stood before the instruction; their
words, and the codes that are illegal-opcode. -/
def Obligations.CrossLaneResults : Prop :=
  (∀ g d a b t u m : Nat, encode (.ballot g d a u) = [Safety.word 0x2A g d a 0 (8 * u)] ∧
    encode (.matchK g d a m) = [Safety.word 0x2C g d a 0 m] ∧ encode (.xpick g d a b u m) = [Safety.word 0x2D g d a b (4 * u + m)] ∧
    encode (.xfold g d a t u m) = [Safety.word 0x2E g d a t (8 * u + m)] ∧ (3 ≤ m → Safety.Illegal (.matchK g d a m)) ∧
    (3 ≤ m ∨ 3 ≤ u ∨ (u = 2 ∧ 32 ≤ b) → Safety.Illegal (.xpick g d a b u m)) ∧ (6 ≤ m → Safety.Illegal (.xfold g d a t u m))) ∧
  (∀ w x : Nat, bits w 31 25 = 0x2E → 2 ≤ bits w 9 4 → ∃ e, decodeWords w x = .error e) ∧
  ∀ (s : State) (g d a : Nat),
    (∀ p u : Nat, (∀ n ∈ Safety.named (if u = 1 then .s d else .v d) [], n < (cur s).budget) →
      Safety.Computes (.ballot g d p u) s (active s g) (if u = 1 then .s d else .v d)
        (fun _ => active s g &&& getP (cur s) p) (fun _ => 0)) ∧
    (∀ w : Nat, w < 3 → (∀ n ∈ Safety.named (.v d) [.v a], n < (cur s).budget) →
      let key (th : Nat) : BitVec (32 >>> w) := (getV (cur s) th a).setWidth (32 >>> w)
      ∃ val, Safety.Computes (.matchK g d a w) s (active s g) (.v d) val (fun _ => 0) ∧
        ∀ th u, u < 32 → inMask (val th) u = (inMask (active s g) u && decide (key u = key th))) ∧
    (∀ b sx md : Nat, md < 3 → sx < 3 → (sx = 2 → b < 32) →
      (∀ n ∈ Safety.named (.v d) [.v a, if sx = 0 then .v b else .s b], n < (cur s).budget) →
      let y (th : Nat) : Nat := if sx = 0 then (getV (cur s) th b).toNat else if sx = 1 then (getS (cur s) b).toNat else b
      let source (th : Nat) : Nat := if md = 0 then y th % 32 else if md = 1 then (th + y th) % 32 else th ^^^ (y th % 32)
      Safety.Computes (.xpick g d a b sx md) s (active s g) (.v d)
        (fun th => if inMask (active s g) (source th) then getV (cur s) (source th) a else getV (cur s) th a) (fun _ => 0)) ∧
    ∀ t u o : Nat, o < 6 → (∀ n ∈ Safety.named (if u = 1 then .s d else .v d) [.v a], n < (cur s).budget) →
      let less (x y : Word) : Bool := if t = 1 then x.slt y else x.ult y
      let combine (r x : Word) : Word := match o with
        | 0 => r + x
        | 1 => if less x r then x else r
        | 2 => if less r x then x else r
        | 3 => r &&& x
        | 4 => r ||| x
        | _ => r ^^^ x
      Safety.Computes (.xfold g d a t u o) s (active s g) (if u = 1 then .s d else .v d)
        (fun _ => match threadsOf (active s g) with
          | [] => 0
          | first :: rest => rest.foldl (fun r th => combine r (getV (cur s) th a)) (getV (cur s) first a)) (fun _ => 0)

/-! ### Steps, checks and traps -/

/-- R46, R53, R54, R253: at the issue turn of a flock, or of the flock of its octet to which it has given the turn by a yield (R45), the
path of the slot with the lower PC runs: where it stands in a clause, the words fetched at its PC decode to an instruction, and that
instruction executes in the state the fetch left. The step adds only the error ring entries that have become due (log entry 76). -/
def Obligations.StepRunsTheDecodedInstruction : Prop :=
  ∀ (s u : State) (c f : Nat) (r : List Turn) (p : Path) (ws : List Nat) (i : Instr),
    c < 576 → f < 64 → s.agenda = .issue c f :: r →
    let s0 := { s with agenda := r, core := c, slot := f }
    let s1 := turnTaker s0
    let s2 := { s1 with second := lowerSlot (cur s1) }
    ((cur s0).yielded = false → s1 = s0) ∧
    (mayIssue s0 c f = true → pathOf (cur s1) (lowerSlot (cur s1)) = some p → p.wait = .none → p.left ≠ 0 →
      fetchInstr s2 = (u, some ws) → decodeWords (ws.getD 0 0) (ws.getD 1 0) = .ok i →
      step s = closeTurn (exec i u) ∧ ∀ t, exec i u = .next t → t.mgmt.errDue = [] → step s = .next t)

/-- R264, R280, R353 and log entry 33: a word that the path has fetched ahead is the word it executes, once; else a word that the core holds
for the domain and address is the word fetched, and the fetch changes nothing; a word that neither holds is read from its four bytes at the
page's home, least significant first, and is held by the core from then on. A schedule may have the device keep the values that a word
holds, and a path fetch one of them that no icinv with a later fetchb of one of its threads has left behind. That a held word is the word
executed, and that a fetched word is held, is the model's choice (log entry 33): R353 allows it. R46, R55: the words at the PC that decode
to no instruction raise illegal-opcode, with those words in the record. -/
def Obligations.FetchedWordsDecodeOrTrap : Prop :=
  (∀ (s : State) (off : Nat),
    let key := icacheKey (curLaunch s).dom ((curObj s).va + off)
    let early := smapFind (cur s).ahead (aheadKey off s.second)
    (∀ w : Word, early = some w → fetchWord off s =
      (setCur { cur s with ahead := smapDrop (cur s).ahead fun k => k == aheadKey off s.second } s, some w.toNat)) ∧
    (∀ w : Word, early = none → smapFind (coreAt s s.core).icache key = some w → fetchWord off s = (s, some w.toNat)) ∧
    (∀ (n stamp : Nat) (w : Word), (cur s).launch ≠ 0 → pathOf (cur s) s.second ≠ none → off % 4 = 0 →
      (smapGet [] s.codeSeen key)[n]? = some (stamp, w) →
      (∀ t, inMask (liveMask (cur s) (curPath s)) t = true → smapGet 0 (curWg s).fenced (fenceKey key (cur s).index t) ≤ stamp) →
      (fetchWord off (fetchOld s.core s.slot s.second off n s)).2 = some w.toNat) ∧
    ∀ (u : State) (x : Nat), early = none → smapFind (coreAt s s.core).icache key = none →
      pageFor (curAgent s) .fetch ((curObj s).va + off) s = (u, .ok x) →
      let v := verifyElement x ((curObj s).va + off) 4 u
      elementBad v x ((curObj s).va + off) 4 = false →
      (fetchWord off s).2 = some (leNat (loadBytes none x ((curObj s).va + off) 4 v).2) ∧
      smapFind (coreAt (fetchWord off s).1 (fetchWord off s).1.core).icache key =
        some (BitVec.ofNat 32 (leNat (loadBytes none x ((curObj s).va + off) 4 v).2))) ∧
  (∀ (s u : State) (c f : Nat) (r : List Turn) (p : Path) (ws : List Nat) (e : DecodeError),
    c < 576 → f < 64 → s.agenda = .issue c f :: r →
    let s0 := { s with agenda := r, core := c, slot := f }
    let s1 := turnTaker s0
    let s2 := { s1 with second := lowerSlot (cur s1) }
    mayIssue s0 c f = true → pathOf (cur s1) (lowerSlot (cur s1)) = some p → p.wait = .none → p.left ≠ 0 →
    fetchInstr s2 = (u, some ws) → decodeWords (ws.getD 0 0) (ws.getD 1 0) = .error e →
    ∃ m, step s = .next (flushErrors (takeTrap (illegalRec ws m u) u)))

/-- Log entry 2, the model's own schedule: a step takes the next turn of the schedule, a device event among them, and with no turn left the
oldest due event that is not a completion held back; the error ring entries that have become due end it (log entry 76). A turn of the
schedule may also let time pass, fetch a word ahead, keep a value of a word for a later fetch, drop a core's copy of a word (log entry 33),
drop a cached translation (log entry 8), set an island's sensor, or bring a read of the memory that another agent makes over CXL (R370). -/
def Obligations.StepTakesTheNextTurn : Prop :=
  (∀ (s : State) (i : Instr) (r : List Turn), s.agenda = .event i :: r → fieldsFit i = true →
    step s = closeTurn (exec i { s with agenda := r })) ∧
  (∀ (s : State) (r : List Turn), let u := { s with agenda := r }
    (∀ ns : Nat, s.agenda = .elapse ns :: r → step s = .next (flushErrors (elapse ns u))) ∧
    (∀ (c f off : Nat) (b : Bool), c < 576 → f < 64 → s.agenda = .fetchAhead c f b off :: r →
      step s = .next (flushErrors (fetchAhead c f b off u))) ∧
    (∀ (c f off n : Nat) (b : Bool), c < 576 → f < 64 → s.agenda = .fetchOld c f b off n :: r →
      step s = .next (flushErrors (fetchOld c f b off n u))) ∧
    (∀ dom va : Nat, s.agenda = .keepCode dom va :: r → step s = .next (flushErrors (keepCode dom va u))) ∧
    (∀ c dom va : Nat, c < 576 → s.agenda = .dropCode c dom va :: r → step s = .next (flushErrors (dropCode c dom va u))) ∧
    (∀ dom va : Nat, s.agenda = .dropTranslation dom va :: r → step s = .next (flushErrors (dropTranslation dom va u))) ∧
    (∀ i d : Nat, i < 64 → s.agenda = .heat i d :: r → step s = .next (flushErrors (heat i d u))) ∧
    ∀ pa n : Nat, s.agenda = .cxlRead pa n :: r → step s = .next (flushErrors (cxlRead pa n u))) ∧
  ∀ (s : State) (i : Instr) (r : List Instr), s.agenda = [] → s.todo = i :: r → heldBack s i = false →
    step s = closeTurn (exec i { s with todo := r })

/-- R69: a reserved major, and 0x7F, raises illegal-opcode (0x01) wherever it stands. R55: so does an instruction with a field code that is
not assigned; its words stand in the record, and it has no other effect. -/
def Obligations.UnassignedCodesTrap : Prop :=
  (∀ (i : Instr) (s : State), encode i ≠ [] → legalForm i = false →
    ∃ m, exec i s = .next (takeTrap (illegalRec (encode i) m s) s)) ∧
  (∀ (w x : Nat) (s : State), let i := Instr.reservedMajor w x
    exec i s = .next (takeTrap (illegalRec (encode i) (active s (bits w 24 22)) s) s)) ∧
  isReservedMajor 0x7F = true ∧
  ∀ (w x : Nat) (s : State), w < 2 ^ 32 → isReservedMajor (bits w 31 25) = true → ∃ i r, decodeWords w x = .ok i ∧ r.cause = 0x01 ∧
    exec i s = .next (takeTrap r s)

/-- R252, R262, R357, R358: the first trap of a resident workgroup whose launch is listed is recorded and stops it for a save with cause 3;
it stops the launch with status 0x60, trapped, its cause and its index, and every other resident workgroup of the launch for a save with
cause 4. No flock's registers, no flag and no byte of memory changes, and the trapping flock issues no more. A later trap of the workgroup
only counts, up to 255; of two traps in one clock that of the lower flock is recorded and the other counted (R358). That traps stand in one
clock where TIMEBASE has not moved between them is the model's choice: it counts one nanosecond for one clock (log entries 69 and 70). -/
def Obligations.FirstTrapStopsItsLaunch : Prop :=
  ∀ (s : State) (r : TrapRec) (w : Wg),
    let l := (cur s).launch
    let k := (cur s).wg
    findWg s l k = some w →
    (∀ x, w.trap = none → w.phase = .resident → s.launches.find? (fun x => x.num == l) = some x → x.stop = none →
      (r.cause = 0x31 → s.mgmt.hold = false) →
      let t := takeTrap r s
      (wgOf t l k).trap = some r ∧ (wgOf t l k).phase = .stopping 3 ∧
      (launchOf t l).stop = some { status := 0x60, trapped := true, cause := r.cause, index := k } ∧
      (∀ j, j ≠ k → (wgOf s l j).phase = .resident → (wgOf t l j).phase = .stopping 4) ∧
      (∀ c f, flockAt t c f = flockAt s c f) ∧ t.mem = s.mem ∧ t.lines = s.lines ∧
      ∀ c f, (flockAt s c f).launch = l → (flockAt s c f).wg = k → (flockAt s c f).index = r.flock → mayIssue t c f = false) ∧
    (∀ first, w.trap = some first → w.holding = false → (w.stopAt ≠ s.time ∨ first.flock ≤ r.flock) →
      takeTrap r s = haltAt l k r.flock (updWg l k (fun w => { w with later := min 255 (w.later + 1) }) s)) ∧
    (∀ first, w.trap = some first → w.holding = false → w.stopAt = s.time → r.flock < first.flock →
      (r.cause = 0x31 → s.mgmt.hold = false) →
      let t := takeTrap r s
      (wgOf t l k).trap = some r ∧ (wgOf t l k).later = min 255 (w.later + 1) ∧
      (∀ c f, flockAt t c f = flockAt s c f) ∧ t.mem = s.mem ∧ t.lines = s.lines ∧
      ∀ c f, (flockAt s c f).launch = l → (flockAt s c f).wg = k → (flockAt s c f).index = r.flock → mayIssue t c f = false)

/-- R45, R46, R52, R254, R255: an instruction of n words that completes moves its path past them. Where it does not end a clause whose yield
hint is set, nothing else of the machine changes. Where it does and no path is stacked, the flock gives its next turn away (R45); where one
is, its path goes to the bottom of the stack, the top of the stack takes its slot, and the stack is written to the flock's record in the
frame, which holds it at all times (R259, R260, R261); a frame that cannot be written stops the launch (R259 and log entry 26). R255: at a
yield point the slot's path is swapped with the stack's top where it is a yield or the count has reached 4,096, and the count restarts;
otherwise nothing changes. -/
def Obligations.CompletedInstructionsMoveAndSwapPaths : Prop :=
  (∀ (s : State) (n : Nat) (p : Path), pathOf (cur s) s.second = some p →
    let past := { p with pc := p.pc + 4 * n, left := p.left - n, hint := p.hint && decide (n < p.left), wait := .none }
    ((p.hint = false ∨ n < p.left) → advance n s = setCur (withPath (cur s) s.second (some past)) s) ∧
    (p.hint = true → p.left ≤ n → (cur s).stack = [] →
      advance n s = setCur { withPath (cur s) s.second (some past) with yielded := true } s) ∧
    (∀ (q : Path) (r : List Path), p.hint = true → p.left ≤ n → (cur s).stack = q :: r →
      let t := advance n s
      cur t = { withPath (cur s) s.second (some q) with
        stack := r ++ [past], swapBase := clockOf s s.core, latch := none, ahead := dropAhead s.second (cur s).ahead } ∧
      (∀ c f, (c ≠ s.core ∨ f ≠ s.slot) → flockAt t c f = flockAt s c f) ∧
      let u := setCur (cur t) s
      let l := launchOf s (cur s).launch
      let written := deviceWrite l.dom true (flockVa l (cur s).wg (cur s).index + 0x400) (stackBytes (r ++ [past])) u
      t = if r ++ [past] = q :: r then u else if written.2 then written.1 else frameLost (cur s).launch written.1)) ∧
  (∀ (isYield second : Bool) (clk : Nat) (f : Flock),
    (∀ (p q : Path) (r : List Path), pathOf f second = some p → f.stack = q :: r → (isYield = true ∨ 4096 ≤ clk - f.swapBase) →
      let g := yieldPoint isYield clk second f
      pathOf g second = some q ∧ pathOf g (!second) = pathOf f (!second) ∧ g.swapBase = clk ∧
      ∃ p', g.stack = r ++ [p'] ∧ p'.pc = p.pc ∧ p'.left = p.left ∧ p'.mask = p.mask ∧ p'.hint = p.hint) ∧
    (isYield = false → (f.stack = [] ∨ clk - f.swapBase < 4096) → yieldPoint isYield clk second f = f) ∧
    (isYield = true → f.stack = [] → yieldPoint isYield clk second f = { f with yielded := true }))

/-! ### Memory instructions -/

/-- R48, R49: issuing a long-latency instruction counts its completion flag up by one, keeps what its completion will write, makes that
completion due, and changes nothing else. R48, R49: a long-latency instruction that awaits nothing more completes: it leaves the outstanding
ones, counts its flag down by one, and its results stand in the registers it named: the last write of its list in each v register and
thread, its s registers and its b register. R187, R215: one that its flock holds is performed, where its workgroup has met no trap and no
page that is not resident, whole, once nothing before it keeps any of its threads waiting (R55, R185); until then its completion event does
nothing (log entry 13). That the results were fixed when it was performed, and stand all at once at the completion event, is the model's
choice (log entry 72). -/
def Obligations.LongLatencyWorkIsIssuedAndCompleted : Prop :=
  (∀ (s : State) (f : Nat) (p : Pending), flagFull s f = false →
    let t := issueLong f p s
    let flag := flagOf (curPath s) f
    (cur t).pending = (cur s).pending ++ [{ p with uid := s.fresh, flag := flag }] ∧
    (∀ n, getCf (cur t) n = getCf (cur s) n + if flag = some n then 1 else 0) ∧
    (∀ n, flag = some n → getCf (cur t) n ≤ 63) ∧
    .longLatencyCompletion s.core s.slot s.fresh ∈ t.todo ∧
    cur t = { cur s with cf := (cur t).cf, pending := (cur t).pending } ∧ t.mem = s.mem ∧ t.lines = s.lines ∧ t.wgs = s.wgs ∧
    ∀ c k, (c ≠ s.core ∨ k ≠ s.slot) → flockAt t c k = flockAt s c k) ∧
  (∀ (s : State) (core slot uid : Nat),
    let mine (h : Held) : Prop := h.core = core ∧ h.slot = slot ∧ h.what.uid = uid ∧ h.what.op.act ≠ .fence
    let plain : Prop := ∀ q ∈ (flockAt s core slot).pending, q.uid = uid → q.fe = none
    ((∀ h ∈ s.held, ¬ mine h) → plain → tryHeld core slot uid s = s) ∧
    (∀ before h after p, s.held = before ++ h :: after → (∀ x ∈ before, ¬ mine x) → mine h →
      (flockAt s core slot).pending.find? (fun q => q.uid == uid) = some p →
      let waiting : Prop := (∃ e ∈ openOps s core slot, blocks e h.what = true) ∨ (h.what.op.act = .mma ∧ unitBusy s core h.what.uid = true)
      (waiting → plain → p.lines = [] → exec (.longLatencyCompletion core slot uid) s = .next s) ∧
      (waiting ∨ performs s core slot = false → performReady core slot uid s = s) ∧
      (¬ waiting → performs s core slot = true → performReady core slot uid s = performHeld h s))) ∧
  (∀ (s u : State) (core slot uid : Nat) (p : Pending), u = tryHeld core slot uid s →
    (flockAt u core slot).pending.find? (fun q => q.uid == uid) = some p → (∀ h ∈ u.held, h.what.uid ≠ uid) →
    (∀ l ∈ p.lines, ∀ x, findLine u l.1 l.2 = some x → x.st ≠ .updating) → p.lane = none → p.pad = none →
    (∀ i, p.fe = some i → i.mask = 0) →
    (p.product = true → unitBusy u core p.uid = true → exec (.longLatencyCompletion core slot uid) s = .next u) ∧
    ((p.product = true → unitBusy u core p.uid = false) → ∃ t, exec (.longLatencyCompletion core slot uid) s = .next t ∧
      let f := flockAt u core slot
      let g := flockAt t core slot
      g.pending = f.pending.filter (fun q => q.uid != uid) ∧
      (∀ n, getCf g n = if p.flag = some n then getCf f n - 1 else getCf f n) ∧
      (p.vm = [] → ∀ k, smapGet 0 g.v k = match p.vw.reverse.find? (fun w => w.1 == k) with
        | some w => w.2
        | none => smapGet 0 f.v k) ∧
      (∀ n, getS g n = match p.sw.reverse.find? (fun w => w.1 == n) with
        | some w => w.2
        | none => getS f n) ∧
      (∀ n, getB g n = match p.bw with
        | some w => if w.1 = n then w.2 else getB f n
        | none => getB f n) ∧
      g.p = f.p ∧ g.status = f.status ∧ g.path0 = f.path0 ∧ g.path1 = f.path1 ∧ g.stack = f.stack ∧ t.mem = u.mem ∧ t.lines = u.lines))

/-- R181: ld, ldsp and ldo complete in each form, memory and scratchpad, plain and acquiring. R182: st, stsp and sto complete in each form,
memory and scratchpad, plain and releasing. R48: with no active thread each only moves on. R187, R215: one that earlier accesses of its
threads keep waiting issues all the same, and is held until these are performed (log entry 13). That the others are made, and their values
fixed, in the issuing step is the model's choice (log entry 72). -/
def Obligations.LoadsAndStoresComplete : Prop :=
  ((∀ (s : State) (g d a r f sx z c : Nat), z < 6 →
    Safety.LoadCompletes (.ld g d a r f sx z c)
      (askLanes (.ld g d a r f sx z c) (active s g) r (indexOf s false a (if sx = 1 then 32 else 0)) (dataBytes z) (c == 1) true false .read
        rcdRead (!dataSigned z)) z d f 0 (dataRegs z d ++ [a]) s ∧
    Safety.LoadCompletes (.ldsp g d a r f sx z c)
      (askLanes (.ldsp g d a r f sx z c) (active s g) r (indexOf s false a (if sx = 1 then 32 else 0)) (dataBytes z) (c == 1) false true
        .read rcdRead false) z d f 0 (dataRegs z d ++ [a]) s) ∧
  ∀ (s : State) (g d a r ord sc z f u cl disp : Nat), z < 6 →
    Safety.LoadCompletes (.ldo g d a r ord sc z f u cl disp)
      (askLanes (.ldo g d a r ord sc z f u cl disp) (active s g) r (indexOf s (u == 1) a (dispOf disp)) (dataBytes z) (cl == 1) true true
        .read (fun k => rcdRead k && scopeFits sc k) (!dataSigned z)) z d f sc (dataRegs z d ++ if u = 1 then [] else [a]) s) ∧
  ((∀ (s : State) (g d a r f sx z c : Nat),
    Safety.StoreCompletes (.st g d a r f sx z c)
      (askLanes (.st g d a r f sx z c) (active s g) r (indexOf s false a (if sx = 1 then 32 else 0)) (dataBytes z) (c == 1) true false
        .write rcdWrite false) z d f 0 (dataRegs z d ++ [a]) s ∧
    Safety.StoreCompletes (.stsp g d a r f sx z c)
      (askLanes (.stsp g d a r f sx z c) (active s g) r (indexOf s false a (if sx = 1 then 32 else 0)) (dataBytes z) (c == 1) false true
        .write rcdWrite false) z d f 0 (dataRegs z d ++ [a]) s) ∧
  ∀ (s : State) (g d a r ord sc z f u cl disp : Nat),
    Safety.StoreCompletes (.sto g d a r ord sc z f u cl disp)
      (askLanes (.sto g d a r ord sc z f u cl disp) (active s g) r (indexOf s (u == 1) a (dispOf disp)) (dataBytes z) (cl == 1) true true
        .write (fun k => rcdWrite k && scopeFits sc k) false) z d f sc (dataRegs z d ++ if u = 1 then [] else [a]) s)

/-- R164, R182: the elements of a store to pages that no paddock caches. Of each element that no later one overlaps, the bytes at its home
are the value's, least significant first; every byte outside the elements reads as before, under every key under which the pages are
written. -/
def Obligations.StoresChangeTheirBytesAlone : Prop :=
  ∀ (s : State) (n : Nat) (key : Option (BitVec 512)) (value : Nat → Nat) (ls : List Reach),
    (∀ l ∈ ls, l.dropped = false → leafHome l.leaf ≠ 2 ∧ leafMaterial s l.leaf = key) →
    let t := writeLanes n value ls s
    (∀ a, (∀ l ∈ ls, l.dropped = false → a < leafLoc l.leaf l.va ∨ leafLoc l.leaf l.va + n ≤ a) →
      memUnder t key a = memUnder s key a) ∧
    ∀ (before after : List Reach) (l : Reach), ls = before ++ l :: after → l.dropped = false →
      (∀ x ∈ after, x.dropped = false → leafLoc l.leaf l.va + n ≤ leafLoc x.leaf x.va ∨ leafLoc x.leaf x.va + n ≤ leafLoc l.leaf l.va) →
      ∀ k < n, memUnder t key (leafLoc l.leaf l.va + k) = BitVec.ofNat 8 (value l.t / 256 ^ k)

/-- R164, R181: a load of an element changes no byte of memory and no data of a line that is held, and outside paddocks it delivers the
bytes at the element's home, under the page's key. R171, R221: a store to a held line changes the line's bytes that it names and no other
byte of that or another line; a write-back line becomes dirty and memory keeps its bytes. R226: a load of a held combine-mode line folds
every core's partial into the line, in the order of the line's list of cores, word by word with the paddock's operator, a word that a core
never reduced as the identity; it resets the partials and delivers the folded bytes. -/
def Obligations.LoadsAndStoresReachTheirHome : Prop :=
  (∀ (s : State) (core : Option Nat) (x va n : Nat),
    let out := loadBytes core x va n s
    out.1.mem = s.mem ∧
    (leafHome x = 2 → padMode s (leafPad x) ≠ 2 → ∀ pad base l, findLine s pad base = some l →
      ∃ l', findLine out.1 pad base = some l' ∧ l'.data = l.data) ∧
    (leafHome x ≠ 2 → out.1 = s ∧ out.2.length = n ∧
      ∀ k < n, out.2.getD k 0 = memUnder s (leafMaterial s x) (leafLoc x va + k)) ∧
    ∀ l, let base := lineBase s (leafPad x) (leafLoc x va)
      leafHome x = 2 → padMode s (leafPad x) = 2 → findLine s (leafPad x) base = some l →
      ∃ l', findLine out.1 (leafPad x) base = some l' ∧ l'.partials = [] ∧ out.2 = (l'.data.drop (leafLoc x va - base)).take n ∧
        l'.data = l.partials.foldl
          (fun d e => foldPartial (padCombineOp s (leafPad x)) (padCombineFloat s (leafPad x)) d e.2) l.data) ∧
  (∀ (op : Nat) (float : Bool) (data : List Byte) (part : SMap Word) (k : Nat), 4 * k + 4 ≤ data.length →
    leNat (((foldPartial op float data part).drop (4 * k)).take 4) =
      combineOp op float (leNat ((data.drop (4 * k)).take 4)) (match smapFind part (4 * k) with
        | some w => w.toNat
        | none => if op = 0 then 0 else if float then (if op = 1 then 0x7F800000 else 0xFF800000)
          else if op = 1 then 0x7FFFFFFF else 0x80000000) % 2 ^ 32) ∧
  (∀ (s : State) (core : Option Nat) (x va : Nat) (d : List Byte) (l : Line),
    let pad := leafPad x
    let base := lineBase s pad (leafLoc x va)
    leafHome x = 2 → findLine s pad base = some l → leafLoc x va - base + d.length ≤ l.data.length →
    let t := storeBytes core x va d s
    (∃ l', findLine t pad base = some l' ∧ l'.data.length = l.data.length ∧
      ∀ k, l'.data.getD k 0 =
        if leafLoc x va - base ≤ k ∧ k < leafLoc x va - base + d.length then d.getD (k - (leafLoc x va - base)) 0 else l.data.getD k 0) ∧
    (∀ pad' base', (pad' ≠ pad ∨ base' ≠ base) → findLine t pad' base' = findLine s pad' base') ∧
    (padPolicy s pad = 0 → t.mem = s.mem ∧ ∃ l', findLine t pad base = some l' ∧ l'.dirty = true))

/-- R183: the new value of each atomic operation, on the old value x and the datum y, of 32 or 64 bits; c and e serve cas; the FP32 ones
have the values of fadd, fmin and fmax (R114, R115). R185, R186: atom, atomsp, atomo, red and redo complete, with the datum, the scope and
the destination that each form names. That the read-modify-writes are made in the issuing step, and their old values written at the
completion, is the model's choice (log entry 72). -/
def Obligations.AtomicsFollowTheirTableAndComplete : Prop :=
  (∀ (w o : Nat) (x y c e : BitVec w), w = 32 ∧ o < 15 ∨ w = 64 ∧ o < 12 →
    BitVec.ofNat w (atomicResult o w x.toNat y.toNat c.toNat e.toNat) = match o with
      | 0 => x + y
      | 1 => x &&& y
      | 2 => x ||| y
      | 3 => x ^^^ y
      | 4 => y
      | 5 => if y.ule x then 0 else x + 1
      | 6 => if x = 0 ∨ y.ult x then y else x - 1
      | 7 => if x = c then e else x
      | 8 => if x.ule y then x else y
      | 9 => if x.ule y then y else x
      | 10 => if y.slt x then y else x
      | 11 => if x.slt y then y else x
      | 12 => BitVec.ofNat w (faddCode fmtF32 x.toNat y.toNat).1
      | 13 => BitVec.ofNat w (fminmaxCode fmtF32 false x.toNat y.toNat)
      | _ => BitVec.ofNat w (fminmaxCode fmtF32 true x.toNat y.toNat)) ∧
  ((∀ (s : State) (g d a r f n o : Nat),
    Safety.AtomicCompletes (.atom g d a r f n o)
      (askLanes (.atom g d a r f n o) (active s g) r (indexOf s false a 0) 4 false true false .atomic grantsAtomic false) o 4 f 4 false false
      (fun s t => { b := (getV (cur s) t d).toNat, c := 0, d := 0 }) (if n = 1 then some d else none) [d, a] s ∧
    Safety.AtomicCompletes (.atomsp g d a r f n o)
      (askLanes (.atomsp g d a r f n o) (active s g) r (indexOf s false a 0) 4 false false true .atomic grantsAtomic false) o 4 f 2 false
      false (fun s t => { b := (getV (cur s) t d).toNat, c := 0, d := 0 }) (if n = 1 then some d else none) [d, a] s ∧
    Safety.ReductionCompletes (.red g d a r f o)
      (askLanes (.red g d a r f o) (active s g) r (indexOf s false a 0) 4 false true false .atomic grantsReduction false) o f 4 false
      (fun s t => (getV (cur s) t d).toNat) [d, a] s) ∧
  (∀ (s : State) (g d a r n o cc ord sc z f u cl disp : Nat),
    Safety.AtomicCompletes (.atomo g d a r n o cc ord sc z f u cl disp)
      (askLanes (.atomo g d a r n o cc ord sc z f u cl disp) (active s g) r (indexOf s (u == 1) a (dispOf disp)) (dataBytes z) (cl == 1)
        true true .atomic (fun k => grantsAtomic k && scopeFits sc k) false) o z f sc (ord % 2 == 1) (decide (2 ≤ ord))
      (if o = 7 then casOf z cc else datumOf z cc) (if n = 1 then some d else none)
      ((if n = 1 then dataRegs z d else []) ++ (if u = 1 then [] else [a]) ++ atomoRegs z o cc) s) ∧
  ∀ (s : State) (g a r o cc ord sc z f u cl disp : Nat),
    Safety.ReductionCompletes (.redo g a r o cc ord sc z f u cl disp)
      (askLanes (.redo g a r o cc ord sc z f u cl disp) (active s g) r (indexOf s (u == 1) a (dispOf disp)) (dataBytes z) (cl == 1) true
        false .atomic grantsReduction false) o f sc (ord == 2)
      (fun s t => (getV (cur s) t cc).toNat + if z = 5 then (getV (cur s) t (cc + 1)).toNat * 2 ^ 32 else 0)
      ((if u = 1 then [] else [a]) ++ dataRegs z cc) s)

/-- R165: what a full-empty request finds. A load is served from a full word and finds an empty one wanting; taking leaves it empty; a store
fills an empty word with its datum and finds a full one wanting. A request that cannot be served waits at its word in order of arrival while
its slice has a token, and returns to its core where it has none. R370: a request that meets a poisoned word, or one whose check value
fails, is not performed: its flock takes poison. R215: a request before which an access of its thread is unserved that is kept before it is
held at its core, and so is one behind a request of a lower thread of its instruction to its word. R187, R188, R261: ldfe and stfe issue,
where fewer than four of their flock are outstanding, and send one request for each element in ascending thread order; the strict form fills
every word or traps, and is held as another store is while earlier accesses keep it waiting (log entry 13). That the requests are sent, and
the strict form's words filled, in the issuing step is the model's choice (log entry 72). -/
def Obligations.FullEmptyRequestsAndInstructionsComplete : Prop :=
  (∀ (s : State) (r : FeReq),
    let full := s.feFull.contains (r.loc / 4)
    let good := feBad r s = false
    (¬ good → feTry r s = some (fePoison r (feVerify r.loc s))) ∧
    (good → r.kind = 0 → full = true → ∃ t, feTry r s = some t ∧ t.feFull = s.feFull ∧ t.mem = s.mem) ∧
    (good → r.kind = 1 → full = true → ∃ t, feTry r s = some t ∧ t.feFull.contains (r.loc / 4) = false ∧ t.mem = s.mem) ∧
    (good → r.kind < 2 → full = false → feTry r s = none) ∧
    (good → 2 ≤ r.kind → full = true → feTry r s = none) ∧
    (good → 2 ≤ r.kind → full = false → ∃ t, feTry r s = some t ∧ t.feFull.contains (r.loc / 4) = true ∧
      (∀ k < 4, memUnder t none (r.loc + k) = BitVec.ofNat 8 (r.data.toNat / 256 ^ k)) ∧
      ∀ a, a < r.loc ∨ r.loc + 4 ≤ a → memUnder t none a = memUnder s none a) ∧
    (feTry r s = none → (s.feQueue.countP fun x => homeSlice x.loc == homeSlice r.loc) < 1024 →
      feArrive r s = { s with feQueue := s.feQueue ++ [r] }) ∧
    (feTry r s = none → 1024 ≤ (s.feQueue.countP fun x => homeSlice x.loc == homeSlice r.loc) →
      feArrive r s = { s with feRetry := s.feRetry ++ [r] }) ∧
    let mine := openOps s r.core r.slot
    let waits : Prop :=
      (r.thread < 32 ∧ ∃ e ∈ mine, e.uid < r.uid ∧ inMask e.mask r.thread = true ∧
        (keeps e.op (feAsOp r).op = true ∨ touches e (feAsOp r) r.thread = true)) ∨
      ∃ x ∈ s.feRetry, x.uid = r.uid ∧ x.loc = r.loc ∧ x.thread < r.thread
    ((∃ x ∈ s.feQueue ++ s.feRetry, x.core = r.core ∧ x.slot = r.slot ∧ x.thread = r.thread ∧ x.uid < r.uid) →
      r.thread < 32 → waits) ∧
    (waits → feSend r s = { s with feRetry := s.feRetry ++ [r] }) ∧ (¬ waits → feSend r s = feArrive r s)) ∧
  (∀ (s : State) (g d a r f t c : Nat), t < 2 → 4 ≤ (cur s).pending.countP (·.fe.isSome) →
    ∀ i ∈ [Instr.ldfe g d a r f t c, Instr.stfe g d a r f t c], Safety.Passes i (active s g) f [d, a] s →
      exec i s = .next (waitFor .issue s)) ∧
  (∀ (s s1 : State) (g d a r f t c : Nat) (ls : List Reach), t < 2 → (cur s).pending.countP (·.fe.isSome) < 4 →
    (let i := Instr.ldfe g d a r f t c
     let q := { askLanes i (active s g) r (indexOf s false a 0) 4 (c == 1) true false (if t = 1 then .atomic else .read)
       (if t = 1 then fun k => rcdRead k && rcdAtomic k else rcdRead) false with fullEmpty := true }
     Safety.Idles i q.m [d, a] s ∧ (Safety.Passes i q.m f [d, a] s → checkLanes q s = (s1, .ok ls) →
     Safety.Ordered s1 4 true false true ls → poisonTrap q (verifyLanes q ls s1) ls = none →
     let s2 := Safety.noted s1 4 true false true ls (verifyLanes q ls s1)
     ∃ p, p.fe.isSome = true ∧ p.units = laneUnits ls ∧ p.vw = ((ls.filter (·.dropped)).map fun l => (vKey d l.t, 0)) ∧
       exec i s = .next (advance 1 ((ls.filter fun l => !l.dropped).foldl (fun x l => feSend
         { uid := (verifyLanes q ls s1).fresh, loc := leafLoc l.leaf l.va, va := l.va, core := s1.core, slot := s1.slot, thread := l.t, kind := t,
           data := getV (cur (verifyLanes q ls s1)) l.t d } x) (issueLong f p s2))))) ∧
    (let i := Instr.stfe g d a r f t c
     let q := { askLanes i (active s g) r (indexOf s false a 0) 4 (c == 1) true false .write rcdWrite false with fullEmpty := true }
     Safety.Idles i q.m [d, a] s ∧ (Safety.Passes i q.m f [d, a] s → checkLanes q s = (s1, .ok ls) →
     Safety.Ordered s1 4 false true true ls → poisonTrap q (verifyLanes q ls s1) ls = none →
     let s2 := Safety.noted s1 4 false true true ls (verifyLanes q ls s1)
     (t = 0 → ∃ p, p.fe.isSome = true ∧ p.units = laneUnits ls ∧ p.vw = [] ∧
       exec i s = .next (advance 1 ((ls.filter fun l => !l.dropped).foldl (fun x l => feSend
         { uid := (verifyLanes q ls s1).fresh, loc := leafLoc l.leaf l.va, va := l.va, core := s1.core, slot := s1.slot, thread := l.t, kind := 2,
           data := getV (cur (verifyLanes q ls s1)) l.t d } x) (issueLong f p s2)))) ∧
     (t = 1 → ¬ Safety.InOrder q stfeAct ls s1 → exec i s = .next (holdBack i f (askOp q stfeAct ls s1) s1)) ∧
     (t = 1 → Safety.InOrder q stfeAct ls s1 → strictBad (verifyLanes q ls s1) ls = none →
       let live := ls.filter fun l => !l.dropped
       let filled := clearCovered (lanePlaces 4 ls)
         (live.foldl (fun x l => feFill (leafLoc l.leaf l.va) (getV (cur x) l.t d) x) s2)
       exec i s = .next (Safety.issued i f { noPending with fe := some noFe, units := laneUnits ls }
         (live.foldl (fun x l => feServe x.feQueue.length (leafLoc l.leaf l.va) x) filled))))))

/-- R126, R190: ldb makes a buffer record of the 32 bytes it reads, and cbload fills its slot with the 16 entries it reads, before the
flock's next instruction; an element at or beyond the record's inner extent is out of bounds. R189, R191 to R193: fence, cache, prefetch and
tick complete. A fence only moves its path on; while an access of its path that it keeps is not performed it stands before every later one
of the path. ldb and cache are held while earlier accesses keep them waiting; cbload, before which R126 lets nothing of its flock issue,
waits at issue (log entry 13); tick adds to the core's program timestamp modulo 2^16. R48: ldb, cache and prefetch with no active thread
only move on. That ldb, cache and prefetch make their accesses in the issuing step is the model's choice (log entry 72). -/
def Obligations.RecordLoadsFencesAndMaintenanceComplete : Prop :=
  (∀ (q : Ask) (r part t : Nat), q.late = true → (rcdInner r : Int) ≤ q.idx t + part → (laneOf q r part t).dropped = true) ∧
  ((∀ (s s1 : State) (g d sx r f : Nat) (ls : List Reach),
    let i := Instr.ldb g d sx r f
    let q := { askRange i (active s g) r 4 (getS (cur s) sx).toNat 8 .read rcdRead with formats := some [0, 4], align := 32 }
    Safety.Idles i (active s g) [] s ∧ (Safety.Passes i (active s g) f [] s → checkLanes q s = (s1, .ok ls) →
      Safety.HeldBack i q f (loadAct false) ls s s1 ∧
      (Safety.InOrder q (loadAct false) ls s1 → poisonTrap q (verifyLanes q ls s1) ls = none →
      let out := readRange q ls (verifyLanes q ls s1)
      exec i s = .next (Safety.issued i f { noPending with bw := some (d, BitVec.ofNat 256 (leNat out.2)), units := laneUnits ls } out.1)))) ∧
  ∀ (s s1 : State) (g sx r b : Nat) (ls : List Reach),
    let i := Instr.cbload g sx r b
    let q := { askRange i (active s g) b 16 (getS (cur s) r).toNat 2 .read rcdRead with formats := some [0, 6], late := true }
    Safety.Idles i (active s g) [] s ∧ (Safety.Accepts i [] s → active s g ≠ 0 → checkLanes q s = (s1, .ok ls) →
    (keptBehind s1 (askOp q (loadAct false) ls s1) = true → exec i s = .next (waitFor .issue s1)) ∧
    (keptBehind s1 (askOp q (loadAct false) ls s1) = false → poisonTrap q (verifyLanes q ls s1) ls = none →
    let out := readRange q ls (verifyLanes q ls s1)
    ∃ fill, exec i s = .next (advance 1 (updWg (cur out.1).launch (cur out.1).wg fill out.1)) ∧
      ∀ w, fill w = { w with cb := (fill w).cb } ∧
        ∀ slot k, k < 16 → smapGet 0 (fill w).cb (16 * slot + k) =
          if slot = sx then BitVec.ofNat 16 (leNat ((out.2.drop (2 * k)).take 2)) else smapGet 0 w.cb (16 * slot + k)))) ∧
  ((∀ (s : State) (sx o : Nat), 1 ≤ sx → sx < 6 → 1 ≤ o → o < 4 →
    let l := fenceOp s o (liveMask (cur s) (curPath s))
    (keptBehind s l = false → exec (.fence sx o) s = .next (advance 1 s)) ∧
    (keptBehind s l = true → ∃ x : Held, exec (.fence sx o) s = .next (advance 1 { s with held := s.held ++ [x], fresh := s.fresh + 1 }) ∧
      x.what = l ∧ x.core = s.core ∧ x.slot = s.slot)) ∧
  (∀ (s : State) (g n sx r f o : Nat), Safety.Idles (.cache g n sx r f o) (active s g) [] s ∧
    Safety.Idles (.prefetch g n sx r f o) (active s g) [] s) ∧
  (∀ (s s1 : State) (g n sx r f o : Nat) (ls : List Reach), 1 ≤ o → o < 4 → active s g ≠ 0 → flagFull s f = false →
    checkLanes (askMaintain (.cache g n sx r f o) (active s g) s n sx r) s = (s1, .ok ls) →
    let l := flockOp s1 maintainAct (active s g)
    (s1.performing = false → keptBehind s1 l = true →
      exec (.cache g n sx r f o) s = .next (holdBack (.cache g n sx r f o) f l s1)) ∧
    (s1.performing = true ∨ keptBehind s1 l = false → exec (.cache g n sx r f o) s =
      .next (Safety.issued (.cache g n sx r f o) f { noPending with units := laneUnits ls } ((lanePads s1 ls).foldl (maintainLine o) s1)))) ∧
  (∀ (s : State) (g n sx r f o : Nat), o < 2 → active s g ≠ 0 → flagFull s f = false →
    let k := (getB (cur s) r).toNat
    ∃ vas : List Nat, exec (.prefetch g n sx r f o) s =
        .next (Safety.issued (.prefetch g n sx r f o) f { noPending with units := vas.foldl (fun u va => setInsert u (va / 65536)) [] }
          (vas.foldl (prefetchOne o (curAgent s)) s)) ∧
      ∀ va ∈ vas, rcdRead k = true ∧ ∃ e < (getS (cur s) n).toNat, ∃ p,
        placeOf k ((getS (cur s) sx).toNat + e : Nat) = some p ∧ va = rcdBase k + p.1) ∧
  ∀ (s : State) (g a u : Nat), ∃ t, exec (.tick g a u) s = .next (advance 1 t) ∧ (active s g = 0 → t = s) ∧
    (active s g ≠ 0 → (coreAt t s.core).pts =
        (coreAt s s.core).pts + BitVec.ofNat 16 (if u = 1 then (getS (cur s) a).toNat % 16384 else a) ∧
      (∀ c, c ≠ s.core → coreAt t c = coreAt s c) ∧ cur t = cur s ∧ t.mem = s.mem))

/-! ### Frames -/

/-- R59, R62, R93, R100, R101: an instruction on registers alone traps, or it changes v, s and p registers and the status of its flock and
moves its path on. Where its path is not swapped out, memory, every line, every other flock and the rest of its core and of the device are
as they were. -/
def Obligations.RegisterInstructionsKeepTheRest : Prop :=
  ∀ (i : Instr) (regs : List Nat) (s : State), Safety.registersNamed i = some regs →
    (∃ r, exec i s = .next (takeTrap r s)) ∨
    ∃ g, Safety.SameElse (cur s) g ∧
      let t := advance (encode i).length (setCur g s)
      exec i s = .next t ∧ ((curPath s).hint = false ∨ (cur s).stack = [] →
        t = { s with cores := t.cores } ∧ (∀ c, coreAt t c = { coreAt s c with flocks := (coreAt t c).flocks }) ∧
        ∀ c f, (c ≠ s.core ∨ f ≠ s.slot) → flockAt t c f = flockAt s c f)

/-- R55, R62: an instruction on registers alone whose form is assigned and that names v registers at or above the flock's allocation raises
register-budget (0x05) for the first of them, with no other effect. That the first is the first in the order of its fields is the model's
reading of R62 (log entry 79). -/
def Obligations.RegistersBeyondTheAllocationTrap : Prop :=
  ∀ (i : Instr) (before after : List Nat) (n : Nat) (s : State), Safety.registersNamed i = some (before ++ n :: after) →
    legalForm i = true → (∀ k ∈ before, k < (cur s).budget) → (cur s).budget ≤ n →
    ∃ m, exec i s = .next (takeTrap (trapRec s 0x05 m [(0, 1, n), (1, 1, (cur s).budget), (2, 1, 0)]) s)

/-! ### Matrix instructions -/

/-- R137 to R139, R147: tiles are taken, zeroed, freed and given a region; a tile that another flock holds or a partial fills is waited for.
acc.zero and region wait at issue for the held instructions of the flock on the tile (log entry 13). A release publishes the tile where its
core is not its region's normaliser, and keeps its segments. -/
def Obligations.TilesChangeHands : Prop :=
  (∀ (s : State) (g t : Nat), active s g ≠ 0 →
    (Safety.CanTake t s →
      let u := Safety.took t s
      let y := tileAt u s.core t
      let behind := keptBehind u (tileUse u (active s g) t)
      holds y s.slot = true ∧ exec (.accTake g t) s = .next (advance 1 u) ∧
      (behind = true → exec (.accZero g t) s = .next (waitFor .issue u)) ∧
      (behind = false → exec (.accZero g t) s = .next (advance 1 (setTile s.core t
        { y with segs := [], ctl := tileCtl false false (tileNarrow y) (tileRegion y) (tileHolder y) true } u))) ∧
      ∀ sx, let d := (getS (cur s) sx).toNat
        d < 32 → d % 4 ≠ 3 → regionFits (curLaunch s) s.core d = true →
        (behind = true → exec (.region g t sx) s = .next (waitFor .issue u)) ∧
        (behind = false → exec (.region g t sx) s = .next (advance 1 (setTile s.core t
          { y with ctl := tileCtl false false (tileNarrow y) d (tileHolder y) true } u)))) ∧
    (¬ Safety.CanTake t s → s.performing = false → exec (.accTake g t) s = .next (blockAt .tile s)) ∧
    let x := tileAt s s.core t
    exec (.accFree g t) s = .next (advance 1 (if holds x s.slot then
      due (.tileReleaseEffective s.core t) (setTile s.core t { x with releasing := true } s) else s))) ∧
  ∀ (s : State) (core t : Nat), let x := tileAt s core t
    x.releasing = true → (∀ p ∈ (flockAt s core (tileHolder x)).pending, p.tile ≠ some t) →
    ∃ u, exec (.tileReleaseEffective core t) s = .next u ∧
      let y := tileAt u core t
      tileHeld y = false ∧ y.releasing = false ∧ tileRegion y = tileRegion x ∧ y.segs = x.segs ∧ y.last = x.last ∧
      tilePublished y = !isNormaliser (launchOf s (x.last.getD 0)) core (tileRegion x) ∧
      ∀ c k, (c ≠ core ∨ k ≠ t) → tileAt u c k = tileAt s c k

/-- R94, R95: an addition to an element of a segment that leaves the element finite and sets no sticky bit is exact: the element's value
grows by the value added, and no other element of its segment loses or gains value but by bits that its sticky bit tells of. -/
def Obligations.AccumulationIsExactUnlessSticky : Prop :=
  ∀ (narrow : Bool) (g : Seg) (j : Nat) (neg : Bool) (m : Nat) (k : Int), g.norm = false → j < g.els.length →
    let r := (accAdd narrow g j (.fin neg m k)).1
    let real (g : Seg) (n : Nat) : Rat := ((g.els.getD n elemZero).sig : Rat) * (2 : Rat) ^ (g.e - accOffset narrow)
    (g.els.getD j elemZero).special = 0 → (r.els.getD j elemZero).sticky = false →
    real r j = real g j + Safety.value (.fin neg m k) ∧
    ∀ n, n ≠ j → (r.els.getD n elemZero).sticky = false → real r n = real g n

/-- R140, R143, R151: mma and mma.sp on an operand B that is ready, on a tile that the flock holds or can claim: each row 4t+i of an active
thread gains the products of A's elements with the rows of B that they meet, and the instruction's completion counts its flag. R141: on a
handle that is filling each claims its tile and waits at issue. R48: with no active thread each only moves on. R141, R142, R187: one that an
earlier access or matrix instruction of its flock, or an earlier product of the core's matrix unit, keeps waiting claims its tile, issues
with its reuse latch, and is held (log entry 13). -/
def Obligations.MatrixProductsComplete : Prop :=
  (∀ (s : State) (g ti a b ru src cc fm f bfmt slot : Nat) (code scale : Nat → Nat → Nat),
    let i := Instr.mma g ti a b ru src cc fm f
    let m := active s g
    let regs := aRegs fm a cc
    let u := Safety.took ti s
    let use := matrixUse u m ti fm src b (depthOf fm)
    Safety.Idles i m regs s ∧
    (Safety.Passes i m f regs s → src = 0 → (handleAt s s.core b).st = .filling → Safety.CanTake ti s → exec i s = .next (waitFor .issue u)) ∧
    (Safety.Passes i m f regs s → readB s m fm src b (depthOf fm) = .ok bfmt code scale slot → Safety.CanTake ti s →
      s.performing = false → keptBehind u use = true → exec i s = .next (setLatch ru a (if fm = 5 ∨ fm = 6 then [cc] else []) (holdBack i f use u))) ∧
    (Safety.Passes i m f regs s → readB s m fm src b (depthOf fm) = .ok bfmt code scale slot → Safety.CanTake ti s →
      s.performing = true ∨ keptBehind u use = false →
      let terms (t r : Nat) : List RowTerm := (List.range (depthOf fm)).map fun k =>
        (aValue u (aFormat fm bfmt) fm a cc t r k, fun n => some (codeValue bfmt (code k n) (scale k n) (bookOf (curWg u) slot)))
      exec i s = .next (Safety.issued i f { noPending with tile := some ti, product := true }
        (setLatch ru a (if fm = 5 ∨ fm = 6 then [cc] else []) (addRows ti m terms u))))) ∧
  ∀ (s : State) (g ti a b ru pat src cc fm f bfmt slot : Nat) (code scale : Nat → Nat → Nat),
    let i := Instr.mmaSp g ti a b ru pat src cc fm f
    let m := active s g
    let pn := if pat = 1 then 4 else 2
    let pm := if pat = 0 then 4 else 8
    let regs := aRegs fm a cc ++ (List.range 8).map (cc + ·)
    let u := Safety.took ti s
    let use := matrixUse u m ti fm src b (depthOf fm * pm / pn)
    Safety.Idles i m regs s ∧
    (Safety.Passes i m f regs s → src = 0 → (handleAt s s.core b).st = .filling → Safety.CanTake ti s → exec i s = .next (waitFor .issue u)) ∧
    (Safety.Passes i m f regs s → readB s m fm src b (depthOf fm * pm / pn) = .ok bfmt code scale slot → Safety.CanTake ti s →
      s.performing = false → keptBehind u use = true → exec i s = .next (setLatch ru a ((List.range 8).map (cc + ·)) (holdBack i f use u))) ∧
    (Safety.Passes i m f regs s → readB s m fm src b (depthOf fm * pm / pn) = .ok bfmt code scale slot → Safety.CanTake ti s →
      s.performing = true ∨ keptBehind u use = false →
      let nibble (t r j : Nat) : Nat := (getV (cur u) t (cc + 2 * r + j / 8)).toNat / 16 ^ (j % 8) % 16
      let terms (t r : Nat) : List RowTerm := (List.range (depthOf fm)).map fun j =>
        let k := j / pn * pm + nibble t r j % pm
        (aValue u (aFormat fm bfmt) fm a cc t r j, fun n => some (codeValue bfmt (code k n) (scale k n) (bookOf (curWg u) slot)))
      exec i s = .next (Safety.issued i f { noPending with tile := some ti, product := true }
        (setLatch ru a ((List.range 8).map (cc + ·)) (addRows ti m terms u))))

/-- R152 to R154: mma.dec adds the terms and the residual of B's stored entries, and writes their counts; where entries are dropped beyond
the bound it raises decomposition (0x1D), with the counts and the sum in the record. Since R155 has its checks decided before the flock's
next instruction issues, it waits at issue for what its read of B comes after (log entry 13). -/
def Obligations.TermDecompositionCompletesOrTraps : Prop :=
  ∀ (s : State) (g ti a b ru pat src cc lossy fm f : Nat) (byte : Nat → Nat) (marked : List (Nat × Nat)),
    let i := Instr.mmaDec g ti a b ru pat src cc lossy fm f
    let m := active s g
    let rows := depthOf fm
    let fmt := compressFmt fm
    let w := fmt.ebits + fmt.mbits + 1
    let use := { flockOp s mmaAct m with tile := some ti }
    let behind := waits (openOps s s.core s.slot) use
    Safety.Passes i m f (aRegs fm a 0) s → (behind = true → exec i s = .next (waitFor .issue s)) ∧
    (behind = false → readRaw s m src b rows w = .ok (byte, marked) →
    let stored := storedEntries (fun q => byte (rows * 16 + q * (w / 8)) + if w = 16 then 256 * byte (rows * 16 + q * (w / 8) + 1) else 0)
      marked
    let all := stored.filter fun e => e.code % signWeight fmt != 0
    let parts := decompose fmt (patternN pat) (patternM pat) rows (min ((getS (cur s) (cc + 1)).toNat % 8) 4) (lossy == 1) all
    let bound := (getS (cur s) cc).toNat
    (parts.2.2 = [] ∨ boundHolds fmt bound all parts.2.2 = true → Safety.CanTake ti s →
      let u := Safety.took ti s
      ∃ terms : Nat → Nat → List RowTerm,
        (∀ t r, terms t r =
          (parts.1.flatMap fun es => (List.range rows).map fun k => (aValue u (aFormat fm 0) fm a 0 t r k, fun n =>
            (es.find? fun e => e.k == k && e.n == n).map fun e => fdecode fmt e.code)) ++
          parts.2.1.map fun e => (aValue u (aFormat fm 0) fm a 0 t r e.k, fun n => if n = e.n then some (fdecode fmt e.code) else none)) ∧
        exec i s = .next (Safety.issued i f
          { noPending with tile := some ti, product := true, sw := [(cc + 2, BitVec.ofNat 32 parts.1.length),
              (cc + 3, BitVec.ofNat 32 (parts.2.2.length * 65536 + parts.2.1.length))] }
          (setLatch ru a [64 + cc, 64 + cc + 1] (addRows ti m terms u)))) ∧
    (parts.2.2 ≠ [] → boundHolds fmt bound all parts.2.2 = false →
      exec i s = .next (takeTrap (trapRec s 0x1D m [(0, 1, parts.1.length), (2, 2, parts.2.2.length),
        (4, 4, droppedSum fmt parts.2.2), (8, 4, bound)]) s)))

/-- R98, R146, R148: acc.rd of a region tile (a tile whose descriptor is not 0, log entry 79) merges the partials of its region once they
have all arrived, normalises the rows of the active threads, and delivers the FP32 codes of four columns of each; behind a held matrix
instruction of its flock on the tile it is held (log entry 13). R150: compress keeps, of each group of M elements, the N of largest
magnitude, the lower places first among equals, in ascending place; it completes with their codes and places under the masks of their
fields. -/
def Obligations.AccumulatorReadsAndCompressComplete : Prop :=
  (∀ (s : State) (g d t f c : Nat),
    let i := Instr.accRd g d t f c
    let m := active s g
    Safety.Passes i m f ((List.range 16).map (d + ·)) s → Safety.CanTake t s →
    let u := Safety.took t s
    let x := tileAt u s.core t
    let merges : Bool := decide (tileRegion x ≠ 0) && isNormaliser (curLaunch u) s.core (tileRegion x) && !tileMerged x
    (merges = true → ∀ k ∈ partialCores (curLaunch u) s.core (tileRegion x), qualifies u (curLaunch u) (tileRegion x) t k = true) →
    (s.performing = false → keptBehind u (tileUse u m t) = true → exec i s = .next (holdBack i f (tileUse u m t) u)) ∧
    (s.performing = true ∨ keptBehind u (tileUse u m t) = false →
    let v := if merges then mergeRegion t u else u
    let out := normaliseRows m (c / 4) (tileAt v s.core t)
    exec i s = .next (Safety.issued i f
      { noPending with
        tile := some t
        vw := (threadsOf m).flatMap fun th => (List.range 4).flatMap fun i => (List.range 4).map fun j =>
          (vKey (d + 4 * i + j) th,
            BitVec.ofNat 32 (heldF32 ((segOf out.1 (8 * (4 * th + i) + c / 4)).els.getD ((4 * c + j) % 16) elemZero))) }
      (raise out.2 (setTile v.core t out.1 v))))) ∧
  ((∀ (mag : Nat → Nat) (n m groups g : Nat), n ≤ m → g < groups →
    let kept := (keptOf mag n m groups).filter fun x => x / m == g
    kept.length = n ∧ kept.Pairwise (· < ·) ∧
    ∀ x ∈ kept, ∀ y, y / m = g → y ∉ kept → mag y < mag x ∨ (mag y = mag x ∧ x < y)) ∧
  ∀ (s : State) (g d a mt k mlo p x : Nat),
    let i := Instr.compress g d a mt k mlo p x
    let f := compressFmt x
    let w := f.ebits + f.mbits + 1
    let e := 32 / w
    let first := 2 * (2 * mt + mlo)
    let count := 8 * e * patternN p / patternM p
    let o := d % 4 * e
    Safety.Passes i (active s g) k ((List.range (count / e)).map (d + ·) ++ (List.range 8).map (a + ·) ++
      (List.range ((o + count - 1) / 8 + 1 - o / 8)).map (first + o / 8 + ·)) s →
    exec i s = .next (Safety.issued i k
      { noPending with
        vm := (threadsOf (active s g)).flatMap fun t =>
          let code (j : Nat) : Nat := (getV (cur s) t (a + j / e)).toNat / 2 ^ (w * (j % e)) % 2 ^ w
          (keptOf (fun j => magOf f (code j)) (patternN p) (patternM p) (8 * e / patternM p)).zipIdx.flatMap fun j =>
            [(vKey (d + j.2 / e) t, BitVec.ofNat 32 ((2 ^ w - 1) * 2 ^ (w * (j.2 % e))),
               BitVec.ofNat 32 (code j.1 * 2 ^ (w * (j.2 % e)))),
             (vKey (first + (o + j.2) / 8) t, BitVec.ofNat 32 (15 * 16 ^ ((o + j.2) % 8)),
               BitVec.ofNat 32 (j.1 % patternM p * 16 ^ ((o + j.2) % 8)))] } s))

/-! ### Copies -/

/-- R194, R196 to R203: the copy instructions complete: a copy in, a copy out, rows gathered and scattered, a slice of a collective copy, a
multicast and a reduction among cores. R48: with no active thread each only moves on. R200, R215: each keeps, for its engine to wait on, the
earlier unperformed accesses of its threads that are kept before it, and the held matrix instructions of its flock that read window bytes
which it writes (R216); the engine of a copy that still waits moves nothing (log entry 13). -/
def Obligations.CopiesAreAccepted : Prop :=
  (∀ (s : State) (g h sx m f p : Nat), let idx : Int := (getS (cur s) sx).toNat
    Safety.CopyAccepted (.cp g h sx m f p) (active s g) f h m p false 4 (blockWho (active s g) idx) false false false (wholeBlock s m p idx) []
      false s ∧
    Safety.SliceSupplied (.cpColl g h sx m f p) (active s g) f h m p idx false [] false s ∧
    Safety.MulticastSent (.mcast g h sx m f p) (active s g) f h m p 4 idx false (maskCores s (2 ^ 64 - 1)) [] false s) ∧
  (∀ (s : State) (g h a m f c p : Nat),
    let rows := (threadsOf (active s g)).map fun t => (getV (cur s) t a).toNat
    let r := (getB (cur s) m).toNat
    let q := (getB (cur s) p).toNat
    Safety.CopyAccepted (.gather g h a m f c p) (active s g) f h m p false 4 (rowWho (active s g) rows) (c == 1) (rcdInner r != rcdInner q)
      (decide (rcdOuter q < rows.length)) (rowPairing r q (c == 1) rows) [a] false s ∧
    Safety.CopyAccepted (.scatter g h a m f c p) (active s g) f h m p true 4 (rowWho (active s g) rows) (c == 1) (rcdInner r != rcdInner q)
      (decide (rcdOuter q < rows.length)) (rowPairing r q (c == 1) rows) [a] false s) ∧
  (∀ (s : State) (g h a m k p cc ord sc f u cl disp : Nat), k < 4 →
    let i := Instr.cpx g h a m k p cc ord sc f u cl disp
    let regs := if u = 1 then [] else [a]
    let idx := indexOf s (u == 1) a (dispOf disp) ((lowest (active s g)).getD 0)
    (k < 2 → Safety.CopyAccepted i (active s g) f h m p (k == 1) sc (blockWho (active s g) idx) (cl == 1) false false (wholeBlock s m p idx) regs
      (ord != 0) s) ∧
    (k = 2 → Safety.MulticastSent i (active s g) f h m p sc idx (cl == 1)
      (maskCores s ((getS (cur s) cc).toNat + (getS (cur s) (cc + 1)).toNat * 2 ^ 32)) regs (ord != 0) s) ∧
    (k = 3 → Safety.SliceSupplied i (active s g) f h m p idx (cl == 1) regs (ord != 0) s)) ∧
  ∀ (s : State) (g h sx p f o : Nat),
    let i := Instr.coll g h sx p f o
    let recs := collRecords s sx p
    Safety.Idles i (active s g) [] s ∧
    (Safety.Passes i (active s g) f [] s → collTrap s (active s g) recs = none → handleFree s h = true →
    ∃ (t : State) (q : CollReq), exec i s = .next t ∧ (handleAt t s.core h).st = .filling ∧ (handleAt t s.core h).coll = some q ∧
      (handleAt t s.core h).after = copyAfter s false true (active s g) (q.offs.map fun o => (o, 4)) ∧
      q.op = o ∧ q.own = q.cores.contains s.core ∧
      q.offs = (recs.flatMap fun n => (List.range (rcdInner (getB (cur s) n).toNat * rcdOuter (getB (cur s) n).toNat)).map fun (e : Nat) =>
        rcdBase (getB (cur s) n).toNat + ((placeOf (getB (cur s) n).toNat (e : Int)).getD (0, 0)).1) ∧
      q.cores = maskCores s ((getS (cur s) sx).toNat + (getS (cur s) (sx + 1)).toNat * 2 ^ 32) ∧
      .copyLastByteLanded s.core h ∈ t.todo ∧ t.mem = (Safety.issued i f noPending s).mem)

/-- R194, R195, R205: cpwait goes on where its handle is in the state that it names, and raises copy-fault (0x1B), with the handle, the
cause and the address in its record, where the handle is faulted; cpfree frees a handle of its workgroup that no transfer holds and no held
matrix instruction of its core has yet to read (log entry 13), and waits for it else. R67, R68, R206: hstat reads the handle's state code,
its fault bit and its cause on stepping 2, in an object made for it, and raises experimental-stepping (0x03) otherwise. R194, R200, R202:
the engine's events: a copy whose elements have all moved ends its handle's transfer; one whose page fails leaves the fault, its cause and
its address in the handle; a multicast that has been read lands where its launch has a resident workgroup and its handle is free. A transfer
that ends leaves a filling handle full and a draining one free. -/
def Obligations.HandlesAndTransfersComplete : Prop :=
  (∀ (s : State) (g h : Nat), active s g ≠ 0 →
    let x := handleAt s s.core h
    (∀ w, foreignHandle s h = false → x.st = (if w = 0 then .full else .free) → x.fault = false →
      exec (.cpwait g h w) s = .next (advance 1 s)) ∧
    (∀ w, foreignHandle s h = false → x.st = (if w = 0 then .full else .free) → x.fault = true →
      ∃ r, exec (.cpwait g h w) s = .next (takeTrap r s) ∧ r.cause = 0x1B ∧ r.handle = h ∧ r.hcause = x.cause ∧ r.va = x.failVa ∧
        r.mask = active s g ∧ r.pc = (curPath s).pc) ∧
    (∀ w, (foreignHandle s h = true ∨ x.st ≠ (if w = 0 then .full else .free)) → exec (.cpwait g h w) s = .next (blockAt .handle s)) ∧
    (foreignHandle s h = true ∨ x.st = .filling ∨ x.st = .draining ∨ matrixReads s h = true → exec (.cpfree g h) s = .next (blockAt .handle s)) ∧
    (foreignHandle s h = false → (x.st = .free ∨ x.st = .full) → matrixReads s h = false →
      ∃ u, exec (.cpfree g h) s = .next (advance 1 u) ∧
        handleAt u s.core h = { x with st := .free, fault := false, cause := 0, failVa := 0 } ∧
        (∀ c k, (c ≠ s.core ∨ k ≠ h) → handleAt u c k = handleAt s c k) ∧ cur u = cur s ∧ u.mem = s.mem) ∧
    ∀ d, (s.mgmt.stepping = 2 → (curObj s).stepping = 2 →
        Safety.Computes (.hstat g d h) s (active s g) (.s d)
          (fun _ => BitVec.ofNat 32 (x.st.code + if x.fault then 4 + 256 * x.cause else 0)) (fun _ => 0)) ∧
      ((s.mgmt.stepping ≠ 2 ∨ (curObj s).stepping ≠ 2) → ∃ r, r.cause = 0x03 ∧ exec (.hstat g d h) s = .next (takeTrap r s))) ∧
  ((∀ (s u : State) (c h : Nat) (j : CopyJob), (handleAt s c h).coll = none → jobRuns s c h = some j →
    (runCopy c h j s = (u, .ended) → exec (.copyLastByteLanded c h) s = .next (handleLands c h u)) ∧
    ∀ cause va, runCopy c h j s = (u, .fails cause va) →
      exec (.copyLastByteLanded c h) s = .next (due (.copyPageFailure c h) u) ∧
      exec (.copyPageFailure c h) s = .next (settleHandle c h true cause va u)) ∧
  (∀ (s : State) (uid core : Nat) (m : Mcast) (w : Wg), s.mcasts.find? (fun m => m.uid == uid && m.cores.contains core) = some m →
    m.job = none → lowestResident s m.launch core = some w → (handleAt s core m.handle).st = .free →
    exec (.mcastDelivery uid core) s = .next (mcastLand m core w s)) ∧
  ∀ (s : State) (c h cause va : Nat) (fault : Bool),
    let x := handleAt s c h
    handleAt (settleHandle c h fault cause va s) c h =
      { x with st := if x.st = .draining then .free else .full, fault := fault, cause := cause, failVa := va, job := none, coll := none,
               slices := [], after := [] } ∧
    (x.coll = none → afterDone s x.after = false → exec (.copyLastByteLanded c h) s = .next s) ∧
    handleLands c h s = settleHandle c h false 0 0 s)

/-- R169, R173, R207: a definition record read by a privileged flock is applied: its status is written where it is refused, and otherwise
the resize begins and the completion waits for its end; a flock that is not privileged takes the privilege trap (0x04). R215: earlier
accesses that are kept before its read of the record keep it held (log entry 13). -/
def Obligations.PaddockInstructionCompletes : Prop :=
  ∀ (s : State) (g a r cc f : Nat),
    let i := Instr.paddock g a r cc f
    let m := active s g
    let q := { askRange i m r 8 (getS (cur s) a).toNat 8 .read rcdRead with formats := some [0, 4] }
    m ≠ 0 →
    ((curLaunch s).priv = false → exec i s = .next (takeTrap (trapRec s 0x04 m [(0, 1, 0x6D)]) s)) ∧
    ((curLaunch s).priv = true → flagFull s f = false →
      ∀ (s1 : State) (ls : List Reach), checkLanes q s = (s1, .ok ls) →
      Safety.HeldBack i q f (loadAct false) ls s s1 ∧
      (Safety.InOrder q (loadAct false) ls s1 → poisonTrap q (verifyLanes q ls s1) ls = none →
      let out := readRange q ls (verifyLanes q ls s1)
      let x := leNat out.2
      let acts := fun d => d == (curLaunch out.1).dom
      (∀ st, recRefusal out.1 acts x = some st →
        exec i s = .next (Safety.issued i f { noPending with sw := [(cc, BitVec.ofNat 32 st)], units := laneUnits ls } out.1)) ∧
      (recRefusal out.1 acts x = none →
        exec i s = .next (Safety.issued i f { noPending with sw := [(cc, 0)], pad := some (bits x 5 0), units := laneUnits ls } (installRecord x none out.1)))))

/-! ### Control flow -/

/-- R264, R265: a transfer groups the live threads of its path by where each goes: every live thread is in the one group of its address,
those that fall through come first and the targets ascend. The first group takes the slot, the second the other slot where that is empty,
and is pushed onto the stack where it is not; the rest go onto the stack above it, the lowest address on top. R266 to R273: bra, brx, the
calls and ret complete for every operand that passes their checks: they move the threads that take them, or raise stack-overflow (0x06) with
every active thread in its record (R357) where the stack has no room. bra and bra.l under hint 11 set hintmiss where some of the path's
threads take them and others stay, whichever way they go (R266), brx where it makes more than one path (R269). A call writes the return
address to its link register in the threads that go, and nothing else does. -/
def Obligations.TransfersMoveThreadsByTarget : Prop :=
  ((∀ (fall : Nat) (live : Mask) (dest : Nat → Nat),
    let gs := groupsOf fall live dest
    (∀ pc m, (pc, m) ∈ gs → m ≠ 0 ∧ ∀ t < 32, inMask m t = (inMask live t && dest t == pc)) ∧
    (∀ t < 32, inMask live t = true → ∃ m, (dest t, m) ∈ gs) ∧ (gs.map (·.1)).Nodup ∧
    (gs.filter fun x => x.1 != fall).Pairwise (fun x y => x.1 < y.1) ∧
    ((∃ t < 32, inMask live t = true ∧ dest t = fall) → (gs.head?.map (·.1)) = some fall)) ∧
  ∀ (clk pc : Nat) (m : Mask) (r : List (Nat × Mask)) (second : Bool) (f : Flock),
    let g := placePaths clk second ((pc, m) :: r) f
    pathOf g second = some (pathAt pc m) ∧
    (pathOf f (!second) ≠ none → pathOf g (!second) = pathOf f (!second) ∧
      g.stack = r.tail.map (fun x => pathAt x.1 x.2) ++ (r.head?.map fun x => pathAt x.1 x.2).toList ++ f.stack) ∧
    (pathOf f (!second) = none → pathOf g (!second) = r.head?.map (fun x => pathAt x.1 x.2) ∧
      g.stack = r.tail.map (fun x => pathAt x.1 x.2) ++ f.stack)) ∧
  ((∀ (s : State) (g o h n off : Nat),
    let m := activeNeg s g n
    let near : Int := (curPath s).pc + 4 * toSigned 18 o
    let far : Int := (curPath s).pc + toSigned 32 off
    (inCode s near = true → Safety.Transfers (.bra g o h n) s m m (fun _ => near.toNat) (decide (near ≤ (curPath s).pc))
      (h = 3 ∧ Safety.Splits s m) id) ∧
    (inCode s near = false → exec (.bra g o h n) s = .next (takeTrap (illegalRec (encode (.bra g o h n)) m s) s)) ∧
    (off % 4 = 0 → inCode s far = true →
      Safety.Transfers (.braL g h n off) s m m (fun _ => far.toNat) (decide (far ≤ (curPath s).pc)) (h = 3 ∧ Safety.Splits s m) id)) ∧
  (∀ (s : State) (g ix sx h n u : Nat),
    let m := activeNeg s g n
    let entry (t : Nat) : Option Nat :=
      ((curObj s).sets.getD sx [])[(if u = 1 then getS (cur s) ix else getV (cur s) t ix).toNat]?
    sx < (curObj s).sets.length → (u = 1 ∨ ix < (cur s).budget) →
    (∀ t ∈ threadsOf m, ∀ e, entry t = some e → inCode s e = true) →
    let dest (t : Nat) : Nat := (entry t).getD (nextHeader (curPath s))
    Safety.Transfers (.brx g ix sx h n u) s m m dest
      ((threadsOf m).any fun t => (entry t).any fun e => decide (e ≤ (curPath s).pc))
      (h = 3 ∧ 1 < (Safety.groups s m dest).length) id) ∧
  (∀ (s : State) (g l o n off : Nat) (e : Entry),
    let m := activeNeg s g n
    let near : Int := (curPath s).pc + 4 * toSigned 12 o
    let far : Int := (curPath s).pc + toSigned 32 off
    let link (f : Flock) : Flock := putVs f l m fun _ => BitVec.ofNat 32 (nextHeader (curPath s))
    l < (cur s).budget → e.budget ≤ (cur s).budget →
    (inCode s near = true → functionAt s near.toNat = some e →
      Safety.Transfers (.callI g l o n) s m m (fun _ => near.toNat) false False link) ∧
    (off % 4 = 0 → inCode s far = true → functionAt s far.toNat = some e →
      Safety.Transfers (.callL g l n off) s m m (fun _ => far.toNat) false False link)) ∧
  (∀ (s : State) (g l ix sx n u : Nat),
    let m := activeNeg s g n
    let entry (t : Nat) : Option Nat :=
      ((curObj s).sets.getD sx [])[(if u = 1 then getS (cur s) ix else getV (cur s) t ix).toNat]?
    let callers := maskOf fun t => inMask m t && (entry t).isSome
    l < (cur s).budget → (u = 1 ∨ ix < (cur s).budget) → sx < (curObj s).sets.length →
    (∀ t ∈ threadsOf m, ∀ a, entry t = some a → inCode s a = true ∧ ∃ e, functionAt s a = some e ∧ e.budget ≤ (cur s).budget) →
    Safety.Transfers (.callx g l ix sx n u) s m callers (fun t => (entry t).getD (nextHeader (curPath s))) false False
      (fun f => putVs f l callers fun _ => BitVec.ofNat 32 (nextHeader (curPath s)))) ∧
  ∀ (s : State) (g l n : Nat),
    let m := activeNeg s g n
    l < (cur s).budget → (∀ t ∈ threadsOf m, inCode s (getV (cur s) t l).toNat = true) →
    Safety.Transfers (.ret g l n) s m m (fun t => (getV (cur s) t l).toNat) false False id)

/-- R46 to R48, R253: a path at a legal clause header, after the merge with a path at the same header, enters its clause where the flags
that it awaits count 0, and waits where one does not; a header or a clause that is not legal raises illegal-clause (0x02). A merge leaves no
word fetched ahead (log entry 33). -/
def Obligations.ClauseStartsEnterTheirClause : Prop :=
  (∀ (s s1 s2 : State) (h : Nat) (ws : List Nat) (p : Path), pathOf (cur s) s.second = some p → p.left = 0 →
    p.hint = false →
    let s0 := mergeCur s
    fetchWord (curPath s0).pc s0 = (s1, some h) →
    (headerLegal h = false → exec .clauseStart s = .next (takeTrap (clauseRec h s1) s1)) ∧
    (headerLegal h = true → peekWords (bits h 27 25 + 1) ((curPath s0).pc + 4) s1 = (s2, some ws) →
      (clauseWords ws = false → exec .clauseStart s = .next (takeTrap (clauseRec h s2) s2)) ∧
      (clauseWords ws = true → (∀ k < 12, h.testBit (13 + k) = true → getCf (cur s2) k = 0) →
        exec .clauseStart s = .next (mapCurPath (fun p => { p with
          pc := (curPath s0).pc + 4, left := bits h 27 25 + 1, hint := h.testBit 4, setA := bits h 12 9, setB := bits h 8 5,
          wait := .none }) s2)) ∧
      (clauseWords ws = true → (∃ k < 12, h.testBit (13 + k) = true ∧ getCf (cur s2) k ≠ 0) →
        exec .clauseStart s = .next (waitFor (.flags (bits h 24 13)) s2)))) ∧
  ∀ (clk : Nat) (f : Flock) (p q : Path), f.path0 = some p → f.path1 = some q → p.pc = q.pc → p.left = 0 → q.left = 0 →
    p.hint = false → q.hint = false →
    ∃ g, mergePaths clk f = some g ∧ g.path0 = some (pathAt p.pc (p.mask ||| q.mask)) ∧ g.path1 = f.stack.head? ∧
      g.stack = f.stack.tail ∧ g.swapBase = clk ∧ ∀ k, smapFind g.ahead k = none

/-- R274, R275: exit takes the active threads out of their path; a slot that it empties is refilled from the stack; barriers are checked,
and where every thread has exited the tiles that the flock holds are freed (R138) and the retirement follows. A retired flock leaves its
slot empty, its tiles released. That the slot is empty at once is the model's choice (log entry 47); that an exit which ends a hinted clause
yields, too (log entry 34). -/
def Obligations.ExitsRetireTheirFlock : Prop :=
  (∀ (s : State) (g n : Nat) (p : Path), pathOf (cur s) s.second = some p → activeNeg s g n ≠ 0 →
    let m := activeNeg s g n
    let clk := clockOf s s.core
    let all : Bool := ((cur s).exited ||| m) == BitVec.allOnes 32
    let f := { cur s with
      swapBase := clk
      exited := (cur s).exited ||| m
      exitAt := if all then some (p.pc, if s.second then 1 else 0, m) else (cur s).exitAt }
    let h := if p.mask &&& ~~~m = 0 then refill (withPath f s.second none) s.second
      else advancePath 1 clk s.second (withPath f s.second (some { p with mask := p.mask &&& ~~~m }))
    let u := barriersCheck f.launch f.wg (setCurStack h s)
    (all = false → exec (.exitI g n) s = .next u) ∧
    (all = true → exec (.exitI g n) s = .next (retireCheck s.core s.slot
      (slicesCheck f.launch f.wg (cur u).index (if s.second then 1 else 0) p.pc m s.core (freeTiles s.core s.slot u))))) ∧
  ∀ (s : State) (core slot : Nat),
    let f := flockAt s core slot
    f.launch ≠ 0 → f.exited = BitVec.allOnes 32 → f.pending = [] → (∀ x, (coreAt s core).fabric = some x → x.control ≠ slot) →
    let u := retireFlock core slot s
    exec (.flockRetirement core slot) s = .next (completeCheck f.launch f.wg (barriersCheck f.launch f.wg u)) ∧
    flockAt u core slot = emptyFlock ∧ (∀ c k, (c ≠ core ∨ k ≠ slot) → flockAt u c k = flockAt s c k) ∧
    (∀ t < 4, holds (tileAt u core t) slot = false) ∧ u.mem = s.mem

/-- R45, R255, R276 to R278: bar arrives and waits, and the last arrival of a workgroup releases every path that waits there, once the
accesses that the arrived threads made before are performed (R42, R217; that this holds the barrier back is the model's choice, log entry
13); yield moves on and swaps its path out, or gives the flock's next turn away; nap stands past itself and rests; the end of a nap and an
expired count let it go on. R286: a parked flock's paths stay as they were. -/
def Obligations.MeetingPointsComplete : Prop :=
  (∀ (s : State) (n : Nat), n < 16 →
    let live := liveMask (cur s) (curPath s)
    let u := waitFor (.bar n) (setCur { cur s with arrived := smapSet 0 (cur s).arrived n (smapGet 0 (cur s).arrived n ||| live) } s)
    let v := barrierCheck (cur s).launch (cur s).wg n u
    exec (.bar n) s = .next (setCurStack (yieldPoint false (clockOf v v.core) v.second (cur v)) v)) ∧
  (∀ (s : State) (l k n : Nat), let w := wgOf s l k
    let behind : Prop := ∃ x ∈ w.slots, ∃ e ∈ openOps s w.core x, e.mask &&& smapGet 0 (flockAt s w.core x).arrived n ≠ 0
    ((∃ x ∈ w.slots, smapGet 0 (flockAt s w.core x).arrived n ||| (flockAt s w.core x).exited ≠ BitVec.allOnes 32) ∨ behind →
      barrierCheck l k n s = s) ∧
    ((∀ x ∈ w.slots, smapGet 0 (flockAt s w.core x).arrived n ||| (flockAt s w.core x).exited = BitVec.allOnes 32) →
      (∃ x ∈ w.slots, smapGet 0 (flockAt s w.core x).arrived n ≠ 0) → ¬ behind → w.slots.Nodup →
      ∀ x ∈ w.slots, flockAt (barrierCheck l k n s) w.core x = releaseFlock n (clockOf s w.core) (flockAt s w.core x))) ∧
  (∀ (n clk : Nat) (f : Flock), (∀ second p, pathOf f second = some p → p.hint = false) →
    let g := releaseFlock n clk f
    let past (p : Path) : Path := if p.wait = .bar n then { p with pc := p.pc + 4, left := p.left - 1, wait := .none } else p
    smapGet 0 g.arrived n = 0 ∧ (∀ second, pathOf g second = (pathOf f second).map past) ∧ g.stack = f.stack.map past) ∧
  (∀ (s : State) (g n u : Nat) (p : Path), pathOf (cur s) s.second = some p → active s g ≠ 0 →
    let clk := clockOf s s.core
    let past := { p with pc := p.pc + 4, left := p.left - 1, wait := .none }
    exec (.yield g) s = .next (setCurStack (yieldPoint true clk s.second (withPath (cur s) s.second (some past))) s) ∧
    (u = 0 ∨ n % 64 = 0 → let k := if u = 1 then (getS (cur s) (n / 64)).toNat % 65536 else n
     exec (.nap g n u) s = .next (setCurStack (yieldPoint false clk s.second (withPath (cur s) s.second
       (some { past with wait := if k = 0 then .none else .nap (clk + 16 * k) }))) s))) ∧
  ∀ (s : State) (core slot : Nat) (second : Bool) (p : Path), pathOf (flockAt s core slot) second = some p →
    (∀ stop, p.wait = .nap stop → stop ≤ clockOf s core →
      exec (.napEnd core slot second) s =
        .next (setFlock core slot (withPath (flockAt s core slot) second (some { p with wait := .none })) s)) ∧
    (parked s core slot = true → exec (.swapCountExpiry core slot second) s = .next s) ∧
    (parked s core slot = false → (p.wait = .handle ∨ p.wait = .tile ∨ (∃ n, p.wait = .bar n) ∨ ∃ stop, p.wait = .nap stop) →
      exec (.swapCountExpiry core slot second) s =
        .next (setFlockStack core slot (yieldPoint false (clockOf s core) second (flockAt s core slot)) s))

/-- R41, R279 to R283: trap takes its trap (0x30, or the breakpoint 0x31 for code 4095); icinv drops the core's copies of the words that its
range touches, and waits for its flock's earlier stores as it is maintenance (R216, log entry 13); fetchb discards the words that its path
has fetched ahead, and no others, leaves behind the values kept before its flock's icinv, and goes on (that a fetch ahead is what R353's
fetches are is the model's choice, log entry 33); the operations of sysop work on the pages of their range where the launch is privileged
(that the range is checked as one that is read is the model's choice, log entry 43), and raise privilege (0x04) where it is not. unpoison
zeros the whole line where all of it is poisoned (R231, R283; the extent is the model's choice, log entry 66), and waits at issue for the
earlier accesses that are kept before its stores (R215, R282). -/
def Obligations.TrapsAndSystemInstructionsComplete : Prop :=
  (∀ (s : State) (g n : Nat), active s g ≠ 0 →
    exec (.trapI g n) s = .next (takeTrap (trapRec s (if n = 4095 then 0x31 else 0x30) (active s g) [(0, 2, n)]) s)) ∧
  (∀ s : State, ∃ u, exec .fetchb s = .next (advance 1 u) ∧
    u = { setCur { cur s with ahead := dropAhead s.second (cur s).ahead } s with wgs := u.wgs } ∧
    curWg u = { curWg s with fenced := (curWg u).fenced } ∧
    (∀ key t, findWg s (cur s).launch (cur s).wg ≠ none → inMask (liveMask (cur s) (curPath s)) t = true → (cur s).index < 32 → t < 32 →
      ∀ stamp, smapFind (curWg s).invals (dropKey key (cur s).index) = some stamp →
        smapGet 0 (curWg u).fenced (fenceKey key (cur s).index t) = stamp) ∧
    ∀ (off : Nat) (b : Bool), smapFind (dropAhead s.second (cur s).ahead) (aheadKey off b) =
      if b = s.second then none else smapFind (cur s).ahead (aheadKey off b)) ∧
  ∀ (s : State) (g c sx r : Nat), active s g ≠ 0 →
    (Safety.ExtentOk s c sx r → (getS (cur s) c).toNat ≠ 0 → keptBehind s (flockOp s maintainAct (active s g)) = true →
      exec (.icinv g c sx r) s = .next (waitFor .issue s)) ∧
    (Safety.ExtentOk s c sx r → keptBehind s (flockOp s maintainAct (active s g)) = false → ∃ u, exec (.icinv g c sx r) s = .next (advance 1 u) ∧
      u = { setCore s.core { coreAt s s.core with icache := (coreAt u s.core).icache } s with wgs := u.wgs } ∧
      curWg u = { curWg s with invals := (curWg u).invals } ∧
      ∀ va < 2 ^ 57, let key := icacheKey (curLaunch s).dom va
        let met : Prop := ∃ x ∈ rangeBytes s c sx r, x.1 < va + 4 ∧ va < x.1 + x.2
        (met → smapFind (coreAt u s.core).icache key = none ∧
          (findWg s (cur s).launch (cur s).wg ≠ none → smapGet [] s.codeSeen key ≠ [] →
            smapGet 0 (curWg u).invals (dropKey key (cur s).index) = s.fresh)) ∧
        (¬ met → smapFind (coreAt u s.core).icache key = smapFind (coreAt s s.core).icache key)) ∧
    ((curLaunch s).priv = false →
      exec (.sysopHarvest g c sx r) s = .next (takeTrap (trapRec s 0x04 (active s g) [(0, 1, 0x5F)]) s) ∧
      exec (.sysopUnpoison g c sx r) s = .next (takeTrap (trapRec s 0x04 (active s g) [(0, 1, 0x5F)]) s)) ∧
    ((curLaunch s).priv = true → Safety.ExtentOk s c sx r →
      ∀ (u : State) (ps : List (Nat × Page)), pagesFor (curAgent s) .read (extentUnits (rangeBytes s c sx r)) s = (u, ps) →
      sysopPages (active s g) ps u = none →
      exec (.sysopHarvest g c sx r) s = .next (advance 1 (ps.foldl (harvestPage (curLaunch u).dom) u)) ∧
      ∃ spots : List (Nat × Nat),
        (∀ x va, (x, va) ∈ spots ↔ isPoisoned u (sectorOf (leafLoc x va)) = true ∧ ∃ y ∈ rangeBytes u c sx r, ∃ sec,
          (sec = y.1 / 32 ∨ sec = (y.1 + y.2 - 1) / 32) ∧ pageLeaf (pageOf ps (32 * sec)) = some x ∧ va ∈ poisonedExtent u x (32 * sec)) ∧
        let behind := keptBehind u
          { flockOp u (storeAct false) (active s g) with places := spots.map fun x => (0, leafLoc x.1 x.2, 32) }
        (spots ≠ [] → behind = true → exec (.sysopUnpoison g c sx r) s = .next (waitFor .issue u)) ∧
        (spots = [] ∨ behind = false →
          exec (.sysopUnpoison g c sx r) s = .next (advance 1 (spots.foldl (fun v x => zeroSector x.1 x.2 v) u))))

/-! ### Spatial mode -/

/-- R287, R289, R304, R305, R314: fab.enter reads and checks its image and enters spatial mode; fab.leave waits for the accepted stream
commands and leaves, with the operators' flags in the control flock's status; a mode switch releases the reuse latches of the core's flocks
(R41); a workgroup that stops in the clock of its commit drains from then on (R364, R368); a stream command joins its lane. In a core of the
other mode fab.enter, strm and strm.l raise mode-switch-refused (0x20), and an image that is malformed or finds no room is refused with its
reason. -/
def Obligations.SpatialInstructionsComplete : Prop :=
  (∀ (s : State) (g r : Nat), active s g ≠ 0 →
    let i := Instr.fabEnter g r
    let m := active s g
    let k := (getB (cur s) r).toNat
    ((coreAt s s.core).fabric ≠ none → exec i s = .next (takeTrap (trapRec s 0x20 m [(0, 1, 3)]) s)) ∧
    ((coreAt s s.core).fabric = none → rcdSize k = 3 → rcdBase k % 64 = 0 → baseAligned k = true →
      let q (n : Nat) : Ask := { askRange i m r n 0 8 .read rcdRead with permFirst := true }
      ∀ (s1 s2 : State) (l1 l2 : List Reach) (im : Image) (depth : SMap Nat), checkLanes (q 8) s = (s1, .ok l1) →
        keptBehind s1 (askOp (q 8) (loadAct false) l1 s1) = false → poisonTrap (q 8) (verifyLanes (q 8) l1 s1) l1 = none →
        let h := readRange (q 8) l1 (verifyLanes (q 8) l1 s1)
        let len := imgNat h.2 12 4
        let n := imageElems k len
        checkLanes (q n) h.1 = (s2, .ok l2) →
        keptBehind s2 (askOp (q n) (loadAct false) l2 s2) = false → poisonTrap (q n) (verifyLanes (q n) l2 s2) l2 = none →
        let b := readRange (q n) l2 (verifyLanes (q n) l2 s2)
        let parsed := parseImage b.2 (8 * rcdInner k * rcdOuter k)
        (parsed = none → exec i s = .next (takeTrap (trapRec b.1 0x20 m [(0, 1, 1)]) b.1)) ∧
        (len % 8 ≠ 0 ∨ len < 64 ∨ 8 * rcdInner k * rcdOuter k < len → parseImage b.2 (8 * rcdInner k * rcdOuter k) = none ∨ imgNat b.2 12 4 ≠ len) ∧
        (parsed = some im → chooseDepths b.1 b.1.core im = none → exec i s = .next (takeTrap (trapRec b.1 0x20 m [(0, 1, 2)]) b.1)) ∧
        (parsed = some im → chooseDepths b.1 b.1.core im = some depth →
        let u := dropLatches b.1.core b.1
        let v := setCore b.1.core
          { coreAt u b.1.core with
            fabric := some (newFabric im (rcdBase k + ((placeOf k 0).getD (0, 0)).1) len b.1.slot depth) } u
        ((∀ n, (curWg v).phase ≠ .stopping n) → exec i s = .next (advance 1 v)) ∧
        (∀ n, (curWg v).phase = .stopping n → exec i s = .next (advance 1 (dueSave (cur v).launch (cur v).wg v))) ∧
        ∀ c n, flockAt u c n = if c = b.1.core then { flockAt b.1 c n with latch := none } else flockAt b.1 c n))) ∧
  (∀ (s : State) (g : Nat), active s g ≠ 0 →
    ((coreAt s s.core).fabric = none → exec (.fabLeave g) s = .next (advance 1 s)) ∧
    (∀ f, (coreAt s s.core).fabric = some f →
      ((∃ e ∈ f.lanes, e.2.cmds ≠ []) → exec (.fabLeave g) s = .next (waitFor .leave s)) ∧
      ((∀ e ∈ f.lanes, e.2.cmds = []) →
        let t := leaveFabric s.core s
        exec (.fabLeave g) s = .next (advance 1 t) ∧ (coreAt t s.core).fabric = none ∧
        flockAt t s.core f.control = { flockAt s s.core f.control with
          latch := none
          status := statusSet (flockAt s s.core f.control).status (flAll (f.lanes.map fun e => e.2.flags) % 64) } ∧
        (∀ n, n ≠ f.control → flockAt t s.core n = { flockAt s s.core n with latch := none }) ∧
        (∀ c n, c ≠ s.core → flockAt t c n = flockAt s c n) ∧ t.mem = s.mem))) ∧
  (∀ (s : State) (g d sx f w : Nat), let i := Instr.strm g d sx f w
    active s g ≠ 0 → sx % 4 = 0 → (w = 1 ∨ d = 0) →
    ((coreAt s s.core).fabric = none → exec i s = .next (takeTrap (trapRec s 0x20 (active s g) [(0, 1, 4)]) s)) ∧
    (flagFull s f = false → Safety.StreamAccepted i (active s g) f (if w = 1 then some d else none)
      (getS (cur s) (sx + 3) ++ getS (cur s) (sx + 2) ++ getS (cur s) (sx + 1) ++ getS (cur s) sx) s s)) ∧
  (∀ (s : State) (g d w offhi f offlo : Nat), let i := Instr.strmL g d w offhi f offlo
    active s g ≠ 0 → offlo % 16 = 0 → (w = 1 ∨ d = 0) → (coreAt s s.core).fabric = none →
    exec i s = .next (takeTrap (trapRec s 0x20 (active s g) [(0, 1, 4)]) s)) ∧
  ∀ (s s1 : State) (g d w offhi f offlo x : Nat), let i := Instr.strmL g d w offhi f offlo
    let va := (curObj s).va + offhi * 8192 + offlo
    active s g ≠ 0 → offlo % 16 = 0 → (w = 1 ∨ d = 0) → flagFull s f = false → (coreAt s s.core).fabric ≠ none →
    pageFor (curAgent s) .read va s = (s1, .ok x) → elementBad (verifyElement x va 16 s1) x va 16 = false →
    let out := loadBytes (some (verifyElement x va 16 s1).core) x va 16 (verifyElement x va 16 s1)
    Safety.StreamAccepted i (active s g) f (if w = 1 then some d else none) (BitVec.ofNat 128 (leNat out.2)) s out.1

/-- R297, R298, R300: an operator fires where its inputs have heads and every queue of its route has room. An arithmetic operator on two
data heads takes both and appends its result to each queue of its route, and no other queue changes. R303, R306 to R309: a lane starts its
next command, on a token where its operator asks for one, and a source with the order bit not before the control flock's earlier ldfe are
served (R306, R311); a source appends the elements of its command in order and then its end marker; a sink takes the head of its input; the
completed command leaves its status, its flags and its token; a token that arrives is counted, up to 15. R228, R307: a sink's release is
checked; one that a pending acquire excludes stops its lane as a failing page does. That, and that a sink's flags are cleared at its
command's completion, are the model's choices (log entry 37). -/
def Obligations.OperatorsFireAndStreamsMove : Prop :=
  ((∀ (s : State) (core lane : Nat) (f g : Fabric), (coreAt s core).fabric = some f → fire lane f = some g →
    exec (.operatorFiring core lane) s = .next (setFabric core g s)) ∧
  (∀ (f : Fabric) (l : Nat), 1 ≤ opKind (opAt f l) → opKind (opAt f l) ≤ 9 →
    ((fire l f).isSome = true ↔ (inputHead f (opAt f l) (opA (opAt f l))).isSome = true ∧
      (inputHead f (opAt f l) (opB (opAt f l))).isSome = true ∧
      ∀ q ∈ route (opAt f l), (queueAt f q).length < smapGet 0 f.depth q)) ∧
  ∀ (f : Fabric) (l : Nat) (a b : QEntry), let op := opAt f l
    1 ≤ opKind op → opKind op ≤ 6 → opA op ≠ noQueue → opB op ≠ noQueue → opA op ≠ opB op → opA op ∉ route op → opB op ∉ route op →
    (queueAt f (opA op)).head? = some a → (queueAt f (opB op)).head? = some b → a.tag = .data → b.tag = .data →
    (∀ q ∈ route op, (queueAt f q).length < smapGet 0 f.depth q) →
    let r := arithResult op a.word.toNat b.word.toNat
    ∃ g, fire l f = some g ∧ (laneAt g l).flags = flOr (laneAt f l).flags r.2 ∧ (∀ k, k ≠ l → laneAt g k = laneAt f k) ∧
      ∀ q, queueAt g q =
        if q = opA op ∨ q = opB op then (queueAt f q).tail
        else if q ∈ route op then queueAt f q ++ [{ word := BitVec.ofNat 32 r.1, tag := .data, flags := 0 }] else queueAt f q) ∧
  ((∀ (s : State) (core lane : Nat) (f : Fabric), (coreAt s core).fabric = some f →
    let x := laneAt f lane
    let op := opAt f lane
    (mayStart f lane = true → sourceWaits s core f lane = false → exec (.sourceStart core lane) s = .next (setFabric core (setLane lane
      { x with running := true, tokens := if opVariant op = 1 then x.tokens - 1 else x.tokens, pos := 0, moved := 0, markerSent := false,
               ended := false, field := 0, short := false } f) s)) ∧
    (sourceWaits s core f lane = true → exec (.sourceStart core lane) s = .next (setFabric core f s)) ∧
    (∀ c r, x.cmds = c :: r → opKind op = 0x10 → cmdOrder c.cmd = true →
      (∃ e ∈ openOps s core f.control, (∀ u, c.uid = some u → e.uid < u) ∧ e.op.act = .ldfe ∧ e.mask ≠ 0) →
      sourceWaits s core f lane = true) ∧
    (lane ∈ f.flying → exec (.controlTokenArrival core lane) s = .next (setFabric core
      (setLane lane { x with tokens := min 15 (x.tokens + 1) } { f with flying := f.flying.erase lane }) s)) ∧
    ∀ c r, x.cmds = c :: r → x.running = true →
      (opKind op = 0x10 → x.markerSent = false → f.draining = none → x.stuck = none → (route op).all (hasRoom f) = true →
        (x.pos = cmdCount c.cmd → exec (.sourceAppend core lane) s = .next (due (.streamCommandCompletion core lane)
          (setFabric core (appendAll (route op) (markerEntry 0) (setLane lane { x with markerSent := true } f)) s))) ∧
        ∀ (u : State) (y va nib : Nat), x.pos ≠ cmdCount c.cmd →
          findElement (controlAgent s core f) .read c.rcd.toNat (cmdIndex c.cmd x.pos) s = (u, .page y va nib) →
          let v := sourceRead core c.book c.rcd.toNat y va nib u
          exec (.sourceAppend core lane) s = .next (mapFabric core (fun f => appendAll (route op) (dataEntry v.2.1)
            (setLane lane { x with pos := x.pos + 1, moved := x.moved + 1, flags := flOr x.flags v.2.2 } f)) v.1)) ∧
      (∀ e, opKind op = 0x11 → x.ended = false → x.stuck = none → inputHead f op (opA op) = some e →
        (e.tag = .error ∨ (e.tag = .data ∧ cmdCount c.cmd ≤ x.pos) ∨ (e.tag = .marker ∧ cmdOrder c.cmd = false) →
          exec (.sinkTake core lane) s = .next (sinkEntry core lane f x c e none s)) ∧
        ∀ (u : State) (w : Found) (idx : Int),
          ((e.tag = .data ∧ x.pos < cmdCount c.cmd ∧ idx = cmdIndex c.cmd x.pos) ∨
            (e.tag = .marker ∧ cmdOrder c.cmd = true ∧ idx = cmdRelease c.cmd)) →
          findElement (controlAgent s core f) .write c.rcd.toNat idx s = (u, w) → (∀ z, w ≠ .stops z) →
          let clash := if e.tag = .marker then sinkClash core (controlFlock u core f).launch (cmdScope c.cmd) w u else none
          (clash = none → exec (.sinkTake core lane) s = .next (sinkEntry core lane f x c e (some w) u)) ∧
          ∀ z, clash = some z → exec (.sinkTake core lane) s = .next (laneStops core lane z u))) ∧
  ∀ (s : State) (core lane : Nat) (f : Fabric) (c : StrmCmd) (r : List StrmCmd), (coreAt s core).fabric = some f →
    let x := laneAt f lane
    let sink : Bool := opKind (opAt f lane) == 0x11
    x.cmds = c :: r → x.running = true → (if sink then x.ended else x.markerSent) = true →
    ∃ (t : State) (g : Fabric), exec (.streamCommandCompletion core lane) s = .next t ∧ (coreAt t core).fabric = some g ∧
      laneAt g lane = { x with cmds := r, running := false, pos := 0, moved := 0, markerSent := false, ended := false, field := 0,
                               short := false, flags := if sink then 0 else x.flags } ∧
      (∀ k, k ≠ lane → laneAt g k = laneAt f k) ∧ g.queues = f.queues ∧
      g.flying = f.flying ++ (if cmdLast c.cmd then [cmdTarget c.cmd] else []) ∧
      (flockAt t core f.control).status =
        (if sink then statusSet (flockAt s core f.control).status (flOr x.field x.flags % 64) else (flockAt s core f.control).status) ∧
      (∀ u d p, c.uid = some u → c.sreg = some d → (flockAt s core f.control).pending.find? (fun p => p.uid == u) = some p →
        getS (flockAt t core f.control) d = BitVec.ofNat 32 (streamStatus sink x c) ∧
        (flockAt t core f.control).pending = (flockAt s core f.control).pending.filter fun q => q.uid != p.uid) ∧ t.mem = s.mem)

/-! ### Lines, paddocks and pages -/

/-- R165, R171, R173 to R175, R221, R225: the memory system's own events: a returned request is issued again, an updating line settles, a
line is evicted or leaves with a share, a share arrives, a resize ends, a core's clock ticks by itself. R229, R338: a home change moves the
bytes that the old leaf's key reads to their new place, installs its leaf, drops its translations and completes its packet. That the old
place keeps its bytes is the model's choice (log entry 55); that a line is evicted by an event of the schedule alone, too (log entry 40).
The clause on the page's bytes covers states in which no line is held. -/
def Obligations.LinesPaddocksAndPagesMoveOn : Prop :=
  ((∀ (s : State) (uid : Nat) (r : FeReq), s.feRetry.find? (fun r => r.uid == uid && !feBefore s r) = some r →
    exec (.fullEmptyReissue uid) s = .next ((feTake r { s with feRetry := s.feRetry.erase r }).getD s)) ∧
  (∀ (s : State) (pad base : Nat) (l : Line), findLine s pad base = some l →
    (l.st = .updating → ∃ t, exec (.updateSharerAck pad base) s = .next t ∧
      findLine t pad base = some { l with
        st := if l.copies = [] then .unshared else .shared, sharers := l.sharers &&& sharersOf base l.copies } ∧
      (∀ p b, (p ≠ pad ∨ b ≠ base) → findLine t p b = findLine s p b) ∧ t = { s with lines := t.lines }) ∧
    (l.st ≠ .updating → ∃ t, exec (.paddockLineEviction pad base) s = .next t ∧
      findLine t pad base = (if l.partials = [] then none else some { l with dirty := false }) ∧
      (∀ p b, (p ≠ pad ∨ b ≠ base) → findLine t p b = findLine s p b) ∧
      t.mem = (if l.dirty then (writeUnder l.key base l.data s).mem else s.mem))) ∧
  (∀ (s : State) (pad x : Nat) (p : Paddock) (z : Resize), smapFind s.paddocks pad = some p → p.resize = some z →
    (x ∈ z.departing ++ z.folding ++ z.zero → ∃ t, exec (.paddockLineMove pad x) s = .next (padPoke pad t) ∧
      t = { moveFor pad x z s with paddocks := t.paddocks } ∧
      smapFind t.paddocks pad = some { p with resize := some { z with
        departing := setErase z.departing x, folding := setErase z.folding x, zero := setErase z.zero x } }) ∧
    (x ∈ z.arriving → windowInBank s z x = false → (∀ b ∈ z.zero, takesZero (padRcd s pad) x b = false) →
      ∃ t, exec (.paddockShareArrival pad x) s = .next (due (.paddockResizeComplete pad) t) ∧ t = { s with paddocks := t.paddocks } ∧
        smapFind t.paddocks pad = some { p with resize := some { z with arriving := setErase z.arriving x } }) ∧
    (z.departing = [] → z.folding = [] → z.zero = [] → z.arriving = [] → ∃ t, exec (.paddockResizeComplete pad) s = .next t ∧
      smapFind t.paddocks pad =
        if p.deleting then none else some { p with
          resize := none
          withdrawn := p.withdrawn.filter fun w => w.1 == recWays p.rcd.toNat && (shareList p.rcd.toNat).contains w.2 })) ∧
  ∀ (s : State) (core : Nat), s.autoOn = true → 0 < owedTicks s core → ∃ t, exec (.autoTick core) s = .next t ∧
    (coreAt t core).pts = (coreAt s core).pts + 1 ∧ (coreAt t core).autoTicks = (coreAt s core).autoTicks + 1 ∧
    (∀ c, c ≠ core → coreAt t c = coreAt s c) ∧ t = { s with cores := t.cores }) ∧
  ((∀ (s : State) (dom va x pa : Nat) (h : HomeChange), s.homeChanges.find? (fun h => h.dom == dom && h.va == va) = some h →
    let u := { s with homeChanges := s.homeChanges.filter fun k => !(k.dom == dom && k.va == va) }
    leafOf u dom va = some (x, pa) →
    let v := physWrite pa (leBytes 16 h.leaf.toNat) (movePage x h.leaf.toNat dom va u)
    exec (.homeChangeComplete dom va) s = .next (packetDone h.queue h.seq (signalDone h.queue h.qdom h.signal 0 0 0 0
      { v with tlb := v.tlb.filter fun e => !(e.dom == dom && inRange va (pageSize (leafSize x)) e.va) }))) ∧
  ∀ (s : State) (x y dom va : Nat), Memory.wf s.mem = true → s.lines = [] → leafSize x = leafSize y → va % pageSize (leafSize x) = 0 →
    let t := movePage x y dom va s
    (∀ k, k < pageSize (leafSize x) → memGet t.mem (leafLoc y va + k) = memUnder s (leafMaterial s x) (leafLoc x va + k)) ∧
    (∀ a, (a < leafLoc y va ∨ leafLoc y va + pageSize (leafSize x) ≤ a) → memGet t.mem a = memGet s.mem a))

/-! ### Queues and packets -/

/-- R234 to R237, R244 to R246: a doorbell raises the queue's write index and reads its next packet; an unmapped queue takes a hardware slot
with it, a free one or that of the queue idle for longest; an index beyond the ring stops the queue; the drover dispatches the packet of the
queue that it chooses, which takes a slot where it has none; a slot idle for 2 ms is unmapped; the queue table and the synchronised queue
are the owner's to write. Of the dispatchable queues it chooses one that has waited 4 ms, while its group has made no override within 1 ms,
the longest wait first; otherwise that of highest effective priority, then longest wait, then lowest number. That a doorbell which does not
raise the write index still reads an unwritten slot again is the model's choice (log entry 52), and so is the order of overrides that
several groups could make at once, or queues of equal wait (log entry 98). -/
def Obligations.QueuesTakeTheirPackets : Prop :=
  (∀ (s : State) (port : Port) (q v : Nat), fwReady s = true → q < 65536 → v < 2 ^ 64 → (queueOf s q).held = true →
    qServes s (queueOf s q) = true →
    let x := queueOf s q
    let u := setQueueAt q { x with unwritten := false } s
    (v ≤ x.wr → exec (.doorbellWrite port q 0 v) s = .next (due .packetDispatch (loadHead q u))) ∧
    (x.wr < v → x.rd + qSlots x.desc.toNat < v → exec (.doorbellWrite port q 0 v) s = .next (queueError q 1 u)) ∧
    (x.wr < v → v ≤ x.rd + qSlots x.desc.toNat → let w := setQueueAt q { x with unwritten := false, wr := v } u
      ((x.hw ≠ none ∨ doorbellSlot w = none) → exec (.doorbellWrite port q 0 v) s = .next (due .packetDispatch (loadHead q w))) ∧
      ∀ h, x.hw = none → doorbellSlot w = some h →
        exec (.doorbellWrite port q 0 v) s = .next (due .packetDispatch (loadHead q (mapQueue q h w))))) ∧
  (∀ (s : State) (q h : Nat), let t := mapQueue q h s
    queueOf t q = { queueOf s q with hw := some h, idleAt := s.time } ∧
    (∀ k, k ≠ q → queueOf t k = if (queueOf s k).hw = some h then { queueOf s k with hw := none } else queueOf s k) ∧
    t = { s with queues := t.queues }) ∧
  (∀ (s : State) (port : Port) (v : Nat), Safety.Owns port s →
    exec (.queueSyncWrite port v) s = .next (readDesc (v % 65536) { s with mgmt := { s.mgmt with qSync := v % 65536 } }) ∧
    (v % 4194304 = 0 → exec (.queueTableWrite port v) s = .next { s with mgmt := { s.mgmt with qTable := v % 2 ^ 57 } }) ∧
    (v % 4194304 ≠ 0 → exec (.queueTableWrite port v) s = .next s)) ∧
  (∀ s : State,
    let stands (a : Nat × Queue) : Prop := a ∈ s.queues ∧ dispatchable s a.1 a.2 = true
    let late (a : Nat × Queue) : Prop := 4000000 ≤ a.2.waited ∧ ∀ t, smapFind s.mgmt.overrides (groupOf s a.2) = some t → t + 1000000 ≤ s.time
    let e (x : Queue) : Nat := if qPrio x.desc.toNat = 7 then 7
      else min (qPrio x.desc.toNat + x.waited / 250000) (min (qPrio x.desc.toNat + 3) 6)
    let longer (a b : Nat × Queue) : Prop := b.2.waited < a.2.waited ∨ b.2.waited = a.2.waited ∧ a.1 ≤ b.1
    (∀ x, effPrio x = e x) ∧ (∀ x, groupOf s x = x.hw.getD (winnerSlot s) / 16) ∧ (dispatchChoice s = none ↔ ∀ a, ¬ stands a) ∧
    ∀ (a : Nat × Queue) (forced : Bool), dispatchChoice s = some (a, forced) → stands a ∧ (forced = true ↔ ∃ b, stands b ∧ late b) ∧
      (forced = true → late a ∧ ∀ b, stands b → late b → longer a b) ∧
      (forced = false → ∀ b, stands b → e b.2 < e a.2 ∨ e b.2 = e a.2 ∧ longer a b)) ∧
  (∀ (s : State) (q : Nat) (x : Queue) (forced : Bool), dispatchChoice s = some ((q, x), forced) → queueOf s q = x →
    let s0 := if forced then { s with mgmt := { s.mgmt with overrides := smapPut s.mgmt.overrides (groupOf s x) s.time } } else s
    let s1 := if x.hw = none then mapQueue q (winnerSlot s0) s0 else s0
    ∃ t u, exec .packetDispatch s = .next t ∧ t = due .packetDispatch (due (packetEvent (packetNat (x.head.getD []) 0 1) q) (loadHead q u)) ∧
      u.packets = s.packets ++ [
        { queue := q, seq := x.seq, kind := packetNat (x.head.getD []) 0 1, dom := qDomain x.desc.toNat,
          priv := qPrio x.desc.toNat == 7, prio := if forced then 7 else effPrio x, body := x.head.getD [], done := 0, tag := none }] ∧
      queueOf u q = { queueOf s1 q with
        head := none, waited := 0, idleAt := s.time, flights := x.flights ++ [x.seq], seq := x.seq + 1 } ∧
      (∀ k, k ≠ q → queueOf u k = queueOf s1 k)) ∧
  (∀ (s : State) (h : Nat) (e : Nat × Queue), s.queues.find? (fun e => e.2.hw == some h) = some e → dispatchable s e.1 e.2 = false →
    e.2.idleAt + 2000000 ≤ s.time → exec (.slotIdleUnmap h) s = .next (setQueueAt e.1 { e.2 with hw := none } s))

/-- R239 to R243: the effects of the packets: a launch starts, or completes with status 0x41 where its field does not lie within the 24 by
24 cores (an extent of 0 is read so by log entry 89), a copy, a signal and a barrier complete, a paddock record is applied and a home change
begins; a privileged type on a queue that is not privileged completes with status 0x40 (R238, R243). -/
def Obligations.PacketsHaveTheirEffect : Prop :=
  (∀ (s : State) (q : Nat) (p : Packet), Safety.PacketReady s q 1 0x30 0xF false p →
    let u := dropPacket p s
    let side (off : Nat) : Nat := packetNat p.body off 1
    (side 0x1A = 0 ∨ side 0x1B = 0 ∨ 24 < side 0x18 + side 0x1A ∨ 24 < side 0x19 + side 0x1B →
      exec (.launchPacket q) s = .next (pokePackets q 1 (completePacket p (packetNat p.body 0x30 8) 0x41 u))) ∧
    ∀ o e, launchMisfit p.body = false → launchEntry u p = some (o, e) → e.budget ≤ (launchFrom u p o e).b →
      (∃ c ∈ fieldCores (launchFrom u p o e), emptyFits u (launchFrom u p o e) c = true) →
      exec (.launchPacket q) s = .next (pokePackets q 1 (startLaunch p (packetNat p.body 0x30 8) o e u)) ∧
      ((∀ b ∈ e.binds, b.form ≠ 0) → (startLaunch p (packetNat p.body 0x30 8) o e u).launches =
        u.launches ++ [{ launchFrom u p o e with recs := [] }])) ∧
  (∀ (s : State) (q : Nat) (p : Packet), Safety.PacketReady s q 2 0x20 0 false p →
    let u := dropPacket p s
    let f (off : Nat) : Nat := packetNat p.body off 8
    ∀ t acc, deviceCopy { dom := p.dom, priv := true, core := Config.coreCount } (f 0x18 - p.done) (f 8 + p.done) (f 0x10 + p.done)
        u = (t, acc, .ended) →
      exec (.copyPacket q) s = .next (pokePackets q 2 (completePacket p (f 0x20) 0 (clearCovered acc.1 (leaseStamps none acc.2.1 t))))) ∧
  (∀ (s : State) (q : Nat) (p : Packet), Safety.PacketReady s q 3 0x30 0 false p → (∀ k < 5, packetNat p.body (8 + 8 * k) 8 % 8 = 0) →
    exec (.barrierAndPacket q) s = .next (pokePackets q 3 (completePacket p (packetNat p.body 0x30 8) 0 (dropPacket p s)))) ∧
  (∀ (s u v : State) (q old : Nat) (p : Packet), Safety.PacketReady s q 4 0x18 1 false p → packetNat p.body 8 8 % 8 = 0 →
    deviceReadNat p.dom true (packetNat p.body 8 8) 8 (dropPacket p s) = (u, some old) →
    deviceWrite p.dom true (packetNat p.body 8 8) (leBytes 8 (if (packetNat p.body 0 4).testBit 16 then
      (old + 2 ^ 64 - packetNat p.body 0x10 8) % 2 ^ 64 else packetNat p.body 0x10 8)) u = (v, true) →
    exec (.signalPacket q) s =
      .next (pokePackets q 4 (due .packetDispatch (completePacket p (packetNat p.body 0x18 8) 0 v)))) ∧
  (∀ (s : State) (q : Nat) (p : Packet), Safety.PacketReady s q 5 0x30 0 true p →
    let u := dropPacket p s
    let r := packetNat p.body 64 64
    let sig := packetNat p.body 0x30 8
    (∀ st, recRefusal u (packetActs p) r = some st → exec (.paddockPacket q) s = .next (pokePackets q 5 (completePacket p sig st u))) ∧
    (recRefusal u (packetActs p) r = none → exec (.paddockPacket q) s =
      .next (pokePackets q 5 (installRecord r (some { queue := q, seq := p.seq, dom := p.dom, va := sig }) u)))) ∧
  (∀ (s : State) (q x pa : Nat) (p : Packet), Safety.PacketReady s q 6 0x30 0 true p →
    let u := dropPacket p s
    let va := packetNat p.body 8 8
    let dom := packetNat p.body 0x10 8
    let y := packetNat p.body 0x18 16
    va < 2 ^ 57 → dom < 1024 → packetActs p dom = true → y.testBit 0 = true → leafBad y (3 - leafSize y) = false → leafOwner y = dom →
    (∀ h ∈ u.homeChanges, h.dom ≠ dom ∨ h.va ≠ va) → leafOf u dom va = some (x, pa) → leafSize x = leafSize y →
    va % pageSize (leafSize x) = 0 →
    exec (.homeChangePacket q) s = .next (pokePackets q 6 (due (.homeChangeComplete dom va)
      { u with homeChanges := u.homeChanges ++ [
          { dom := dom, va := va, leaf := BitVec.ofNat 128 y, queue := q, seq := p.seq, signal := packetNat p.body 0x30 8,
            qdom := p.dom }] }))) ∧
  ∀ (s : State) (q : Nat) (p : Packet), p.priv = false →
    (nextPacket s q 5 = some p → exec (.paddockPacket q) s =
      .next (pokePackets q 5 (completePacket p (packetNat p.body 0x30 8) 0x40 (dropPacket p s)))) ∧
    (nextPacket s q 6 = some p → exec (.homeChangePacket q) s =
      .next (pokePackets q 6 (completePacket p (packetNat p.body 0x30 8) 0x40 (dropPacket p s))))

/-! ### Workgroups -/

/-- R61, R247, R248: an admission gives the launch's next workgroup its core: its flocks stand at the launch's entry with all 32 threads,
the launch's arguments in their s registers and every other v and s register 0. R251, R256, R275, R361, R362, R364 to R367: a workgroup
whose flocks have retired completes, and the last completion ends its launch; a stopped workgroup is saved and leaves its core, after what
its held instructions can still do, and the device keeps those that still wait (log entry 13); a saved one is restored from its frame; a
drain ends, with its save where no resize is awaited (R51, log entry 44); each 100 µs the drover pre-empts. -/
def Obligations.WorkgroupsComeAndGo : Prop :=
  (∀ (s : State) (launch core : Nat) (place : List Place), let l := launchOf s launch
    l.num = launch → nextCore s l = some core → place.length = l.f → placesFree (blocksOf l.b) place (takenPlaces s core) = true →
    ∃ t, exec (.workgroupAdmission launch core place) s = .next t ∧
      (∃ w, t.wgs = s.wgs ++ [w] ∧ w.launch = launch ∧ w.index = l.next ∧ w.core = core ∧ w.phase = .resident ∧ w.wn = l.wn ∧
        w.window = [] ∧ w.trap = none ∧ w.slots = place.map (·.slot)) ∧
      launchOf t launch = { l with narrow := some (l.narrow.getD s.mgmt.narrow), next := l.next + 1, lastCore := some core, waits := s.fresh } ∧
      (∀ k p, place[k]? = some p → let f := flockAt t core p.slot
        f.launch = launch ∧ f.wg = l.next ∧ f.index = k ∧ f.budget = l.b ∧ f.octet = p.octet ∧ f.block = p.block ∧
        (∀ n < 16, getS f n = l.args.getD n 0) ∧ (∀ n, 16 ≤ n → getS f n = 0) ∧ (∀ th n, getV f th n = 0) ∧ (∀ n, n ≠ 7 → getP f n = 0) ∧
        f.status = (if l.narrow.getD s.mgmt.narrow then 0x8000 else 0) ∧ f.exited = 0 ∧ f.path1 = none ∧ f.stack = [] ∧
        ∃ off, f.path0 = some (pathAt off (BitVec.allOnes 32)) ∧ ∀ e, entryOf s l = some e → off = e.off) ∧
      (∀ c n, (c ≠ core ∨ ∀ p ∈ place, p.slot ≠ n) → flockAt t c n = flockAt s c n) ∧ t.mem = s.mem) ∧
  ((∀ (s : State) (launch wg : Nat) (l : Launch), s.launches.find? (fun x => x.num == launch) = some l →
    let w := wgOf s launch wg
    w.phase = .resident → w.slots = [] → handlesSettled s w = true →
    ∃ t, exec (.workgroupCompletion launch wg) s = .next t ∧ (wgOf t launch wg).phase = .done ∧
      (launchOf t launch).completed = l.completed ++ [wg] ∧
      (l.stop = none → l.n ≤ (launchOf t launch).reported → (launchOf t launch).ended = true)) ∧
  (∀ (s : State) (launch wg c : Nat), let w := wgOf s launch wg
    w.phase = .stopping c → controls s w = false →
    let u := performAll w s
    ((∀ h ∈ s.held, h.core ≠ w.core ∨ h.slot ∉ w.slots) → u = s) ∧
    exec (.workgroupSave launch wg) s = .next (if awaitsResize u (wgOf u launch wg) then u else saveWg launch wg u)) ∧
  (∀ (s : State) (launch wg c : Nat), (wgOf s launch wg).phase = .stopping c →
    let t := saveWg launch wg s
    (wgOf t launch wg).slots = [] ∧ onCore (wgOf t launch wg) = false ∧
    (wgOf t launch wg).keptHeld = (wgOf s launch wg).slots.flatMap (heldBy s (wgOf s launch wg).core)) ∧
  (∀ (s u : State) (launch wg : Nat) (place : List Place) (h : List Byte), let w := wgOf s launch wg
    beginRestore (launchOf s launch) w place s = (u, some h) →
    (w.spatial = false → exec (.workgroupRestore launch wg place) s = .next (restoreWg (launchOf s launch) w h place none u)) ∧
    (w.spatial = true → ∀ (u1 u2 : State) (b x : List Byte) (i : Image), let l := launchOf s launch
      getPiece l wg 0x1000 0xF000 u = (u1, some b) → deviceRead l.dom l.priv (fieldOf b 8 4) (fieldOf b 0 8) u1 = (u2, some x) →
      imgNat x 12 4 = fieldOf b 8 4 → parseImage x (fieldOf b 8 4) = some i →
      fabricFits u2 w.core l place i (fun q => bits (fieldOf b (0x1840 + 4 * q) 4) 11 0) = true →
      let live := (List.range l.f).filter fun i => w.keptSlots.any fun x => x.1 == i
      let slot := (((live.zip place).find? fun x => x.1 == fieldOf b 12 1).map fun x => x.2.slot).getD 0
      exec (.spatialRestore launch wg place) s = .next (restoreWg l w h place
        (some (fabricFrom i (fieldOf b 0 8) (fieldOf b 8 4) slot b w.keptCmds)) u2))) ∧
  (∀ (s : State) (core : Nat) (f g : Fabric), (coreAt s core).fabric = some f → drainOver s f = true →
    let s0 := performAll (wgOf s (controlFlock s core f).launch (controlFlock s core f).wg) s
    awaitsResize s0 (wgOf s0 (controlFlock s core f).launch (controlFlock s core f).wg) = false →
    let ls := List.range f.ops.length
    let s1 := mapFabric core landTokens (ls.foldl (fun s l => streamCompletes core l s) s0)
    (coreAt s1 core).fabric = some g →
    let s2 := divideCmds core g (ls.foldl (stuckLane core g false) (ls.foldl (stuckLane core g true) s1))
    let k := controlFlock s2 core g
    exec (.spatialDrainEnd core) s = .next (match (wgOf s2 k.launch k.wg).phase with
      | .stopping _ => saveWg k.launch k.wg s2
      | _ => s2)) ∧
  ∀ s : State, s.quantum < s.time / 100000 →
    exec .quantumBoundary s = .next (((s.launches.filter running).foldl (fun r l => byPrio l r) []).foldl
      (fun s l => preemptFor (100000 * (s.time / 100000 - 1)) s l) { s with quantum := s.time / 100000 }))

/-- R257, R258, R359, R378: the fault ring takes the entries held back once it has room; a resumed entry lets what waited for its page go
on, but for a copy of a workgroup that has met a trap, or whose launch has stopped, where it is ignored; the watchdog traps a workgroup that
is blocked, or runs, beyond its limit (0x3F), once in a residence. -/
def Obligations.FaultsResumeAndWatchdogsTrap : Prop :=
  (∀ (s : State) (port : Port) (v : Nat), Safety.Owns port s →
    exec (.faultRingWrite port v) s = .next (pokeFaults { s with mgmt := { s.mgmt with faultRing := bits v 56 12 } })) ∧
  (∀ (s : State) (e : FaultEntry), s.faults.find? (fun e => !e.written) = some e → ringOpen s = true →
    exec .faultEntryDeferredWrite s = .next (pokeFaults (writeFault e s))) ∧
  (∀ (s : State) (port : Port) (v : Nat) (e : FaultEntry), fwReady s = true → v < 2 ^ 33 →
    s.faults.find? (fun e => e.tag == v % 2 ^ 32 && e.written) = some e →
    let u := { s with faults := s.faults.filter (fun x => x.tag != v % 2 ^ 32), mgmt := { s.mgmt with faultResume := v } }
    let fail := decide (2 ^ 32 ≤ v)
    exec (.faultResumeWrite port v) s = .next (pokeFaults (match e.who with
      | .wg l k => resumePage l k (v % 2 ^ 32) fail e.rcd u
      | .copy core h => resumeCopy core h (v % 2 ^ 32) e.va fail u
      | .mcast uid => resumeMcast uid e.va fail u
      | .packet q n => resumePacket q n fail u
      | .held l k => resumeHeld l k fail u))) ∧
  (∀ (s : State) (l k tag : Nat) (rcd : Option TrapRec), (wgOf s l k).phase = .saved 2 → tag ∈ (wgOf s l k).tags →
    let t := resumePage l k tag false rcd s
    (wgOf t l k).tags = setErase (wgOf s l k).tags tag ∧
    (wgOf t l k).phase = (if setErase (wgOf s l k).tags tag = [] then .resumed s.fresh else .saved 2) ∧ t.mem = s.mem ∧ t.cores = s.cores) ∧
  (∀ (s : State) (core h tag va : Nat) (fail : Bool), waitsOn tag (handleAt s core h) = false →
    (∀ w ∈ s.wgs, w.core = core → waitsOn tag (smapGet emptyHandle w.keptJobs h) = true →
      w.phase = .stopped ∨ (w.trap.isSome = true ∧ w.holding = false)) → resumeCopy core h tag va fail s = s) ∧
  ∀ (s : State) (launch wg : Nat), let w := wgOf s launch wg
    let u := updWg w.launch w.index (fun w => { w with watched := true }) s
    (blockedOut s w = true → w.watched = false → ∃ r, r.cause = 0x3F ∧ r.detail.extractLsb' 0 8 = 1 ∧
      exec (.watchdogBlockedLimit launch wg) s = .next (trapAt w.launch w.index r u)) ∧
    (ranOut s w = true → w.watched = false → ∃ r, r.cause = 0x3F ∧ r.detail.extractLsb' 0 8 = 2 ∧
      exec (.watchdogRunLimit launch wg) s = .next (trapAt w.launch w.index r u)) ∧
    (w.watched = true → exec (.watchdogBlockedLimit launch wg) s = .next s ∧ exec (.watchdogRunLimit launch wg) s = .next s)

/-! ### Management -/

/-- R26, R27, R32, R33, R35, R36: the configuration has one owner at a time: a read of CFG_OWN is answered at once while there is one and
decided at the end of the tick while there is none, by turns where both ports read; whatever lets TIMEBASE move on ends the tick first; the
owner's write of 0, or the loss of its link, ends ownership. Speed settings are the owner's to write, and each island's clock follows the
slowest of them. An island owes a mode down for each 1 ms that its sensor has been above 100 °C and a mode up for each 10 ms below 90 °C,
and owes the stop of the module above 110 °C in Cool mode; its thermal events pay what it owes, and one that is not owed has no effect. The
model's choices: a lowered step stays while the sensor is between 90 and 100 °C (log entry 60); a step rises only where the slower of the
other two settings is faster than it, and has no effect otherwise (log entry 61); ISLAND_NOW shows a changed mode only after its clock
switch, and a stop of the module bars dispatch alone (log entry 79). R20: of the devices that a CXL port enumerates, one of type 3 is
enabled, and the port's status tells of any other. -/
def Obligations.OwnershipAndSpeedFollowTheirRules : Prop :=
  (∀ (s : State) (p : Port),
    (s.mgmt.owner ≠ none → ∃ t, exec (.cfgOwnRead p) s = .next t ∧ (portRegs t p).out = cfgOwn s p ∧ t.mgmt = s.mgmt) ∧
    (s.mgmt.owner = none → ∃ t, exec (.cfgOwnRead p) s = .next t ∧ (portRegs t p).reading = true ∧ .cfgOwnTickDecision ∈ t.todo ∧
      t.mgmt = s.mgmt)) ∧
  (∀ (s : State), s.mgmt.owner = none → (s.portA.reading = true ∨ s.portB.reading = true) →
    ∃ t, exec .cfgOwnTickDecision s = .next (elapse 1 t) ∧ (∀ ns, ns ≠ 0 → elapse ns s = elapse ns t) ∧
      let p := if s.portA.reading ∧ (s.portB.reading = false ∨ s.mgmt.lastGrant ≠ some .portA) then Port.portA else Port.portB
      t.mgmt = { s.mgmt with owner := some p, lastGrant := some p, grants := (s.mgmt.grants + 1) % 256, refused := 0, lapse := false } ∧
      ∀ q, (portRegs t q).reading = false ∧ ((portRegs s q).reading = true → (portRegs t q).out = cfgOwn t q)) ∧
  (∀ (s : State) (p : Port), s.mgmt.owner = some p →
    (∀ v, v % 4 = 0 → exec (.cfgOwnWrite p v) s = .next { s with mgmt := { s.mgmt with owner := none, lapse := false } }) ∧
    (∀ v, v % 4 ≠ 0 → exec (.cfgOwnWrite p v) s = .next s) ∧ (∀ v, exec (.cfgOwnWrite (otherPort p) v) s = .next s) ∧
    ∃ t, exec (.portLinkLoss p) s = .next t ∧ .ownershipLapse ∈ t.todo ∧ t.mgmt = { s.mgmt with lapse := true }) ∧
  (∀ s : State, s.mgmt.lapse = true →
    exec .ownershipLapse s = .next { s with mgmt := { s.mgmt with owner := none, lapse := false } }) ∧
  (∀ (s : State) (p : Port) (v : Nat), Safety.Owns p s →
    (v % 4 ≠ 3 → exec (.pwrModeWrite p v) s =
      .next (pokeSpeed { s with mgmt := { s.mgmt with speed := speedOf (v % 4), narrow := v.testBit 2 } })) ∧
    ∀ upper, ∃ t, exec (.islandLimitWrite p upper v) s = .next (pokeSpeed t) ∧ t = { s with mgmt := { s.mgmt with limits := t.mgmt.limits } } ∧
      ∀ i < 32, (v / 4 ^ i % 4 ≠ 3 → limitOf t ((if upper then 32 else 0) + i) = speedOf (v / 4 ^ i % 4)) ∧
        (v / 4 ^ i % 4 = 3 → limitOf t ((if upper then 32 else 0) + i) = limitOf s ((if upper then 32 else 0) + i)) ∧
        limitOf t ((if upper then 0 else 32) + i) = limitOf s ((if upper then 0 else 32) + i)) ∧
  (∀ (s : State) (i : Nat), i < 64 →
    let has := (thermalOf s i).code
    let owed := (owedStep s i).code
    let others := (slower s.mgmt.speed (limitOf s i)).code
    let t := latchIsland s i
    (∀ k, 10000 < sensorOf s i → smapGet 0 s.mgmt.hotSince i + 1000000 * k ≤ s.time → min 2 (owed + k) ≤ (owedStep t i).code) ∧
    (sensorOf s i < 9000 → has ≤ owed → others < owed →
      (owedStep t i).code = owed - min ((s.time - smapGet 0 s.mgmt.coolSince i) / 10000000) (owed - others)) ∧
    (9000 ≤ sensorOf s i → sensorOf s i ≤ 10000 → has ≤ owed → owedStep t i = owedStep s i) ∧
    (11000 < sensorOf s i → effectiveSpeed s i = .cool → has ≤ owed → s.mgmt.thermalStop = false → i ∈ t.mgmt.stops) ∧
    (has < owed → exec (.thermalStepDown i) s = .next (setThermal i (speedOf (has + 1)) s)) ∧
    (owed ≤ has → exec (.thermalStepDown i) s = .next s) ∧
    (owed < has → others < has → exec (.thermalStepUp i) s = .next (setThermal i (speedOf (has - 1)) s)) ∧
    (has ≤ owed ∨ has ≤ others → exec (.thermalStepUp i) s = .next s) ∧
    (i ∈ s.mgmt.stops → exec (.thermalStop i) s =
      .next { s with mgmt := { s.mgmt with thermalStop := true, thermalEvent := true, stops := [] } }) ∧
    (i ∉ s.mgmt.stops → exec (.thermalStop i) s = .next s) ∧
    ∃ t, exec (.islandClockSwitch i) s = .next t ∧ speedNow t i = effectiveSpeed s i ∧ (∀ j, j ≠ i → speedNow t j = speedNow s j) ∧
      t = { s with mgmt := { s.mgmt with now := t.mgmt.now } }) ∧
  ∀ (s : State) (n d : Nat), n < 8 → exec (.cxlDeviceEnumeration n d) s =
    .next { s with mgmt := { s.mgmt with cxl := smapPut s.mgmt.cxl n (if d = 3 then 1 else 2) } }

/-- R21, R22, R35, R37, R335: a configuration register takes the owner's write alone, and another's is counted; an aperture reads and writes
the memory of domain 0, and a read that fails gives all ones; an invalidation drops the cached translations of its range and is done once
the domain's requests and accesses to the range that were open, and the lines that writes through its translations, held or dropped before,
left in Updating, are; what is held at its core has accessed nothing and is not waited for (log entry 8). R370: a write that comes poisoned
poisons the sectors it reaches, entered as kind 1 with unit 0xFFFF, which is the model's choice (log entry 66). -/
def Obligations.WindowAccessesTakeEffect : Prop :=
  (∀ (s : State) (p : Port) (v : Nat), fwReady s = true → s.mgmt.owner ≠ some p → ∀ off, off ∈ [0x60, 0x400, 0x410, 0x428] →
    exec (.configRegisterWrite p off v) s = .next { s with mgmt := { s.mgmt with refused := min (2 ^ 16 - 1) (s.mgmt.refused + 1) } }) ∧
  (∀ (s : State) (p : Port) (v : Nat), Safety.Owns p s →
    exec (.configRegisterWrite p 0x60 v) s = .next { s with mgmt := { s.mgmt with apBase := bits v 56 36 } } ∧
    exec (.configRegisterWrite p 0x400 v) s = .next { s with mgmt := { s.mgmt with runMs := bits v 63 32, blockedUs := bits v 31 0 } } ∧
    exec (.configRegisterWrite p 0x410 v) s = .next { s with mgmt := { s.mgmt with errRing := bits v 56 12 } } ∧
    exec (.configRegisterWrite p 0x428 v) s = .next { s with mgmt := { s.mgmt with hold := decide (v % 2 = 1) } }) ∧
  (∀ (s u : State) (p : Port) (off n x : Nat), n ∈ [1, 2, 4, 8] → off % n = 0 → off + n ≤ 2 ^ 36 →
    let va := s.mgmt.apBase * 2 ^ 36 + off
    (devicePage 0 true .read va s = (u, some x) →
      let out := loadBytes none x va n (verifyElement x va n u)
      exec (.apertureRead p off n) s = .next (setPort p
        { portRegs out.1 p with out := leNat out.2, outFailed := false, outPoisoned := elementBad out.1 x va n } out.1)) ∧
    (devicePage 0 true .read va s = (u, none) → ∃ t, exec (.apertureRead p off n) s = .next t ∧ (portRegs t p).out = 256 ^ n - 1 ∧
      (portRegs t p).outFailed = true ∧ (portRegs t p).apFailures = min 0xFFFF ((portRegs u p).apFailures + 1))) ∧
  (∀ (s u : State) (p : Port) (off : Nat) (d : List Byte), d.length ∈ [1, 2, 4, 8, 32, 64] → off % d.length = 0 →
    off + d.length ≤ 2 ^ 36 →
    let va := s.mgmt.apBase * 2 ^ 36 + off
    (deviceWrite 0 true va d s = (u, true) → exec (.apertureWrite p off { bytes := d, poisoned := false }) s = .next u) ∧
    (∀ (v : State) (x : Nat), deviceWrite 0 true va d s = (u, true) → devicePage 0 true .write va u = (v, some x) →
      exec (.apertureWrite p off { bytes := d, poisoned := true }) s =
        .next ((sectorsOf (leafLoc x va) d.length).foldl (poisonSector 1 0xFFFF (leafOwner x)) v)) ∧
    ∀ b, deviceWrite 0 true va d s = (u, false) → exec (.apertureWrite p off { bytes := d, poisoned := b }) s = .next (apertureFails p u)) ∧
  (∀ (s : State) (p : Port) (v : Nat), fwReady s = true → (portRegs s p).tlbBusy = none →
    ∃ t, exec (.tlbInvGoWrite p v) s = .next t ∧ .tlbInvalidationDone p ∈ t.todo ∧ (portRegs t p).tlbBusy.isSome = true ∧
      (portRegs t p).tlbGo = v % 1024 ∧
      (portRegs t p).tlbHeld = usersOf (v % 1024) (bits (portRegs s p).tlbVa.toNat 56 16) (bits (portRegs s p).tlbVa.toNat 15 0) s ∧
      ∀ e, e ∈ t.tlb ↔ e ∈ s.tlb ∧ ¬(e.dom = v % 1024 ∧ (bits (portRegs s p).tlbVa.toNat 15 0 = 0 ∨
        (e.va < (bits (portRegs s p).tlbVa.toNat 56 16 + bits (portRegs s p).tlbVa.toNat 15 0) * 65536 ∧
          bits (portRegs s p).tlbVa.toNat 56 16 * 65536 < e.va + e.size))) ∧ t.mem = s.mem) ∧
  (∀ (s : State) (dom first count : Nat), let a := usersOf dom first count s
    let hit (u : Nat) : Prop := count = 0 ∨ (first ≤ u ∧ u < first + count) ∨
      ∃ e ∈ s.tlb ++ s.dropped, tlbHit dom first count e = true ∧ e.va ≤ u * 65536 ∧ u * 65536 < e.va + e.size
    (∀ n, n ∈ a.uids ↔ (∃ r ∈ s.feQueue ++ s.feRetry, r.uid = n ∧ (launchOf s (flockAt s r.core r.slot).launch).dom = dom ∧
        hit (r.va / 65536)) ∨ ∃ x ∈ openAccesses s dom, x.1 = n ∧ ∃ u ∈ x.2, hit u) ∧
    ∀ l, l ∈ a.lines ↔ ∃ x ∈ s.lines, (x.pad, x.base) = l ∧ x.st = .updating ∧
      ∃ e ∈ s.tlb ++ s.dropped, tlbHit dom first count e = true ∧ leadsTo x.base e = true) ∧
  ∀ (s : State) (p : Port), (portRegs s p).tlbBusy ≠ none → (portRegs s p).tlbNext = [] →
    let held := (portRegs s p).tlbHeld
    (∀ r ∈ s.feQueue ++ s.feRetry, r.uid ∉ held.uids) →
    (∀ n ∈ openAccesses s ((portRegs s p).tlbBusy.getD (0, 0, 0)).1, n.1 ∉ held.uids) →
    (∀ l ∈ held.lines, ∀ x, findLine s l.1 l.2 = some x → x.st ≠ .updating) →
    ∃ t, exec (.tlbInvalidationDone p) s = .next t ∧ (portRegs t p).tlbBusy = none ∧
      (portRegs t p).tlbDone = ((portRegs s p).tlbDone + 1) % 2 ^ 64 ∧ t.mem = s.mem

/-- R231, R369 to R374: a corrected error counts and changes nothing else; an uncorrectable error poisons the sector at its home, or traps
the workgroup whose state it is in (0x1A, source 2), and one in window data counts against a core bank, which the model leaves free (log
entry 84); a lost agent poisons its line: the held line, which is gone, or where none is held the 128 bytes about the location, which is the
model's choice (log entry 66); data over CXL is written at its home, and marked where it comes poisoned: that the mark is entered as kind 1
with unit 0xFFFF is the model's choice (log entry 66). -/
def Obligations.ErrorsPoisonOrTrap : Prop :=
  (∀ s : State, exec .correctedError s =
    .next { s with mgmt := { s.mgmt with errCorrected := min (2 ^ 32 - 1) (s.mgmt.errCorrected + 1) } }) ∧
  (∀ (s : State) (loc : Nat) (tag : Bool), exec (.uncorrectableMemoryError loc none tag) s =
    .next (poisonSector 1 0xFFFF (locOwner s loc) s (loc / 32))) ∧
  (∀ (s : State) (loc b : Nat), b < 16128 →
    exec (.uncorrectableMemoryError loc (some b) true) s = .next (failBank b s) ∧
    exec (.uncorrectableMemoryError loc (some b) false) s =
      .next (countBankError b (poisonSector 2 b (locOwner s loc) s (loc / 32)))) ∧
  (∀ (s : State) (kind unit owner sec x : Nat), isPoisoned (poisonSector kind unit owner s sec) x = true ↔
    x = sec ∨ isPoisoned s x = true) ∧
  (∀ (s : State) (core slot unit : Nat), let f := flockAt s core slot
    f.launch ≠ 0 → 1 ≤ unit → unit ≤ 5 → findWg s f.launch f.wg ≠ none → ∃ r, r.cause = 0x1A ∧ r.detail.extractLsb' 0 8 = 2 ∧
      let t := errEntryFor (some (f.launch, f.wg)) 6 (wgOf s f.launch f.wg).core (launchOf s f.launch).dom 0 f.launch (trapAt f.launch f.wg r s)
      exec (.uncorrectableCoreStateError core slot unit) s = .next (if unit = 4 then countWindowError (wgOf s f.launch f.wg) t else t)) ∧
  (∀ (s : State) (loc : Nat),
    (lineOver s loc = none → exec (.agentLoss loc) s = .next (noteLost (loc / 128 * 128) 128
      ([loc / 128 * 4, loc / 128 * 4 + 1, loc / 128 * 4 + 2, loc / 128 * 4 + 3].foldl (poisonSector 4 0xFFFF (locOwner s loc)) s))) ∧
    ∀ l, lineOver s loc = some l → ∃ t, exec (.agentLoss loc) s = .next t ∧ t.lines = (dropLine l.pad l.base s).lines ∧ t.mem = s.mem ∧
      ∀ x, isPoisoned t x = true ↔ (l.base / 32 ≤ x ∧ x ≤ (l.base + l.data.length - 1) / 32) ∨ isPoisoned s x = true) ∧
  ∀ (s : State) (pa : Nat) (d : List Byte), let t := clearCovered [(pa, d.length)] (physWrite pa d s)
    exec (.writeArrivingOverCxl pa d false) s = .next t ∧
    exec (.writeArrivingOverCxl pa d true) s = .next ((sectorsOf pa d.length).foldl (poisonSector 1 0xFFFF (locOwner t pa)) t)

/-- R37, R342 to R344: module reset keeps memory with its poison and check values, the boot flash, the fuse counter and the stepping, and
nothing else of the device's state (the schedule and the counter of free values are the model's own); then firmware reads the image in flash
(FW_STATUS is verifying) and starts where it verifies, with a root of domain 0 that the spec leaves to it; the fuse counter never falls.
That the reset keeps memory, the boot flash, the fuse counter and the stepping alone is the model's choice (log entry 68). R344: an image of
which a part is not staged is found not to be an image, or one of a wrong format; where staging begins and ends is the model's choice (log
entry 92). -/
def Obligations.ResetKeepsWhatPowerKeeps : Prop :=
  (∀ s : State, ∃ t, exec .moduleReset s = .next t ∧ t.mem = s.mem ∧ t.poison = s.poison ∧ t.lost = s.lost ∧
    t.sectorKeys = s.sectorKeys ∧ t.checks = s.checks ∧
    t = { State.reset with agenda := s.agenda, todo := t.todo, fresh := s.fresh, mem := s.mem, poison := s.poison, lost := s.lost,
                           sectorKeys := s.sectorKeys, checks := s.checks, mgmt := t.mgmt } ∧
    t.mgmt = { Mgmt.reset with stepping := s.mgmt.stepping, fuse := s.mgmt.fuse, flash := s.mgmt.flash, staging := s.mgmt.staging } ∧
    t.launches = [] ∧ t.wgs = [] ∧ t.cores = [] ∧ t.queues = [] ∧ t.paddocks = [] ∧ t.lines = [] ∧ t.tlb = [] ∧ t.objects = [] ∧
    t.time = 0 ∧ t.domains = [(0, 3)] ∧ .firmwareVerificationDone ∈ t.todo) ∧
  (∀ s : State, s.mgmt.fwState = 0 → ∃ t, exec .firmwareVerificationDone s = .next t ∧ .firmwareVerificationDone ∈ t.todo ∧
    t.mgmt = { s.mgmt with fwState := 1 } ∧ t.mem = s.mem) ∧
  (∀ s : State, s.mgmt.staging ≠ none → imageState s = 0x80 ∨ imageState s = 0x81) ∧
  ∀ s : State, s.mgmt.fwState = 1 → ∃ t, exec .firmwareVerificationDone s = .next t ∧ t.mgmt.fwState = imageState s ∧
    domRoot (domDesc t 0) = (if imageState s = 2 then domRoot (domDesc (setZeroDomain s) 0) else domRoot (domDesc s 0)) ∧
    s.mgmt.fuse ≤ t.mgmt.fuse ∧ t.mgmt.fwVersion = (if imageState s = 2 then flashNat s 6 1 else s.mgmt.fwVersion) ∧
    t.mgmt.fuse = (if imageState s = 2 ∧ flashNat s 7 1 = 1 then max s.mgmt.fuse (flashNat s 6 1) else s.mgmt.fuse)

/-- R328, R331, R337, R338, R341 to R350: the commands on domains, frames, keys, firmware, attestation, code objects and the translation
cache take effect, or end with the status that their rule gives. R340, R341: a command's end leaves its tag, its status and its result in
the mailbox of its port, which is free again; a code that is no command's is refused with status 0x81, and a command of a port that does not
own the configuration, where the command asks for it, with 0x80, counted as R36 counts. The other port's command, if it was accepted
meanwhile, is served next (R340). R331, R335, R346: a tear-down and a load end once the accesses that used the translations which they
dropped have come to their completion points. The model's choices: longer data than needed is accepted, and a command but for a tear-down
completes in one step (log entry 56); a new descriptor drops the domain's held translations without waiting, and what a tear-down does to
launches and granules (log entry 57); 0x82 for an owner above 1,023, a scrub field above 1 or a key that is not loaded (log entry 58);
object numbers, and the places of a translated object and its entry (log entry 62). -/
def Obligations.CommandsTakeEffectAndEnd : Prop :=
  (∀ (s : State) (p : Port) (c : Nat), let u := Safety.begun p c s
    let arg (off n : Nat) : Nat := mboxNat u p off n
    (Safety.CommandTaken p c 0x10 true 66 s → let d := arg 0 2
      (descRefused u d (arg 2 64) = true → exec (.setDomain p c) s = .next (endCmd p c 0x82 [] u)) ∧
      (descRefused u d (arg 2 64) = false → exec (.setDomain p c) s = .next (endCmd p c 0 []
        (due .packetDispatch (dropTlb d 0 0 { u with domains := smapSet 0 u.domains d (BitVec.ofNat 512 (arg 2 64)) }))))) ∧
    (Safety.CommandTaken p c 0x11 true 2 s → let d := arg 0 2
      d ≠ 0 → d < 1024 →
      let v := stopDomain d { u with domains := smapSet 0 u.domains d (smapGet 0 u.domains d &&& ~~~1) }
      ((∀ l ∈ v.launches, l.dom = d → l.ended = true) → let w := clearDomain d v
        (commandDone w = true → exec (.tearDownDomain p c) s =
          .next (endCmd p c 0 [] (setMgmt (fun m => { m with answer := none, awaited := { uids := [], lines := [] } }) (freeGranules d w)))) ∧
        (commandDone w = false → exec (.tearDownDomain p c) s = .next w)) ∧
      ((∃ l ∈ v.launches, l.dom = d ∧ l.ended = false) → exec (.tearDownDomain p c) s = .next v)) ∧
    (Safety.CommandTaken p c 0x12 true 15 s → arg 0 8 % 65536 = 0 → arg 12 2 < 1024 → arg 14 1 ≤ 1 → (arg 14 1 = 1 → 16 ≤ cmdLength c) →
      ∀ key, keyOf u (if arg 14 1 = 1 then arg 15 1 else 0) = some key →
      (∀ k < arg 8 4, granuleKept u (arg 12 2) (arg 0 8 + 65536 * k) = false) →
      let v := if arg 14 1 = 1 then scrubRange (arg 0 8) (65536 * arg 8 4) key u else u
      exec (.assignFrames p c) s = .next (endCmd p c 0 [] { v with frames := (List.range (arg 8 4)).foldl (fun m k =>
        smapSet 0 m (arg 0 8 / 65536 + k) (BitVec.ofNat 16 (0x8000 + arg 12 2))) v.frames })) ∧
    (Safety.CommandTaken p c 0x12 true 15 s →
      arg 0 8 % 65536 ≠ 0 ∨ 1024 ≤ arg 12 2 ∨ 1 < arg 14 1 ∨ (arg 14 1 = 1 ∧ (cmdLength c < 16 ∨ keyOf u (arg 15 1) = none)) →
      exec (.assignFrames p c) s = .next (endCmd p c 0x82 [] u)) ∧
    (Safety.CommandTaken p c 0x13 true 67 s → keyOf u (arg 0 1) ≠ none ∨ 1024 ≤ arg 1 2 →
      exec (.loadKey p c) s = .next (endCmd p c 0x82 [] u)) ∧
    (Safety.CommandTaken p c 0x14 true 1 s → smapFind u.keys (arg 0 1) = none →
      exec (.eraseKey p c) s = .next (endCmd p c 0x82 [] u)) ∧
    (Safety.CommandTaken p c 0x13 true 67 s → keyOf u (arg 0 1) = none → arg 1 2 < 1024 →
      exec (.loadKey p c) s = .next (endCmd p c 0 [] { u with
        keys := smapPut u.keys (arg 0 1) { owner := arg 1 2, material := BitVec.ofNat 512 (arg 3 64) } })) ∧
    (Safety.CommandTaken p c 0x14 true 1 s → smapFind u.keys (arg 0 1) ≠ none →
      exec (.eraseKey p c) s = .next (endCmd p c 0 [] { u with keys := smapDel u.keys (arg 0 1) })) ∧
    (Safety.CommandTaken p c 0x20 false 32 s → let r := reportBytes u (mboxBytes u p 0 32)
      exec (.attest p c) s = .next (endCmd p c 0
        (r ++ leBytes 64 (Config.identitySign r).toNat ++ ((objectList u).take 51).flatMap objectItem) u)) ∧
    (Safety.CommandTaken p c 0x30 true 4 s → exec (.stageFirmware p c) s = .next (endCmd p c 0 []
      (stageChunk (arg 0 4) (mboxBytes u p 4 (cmdLength c - 4)) u)) ∧
      (stageChunk (arg 0 4) (mboxBytes u p 4 (cmdLength c - 4)) u).mgmt.flash =
        putBytes u.mgmt.flash (arg 0 4) (mboxBytes u p 4 (cmdLength c - 4))) ∧
    (Safety.CommandTaken p c 0x31 false 0 s →
      exec (.checkStagedImage p c) s = .next (endCmd p c 0 (leBytes 8 (imageState u + 256 * flashNat u 6 1)) u)) ∧
    (Safety.CommandTaken p c 0x40 true 15 s → arg 0 2 < 1024 → ∀ v b, objectRead (arg 0 2) (arg 11 4) (arg 3 8) u = (v, some b) →
      (∀ st, loadStatus v (arg 0 2) (arg 3 8) b = st → st ≠ 0 → exec (.loadCodeObject p c) s = .next (endCmd p c st [] v)) ∧
      (loadStatus v (arg 0 2) (arg 3 8) b = 0 → let t := installObject (arg 0 2) (arg 3 8) (decide (arg 2 1 % 2 = 1)) false b v
        exec (.loadCodeObject p c) s = .next (finishCmd p c (0, leBytes 2 t.2) t.1))) ∧
    (Safety.CommandTaken p c 0x41 true 4 s → ∀ o, u.objects.find? (fun o => o.dom == arg 0 2 && o.number == arg 2 2) = some o →
      exec (.unloadCodeObject p c) s = .next (endCmd p c 0 [] (unloadIdle o.num
        { u with objects := updFirst (fun x => x.num == o.num) (fun x => { x with retiring := true }) u.objects }))) ∧
    (Safety.CommandTaken p c 0x42 true 14 s → arg 0 2 < 1024 → ∀ v src, objectRead (arg 0 2) (arg 10 4) (arg 2 8) u = (v, some src) →
      v.mgmt.fuse ≤ Config.frazonVersion src → domCacheMaps v (arg 0 2) = false → ∃ w st r,
      translateMiss (arg 0 2) (Config.frazonVersion src) (Config.frazonFeatures src).toNat src (digestBytes src) none v = (w, some (st, r)) ∧
      exec (.translatePortableObject p c) s = .next (finishCmd p c (st, r) w)) ∧
    (Safety.CommandTaken p c 0x43 true 12 s → (∃ k ≤ 20, arg 8 4 = 2 ^ k) →
      exec (.setTranslationCache p c) s = .next (if Config.inPooledTier (arg 0 8) = true
        then endCmd p c 0 [] { u with mgmt := { u.mgmt with txBase := arg 0 8, txSlots := arg 8 4 } } else endCmd p c 0x82 [] u))) ∧
  ((∀ (s : State) (p : Port) (c st : Nat) (r : List Byte), let t := endCmd p c st r s
    (portRegs t p).mbox.run = none ∧ (portRegs t p).mbox.tag = bits c 63 32 ∧ (portRegs t p).mbox.status = st ∧
    (∀ k < r.length, smapGet 0 (portRegs t p).mbox.data k = r.getD k 0) ∧ t.mem = s.mem ∧
    ((portRegs s (otherPort p)).mbox.run = none → t.mgmt = { s.mgmt with serving := none }) ∧
    ∀ d, (portRegs s (otherPort p)).mbox.run = some d →
      t.mgmt = { s.mgmt with serving := some (otherPort p) } ∧ cmdEvent (otherPort p) d ∈ t.todo) ∧
  (∀ (s : State) (p : Port) (c : Nat) (a : Nat × List Byte),
    let done : Prop := (∀ r ∈ s.feQueue ++ s.feRetry, r.uid ∉ s.mgmt.awaited.uids) ∧
      (∀ n ∈ openAccesses s s.mgmt.awaitDom, n.1 ∉ s.mgmt.awaited.uids) ∧
      ∀ l ∈ s.mgmt.awaited.lines, ∀ x, findLine s l.1 l.2 = some x → x.st ≠ .updating
    (done → finishCmd p c a s =
      endCmd p c a.1 a.2 { s with mgmt := { s.mgmt with answer := none, awaited := { uids := [], lines := [] } } }) ∧
    (¬ done → finishCmd p c a s = { s with mgmt := { s.mgmt with answer := some a } }) ∧
    ((portRegs s p).mbox.run = some c → s.mgmt.answer = some a → (s.mgmt.serving = none ∨ s.mgmt.serving = some p) → c % 256 ∈ cmdCodes →
      exec (cmdEvent p c) s = .next (finishCmd p c a s))) ∧
  (∀ (s : State) (p : Port) (c : Nat), c % 256 ∈ [0x10, 0x11, 0x12, 0x13, 0x14, 0x30, 0x40, 0x41, 0x42, 0x43] →
    (portRegs s p).mbox.run = none → fwReady s = true → s.mgmt.owner ≠ some p →
    ∃ t, exec (cmdEvent p c) s = .next t ∧ (portRegs t p).mbox.tag = bits c 63 32 ∧ (portRegs t p).mbox.status = 0x80 ∧
      t.mgmt = { s.mgmt with refused := min (2 ^ 16 - 1) (s.mgmt.refused + 1) } ∧ t.mem = s.mem) ∧
  ∀ (s : State) (p : Port) (c : Nat), c % 256 ∉ cmdCodes → (portRegs s p).mbox.run = none → fwReady s = true →
    ∃ t, exec (.mboxUnknownCommand p c) s = .next t ∧ (portRegs t p).mbox.tag = bits c 63 32 ∧ (portRegs t p).mbox.status = 0x81 ∧
      t.mgmt = s.mgmt ∧ t.mem = s.mem)

/-! ### Invariants -/

/-- Log entry 6: every step keeps memory in its one canonical form, in which the locations listed rise and no byte listed is 0: equal
memories stay equal data. -/
def Obligations.MemoryKeepsItsCanonicalForm : Prop :=
  ∀ s t : State, Memory.wf s.mem = true → step s = .next t → Memory.wf t.mem = true

/-- R6, R31, R37, R165, R170, R234, R328: after reset memory is empty and canonical, nothing is full, poisoned, cached, queued or resident,
TIMEBASE is 0, the configuration has no owner and domain 0 alone is active, privileged. That memory that nothing has written reads 0, and
every reset value that the spec does not give, is the model's choice (log entries 6 and 67). -/
def Obligations.ResetLeavesTheDeviceIdle : Prop :=
  Memory.wf State.reset.mem = true ∧ State.reset.mem = [] ∧ State.reset.feFull = [] ∧ State.reset.poison = [] ∧ State.reset.lines = [] ∧
  State.reset.tlb = [] ∧ State.reset.paddocks = [] ∧ State.reset.queues = [] ∧ State.reset.launches = [] ∧ State.reset.wgs = [] ∧
  State.reset.cores = [] ∧ State.reset.time = 0 ∧ State.reset.mgmt.owner = none ∧ State.reset.mgmt.speed = .cool ∧
  State.reset.domains = [(0, 3)] ∧ (∀ d, domActive State.reset d = decide (d = 0)) ∧ domPrivileged State.reset 0 = true

end
end

