-- ==== Sys2Proof/Laws/Sparse.lean ====
section
/-! SUPPORT. Laws of sparse maps: what a key reads as after a write, and that every operation keeps the canonical form. -/

namespace Sys2Proof.Laws

open Machine

variable {α : Type}

/-! ### Reading after writing -/

theorem find_put (m : SMap α) (k : Nat) (v : α) (j : Nat) : smapFind (smapPut m k v) j = if j = k then some v else smapFind m j := by
  induction m with
  | nil => by_cases h : k = j <;> simp [smapPut, smapFind, h, eq_comm]
  | cons e r ih =>
    obtain ⟨a, b⟩ := e
    simp only [smapPut]
    split
    · by_cases h : k = j <;> simp [smapFind, h, eq_comm]
    · split
      · subst a
        by_cases h : k = j <;> simp [smapFind, h, eq_comm]
      · by_cases h : a = j
        · subst h
          simp [smapFind]
          omega
        · simp [smapFind, h, ih]

theorem find_del (m : SMap α) (k j : Nat) : smapFind (smapDel m k) j = if j = k then none else smapFind m j := by
  induction m with
  | nil => simp [smapDel, smapFind]
  | cons e r ih =>
    obtain ⟨a, b⟩ := e
    simp only [smapDel, List.filter_cons] at ih ⊢
    by_cases h : a = k
    · subst h
      by_cases g : j = a
      · subst g
        simpa using ih
      · simp [ih, smapFind, g, Ne.symm g]
    · by_cases g : a = j
      · subst g
        simp [smapFind, h]
      · simp [smapFind, h, ih, g]

/-- A key reads as what was last written to it, the default value too. -/
@[simp] theorem get_set [DecidableEq α] (d : α) (m : SMap α) (k : Nat) (v : α) (j : Nat) :
    smapGet d (smapSet d m k v) j = if j = k then v else smapGet d m j := by
  unfold smapGet smapSet
  split
  · subst_vars
    by_cases h : j = k <;> simp [find_del, h]
  · by_cases h : j = k <;> simp [find_put, h]

@[simp] theorem get_put (d : α) (m : SMap α) (k : Nat) (v : α) (j : Nat) :
    smapGet d (smapPut m k v) j = if j = k then v else smapGet d m j := by
  unfold smapGet
  by_cases h : j = k <;> simp [find_put, h]

@[simp] theorem get_nil (d : α) (j : Nat) : smapGet d ([] : SMap α) j = d := rfl

/-! ### The canonical form -/

/-- The form of smapWf in terms of Lean's lists. -/
theorem wf_iff [DecidableEq α] (d : α) (m : SMap α) :
    smapWf d m = true ↔ (m.map (·.1)).Pairwise (· < ·) ∧ ∀ e ∈ m, e.2 ≠ d := by
  induction m with
  | nil => simp [smapWf]
  | cons e r ih =>
    obtain ⟨k, v⟩ := e
    cases r with
    | nil => simp [smapWf]
    | cons e' r =>
      obtain ⟨k', v'⟩ := e'
      simp only [smapWf, Bool.and_eq_true, decide_eq_true_eq, ih]
      simp only [List.map_cons, List.pairwise_cons, List.mem_map, List.mem_cons, forall_exists_index, and_imp]
      constructor
      · rintro ⟨⟨hv, hk⟩, ⟨h1, h2⟩, h3⟩
        refine ⟨⟨?_, h1, h2⟩, ?_⟩
        · rintro a (rfl | ⟨x, hx, rfl⟩)
          · exact hk
          · exact lt_trans hk (h1 _ x hx rfl)
        · rintro x (rfl | h)
          · exact hv
          · exact h3 x h
      · rintro ⟨⟨h0, h1, h2⟩, h3⟩
        exact ⟨⟨h3 _ (.inl rfl), h0 k' (.inl rfl)⟩, ⟨h1, h2⟩, fun x hx => h3 x (.inr hx)⟩

theorem mem_put {m : SMap α} {k : Nat} {v : α} {e : Nat × α} (h : e ∈ smapPut m k v) : e = (k, v) ∨ e ∈ m := by
  induction m with
  | nil => simpa [smapPut] using h
  | cons x r ih =>
    obtain ⟨a, b⟩ := x
    simp only [smapPut] at h
    split at h
    · simpa using h
    · split at h
      · rcases List.mem_cons.mp h with h | h
        · exact .inl h
        · exact .inr (List.mem_cons_of_mem _ h)
      · rcases List.mem_cons.mp h with h | h
        · exact .inr (h ▸ List.mem_cons_self ..)
        · exact (ih h).imp_right (List.mem_cons_of_mem _)

theorem rising_put (m : SMap α) (k : Nat) (v : α) (h : (m.map (·.1)).Pairwise (· < ·)) :
    ((smapPut m k v).map (·.1)).Pairwise (· < ·) := by
  induction m with
  | nil => simp [smapPut]
  | cons x r ih =>
    obtain ⟨a, b⟩ := x
    have hr : (r.map (·.1)).Pairwise (· < ·) := (List.pairwise_cons.mp h).2
    have ha : ∀ c ∈ r.map (·.1), a < c := (List.pairwise_cons.mp h).1
    simp only [smapPut]
    split
    · rename_i hk
      refine List.pairwise_cons.mpr ⟨?_, h⟩
      intro c hc
      rcases List.mem_cons.mp hc with rfl | hc
      · exact hk
      · exact lt_trans hk (ha c hc)
    · split
      · subst a
        exact List.pairwise_cons.mpr ⟨ha, hr⟩
      · refine List.pairwise_cons.mpr ⟨?_, ih hr⟩
        intro c hc
        obtain ⟨e, he, rfl⟩ := List.mem_map.mp hc
        rcases mem_put he with rfl | he
        · show a < k
          omega
        · exact ha _ (List.mem_map.mpr ⟨e, he, rfl⟩)

/-- Listing a value that is not the default keeps the form. -/
theorem wf_put [DecidableEq α] {d : α} {m : SMap α} {k : Nat} {v : α} (h : smapWf d m = true) (hv : v ≠ d) :
    smapWf d (smapPut m k v) = true := by
  rw [wf_iff] at h ⊢
  refine ⟨rising_put _ _ _ h.1, fun e he => ?_⟩
  rcases mem_put he with rfl | he
  · exact hv
  · exact h.2 e he

/-- Dropping keys keeps the form. -/
theorem wf_filter [DecidableEq α] {d : α} {m : SMap α} (p : Nat × α → Bool) (h : smapWf d m = true) : smapWf d (m.filter p) = true := by
  rw [wf_iff] at h ⊢
  exact ⟨h.1.sublist ((List.filter_sublist).map _), fun e he => h.2 e (List.mem_of_mem_filter he)⟩

theorem wf_del [DecidableEq α] {d : α} {m : SMap α} (k : Nat) (h : smapWf d m = true) : smapWf d (smapDel m k) = true := wf_filter _ h

/-- A write keeps the form. -/
theorem wf_set [DecidableEq α] {d : α} {m : SMap α} (k : Nat) (v : α) (h : smapWf d m = true) : smapWf d (smapSet d m k v) = true := by
  unfold smapSet
  split
  · exact wf_del k h
  · exact wf_put h ‹_›

theorem wf_nil [DecidableEq α] (d : α) : smapWf d ([] : SMap α) = true := rfl

/-- Two maps in the canonical form that read alike at every key are the same data. -/
theorem wf_ext [DecidableEq α] {d : α} {a b : SMap α} (ha : smapWf d a = true) (hb : smapWf d b = true)
    (h : ∀ k, smapGet d a k = smapGet d b k) : a = b := by
  have read : ∀ {m : SMap α}, smapWf d m = true → ∀ e, e ∈ m ↔ smapGet d m e.1 = e.2 ∧ e.2 ≠ d := by
    intro m hm
    rw [wf_iff] at hm
    obtain ⟨h1, h2⟩ := hm
    induction m with
    | nil => intro e; simp [smapGet, smapFind, eq_comm]
    | cons x r ih =>
      obtain ⟨k, v⟩ := x
      have h1' := List.pairwise_cons.mp h1
      have ih := ih h1'.2 (fun e he => h2 e (List.mem_cons_of_mem _ he))
      rintro ⟨j, w⟩
      by_cases g : k = j
      · subst g
        have : (k, w) ∉ r := fun hr => absurd (h1'.1 k (List.mem_map.mpr ⟨_, hr, rfl⟩)) (lt_irrefl _)
        have hv := h2 (k, v) (List.mem_cons_self ..)
        simp only [List.mem_cons, this, smapGet, smapFind, Prod.mk.injEq, true_and, or_false, if_true, Option.getD_some]
        exact ⟨fun q => ⟨q.symm, q ▸ hv⟩, fun q => q.1.symm⟩
      · have hf : smapGet d ((k, v) :: r) j = smapGet d r j := by simp [smapGet, smapFind, g]
        have : (j, w) ≠ (k, v) := fun q => g (Prod.mk.inj q).1.symm
        simp only [List.mem_cons, this, false_or, hf]
        exact ih (j, w)
  have same : ∀ e, e ∈ a ↔ e ∈ b := fun e => by rw [read ha, read hb, h]
  have rise : ∀ {m : SMap α}, smapWf d m = true → m.Pairwise (fun x y => x.1 < y.1) := by
    intro m hm
    rw [wf_iff] at hm
    exact List.pairwise_map.mp hm.1
  have perm : a.Perm b := by
    refine (List.perm_ext_iff_of_nodup ?_ ?_).mpr same
    · exact (rise ha).imp fun q => by rintro rfl; exact lt_irrefl _ q
    · exact (rise hb).imp fun q => by rintro rfl; exact lt_irrefl _ q
  exact perm.eq_of_pairwise (fun x y _ _ p q => absurd (lt_trans p q) (lt_irrefl _)) (rise ha) (rise hb)

end Sys2Proof.Laws
end

