-- ==== Sys2Proof/Laws/State.lean ====
section
/-! SUPPORT. What each update of a state leaves as it was, field by field, and what a core, a flock and a path read after it. -/

namespace Sys2Proof.Laws

open Machine

/-! ### setCore -/

@[simp] theorem setCore_agenda (c : Nat) (k : Core) (s : State) : (setCore c k s).agenda = s.agenda := rfl
@[simp] theorem setCore_todo (c : Nat) (k : Core) (s : State) : (setCore c k s).todo = s.todo := rfl
@[simp] theorem setCore_core (c : Nat) (k : Core) (s : State) : (setCore c k s).core = s.core := rfl
@[simp] theorem setCore_slot (c : Nat) (k : Core) (s : State) : (setCore c k s).slot = s.slot := rfl
@[simp] theorem setCore_second (c : Nat) (k : Core) (s : State) : (setCore c k s).second = s.second := rfl
@[simp] theorem setCore_fresh (c : Nat) (k : Core) (s : State) : (setCore c k s).fresh = s.fresh := rfl
@[simp] theorem setCore_time (c : Nat) (k : Core) (s : State) : (setCore c k s).time = s.time := rfl
@[simp] theorem setCore_mem (c : Nat) (k : Core) (s : State) : (setCore c k s).mem = s.mem := rfl
@[simp] theorem setCore_poison (c : Nat) (k : Core) (s : State) : (setCore c k s).poison = s.poison := rfl
@[simp] theorem setCore_lost (c : Nat) (k : Core) (s : State) : (setCore c k s).lost = s.lost := rfl
@[simp] theorem setCore_sectorKeys (c : Nat) (k : Core) (s : State) : (setCore c k s).sectorKeys = s.sectorKeys := rfl
@[simp] theorem setCore_checks (c : Nat) (k : Core) (s : State) : (setCore c k s).checks = s.checks := rfl
@[simp] theorem setCore_feFull (c : Nat) (k : Core) (s : State) : (setCore c k s).feFull = s.feFull := rfl
@[simp] theorem setCore_pins (c : Nat) (k : Core) (s : State) : (setCore c k s).pins = s.pins := rfl
@[simp] theorem setCore_feQueue (c : Nat) (k : Core) (s : State) : (setCore c k s).feQueue = s.feQueue := rfl
@[simp] theorem setCore_feRetry (c : Nat) (k : Core) (s : State) : (setCore c k s).feRetry = s.feRetry := rfl
@[simp] theorem setCore_held (c : Nat) (k : Core) (s : State) : (setCore c k s).held = s.held := rfl
@[simp] theorem setCore_performing (c : Nat) (k : Core) (s : State) : (setCore c k s).performing = s.performing := rfl
@[simp] theorem setCore_lines (c : Nat) (k : Core) (s : State) : (setCore c k s).lines = s.lines := rfl
@[simp] theorem setCore_hc (c : Nat) (k : Core) (s : State) : (setCore c k s).hc = s.hc := rfl
@[simp] theorem setCore_sync (c : Nat) (k : Core) (s : State) : (setCore c k s).sync = s.sync := rfl
@[simp] theorem setCore_dirty (c : Nat) (k : Core) (s : State) : (setCore c k s).dirty = s.dirty := rfl
@[simp] theorem setCore_tlb (c : Nat) (k : Core) (s : State) : (setCore c k s).tlb = s.tlb := rfl
@[simp] theorem setCore_dropped (c : Nat) (k : Core) (s : State) : (setCore c k s).dropped = s.dropped := rfl
@[simp] theorem setCore_paddocks (c : Nat) (k : Core) (s : State) : (setCore c k s).paddocks = s.paddocks := rfl
@[simp] theorem setCore_failed (c : Nat) (k : Core) (s : State) : (setCore c k s).failed = s.failed := rfl
@[simp] theorem setCore_domains (c : Nat) (k : Core) (s : State) : (setCore c k s).domains = s.domains := rfl
@[simp] theorem setCore_frames (c : Nat) (k : Core) (s : State) : (setCore c k s).frames = s.frames := rfl
@[simp] theorem setCore_keys (c : Nat) (k : Core) (s : State) : (setCore c k s).keys = s.keys := rfl
@[simp] theorem setCore_objects (c : Nat) (k : Core) (s : State) : (setCore c k s).objects = s.objects := rfl
@[simp] theorem setCore_nextObj (c : Nat) (k : Core) (s : State) : (setCore c k s).nextObj = s.nextObj := rfl
@[simp] theorem setCore_codeSeen (c : Nat) (k : Core) (s : State) : (setCore c k s).codeSeen = s.codeSeen := rfl
@[simp] theorem setCore_queues (c : Nat) (k : Core) (s : State) : (setCore c k s).queues = s.queues := rfl
@[simp] theorem setCore_packets (c : Nat) (k : Core) (s : State) : (setCore c k s).packets = s.packets := rfl
@[simp] theorem setCore_launches (c : Nat) (k : Core) (s : State) : (setCore c k s).launches = s.launches := rfl
@[simp] theorem setCore_nextLaunch (c : Nat) (k : Core) (s : State) : (setCore c k s).nextLaunch = s.nextLaunch := rfl
@[simp] theorem setCore_wgs (c : Nat) (k : Core) (s : State) : (setCore c k s).wgs = s.wgs := rfl
@[simp] theorem setCore_isles (c : Nat) (k : Core) (s : State) : (setCore c k s).isles = s.isles := rfl
@[simp] theorem setCore_quantum (c : Nat) (k : Core) (s : State) : (setCore c k s).quantum = s.quantum := rfl
@[simp] theorem setCore_autoOn (c : Nat) (k : Core) (s : State) : (setCore c k s).autoOn = s.autoOn := rfl
@[simp] theorem setCore_faults (c : Nat) (k : Core) (s : State) : (setCore c k s).faults = s.faults := rfl
@[simp] theorem setCore_homeChanges (c : Nat) (k : Core) (s : State) : (setCore c k s).homeChanges = s.homeChanges := rfl
@[simp] theorem setCore_mcasts (c : Nat) (k : Core) (s : State) : (setCore c k s).mcasts = s.mcasts := rfl
@[simp] theorem setCore_cxlOut (c : Nat) (k : Core) (s : State) : (setCore c k s).cxlOut = s.cxlOut := rfl
@[simp] theorem setCore_portA (c : Nat) (k : Core) (s : State) : (setCore c k s).portA = s.portA := rfl
@[simp] theorem setCore_portB (c : Nat) (k : Core) (s : State) : (setCore c k s).portB = s.portB := rfl
@[simp] theorem setCore_mgmt (c : Nat) (k : Core) (s : State) : (setCore c k s).mgmt = s.mgmt := rfl

/-! ### setFlock -/

@[simp] theorem setFlock_agenda (c f : Nat) (x : Flock) (s : State) : (setFlock c f x s).agenda = s.agenda := rfl
@[simp] theorem setFlock_todo (c f : Nat) (x : Flock) (s : State) : (setFlock c f x s).todo = s.todo := rfl
@[simp] theorem setFlock_core (c f : Nat) (x : Flock) (s : State) : (setFlock c f x s).core = s.core := rfl
@[simp] theorem setFlock_slot (c f : Nat) (x : Flock) (s : State) : (setFlock c f x s).slot = s.slot := rfl
@[simp] theorem setFlock_second (c f : Nat) (x : Flock) (s : State) : (setFlock c f x s).second = s.second := rfl
@[simp] theorem setFlock_fresh (c f : Nat) (x : Flock) (s : State) : (setFlock c f x s).fresh = s.fresh := rfl
@[simp] theorem setFlock_time (c f : Nat) (x : Flock) (s : State) : (setFlock c f x s).time = s.time := rfl
@[simp] theorem setFlock_mem (c f : Nat) (x : Flock) (s : State) : (setFlock c f x s).mem = s.mem := rfl
@[simp] theorem setFlock_poison (c f : Nat) (x : Flock) (s : State) : (setFlock c f x s).poison = s.poison := rfl
@[simp] theorem setFlock_lost (c f : Nat) (x : Flock) (s : State) : (setFlock c f x s).lost = s.lost := rfl
@[simp] theorem setFlock_sectorKeys (c f : Nat) (x : Flock) (s : State) : (setFlock c f x s).sectorKeys = s.sectorKeys := rfl
@[simp] theorem setFlock_checks (c f : Nat) (x : Flock) (s : State) : (setFlock c f x s).checks = s.checks := rfl
@[simp] theorem setFlock_feFull (c f : Nat) (x : Flock) (s : State) : (setFlock c f x s).feFull = s.feFull := rfl
@[simp] theorem setFlock_pins (c f : Nat) (x : Flock) (s : State) : (setFlock c f x s).pins = s.pins := rfl
@[simp] theorem setFlock_feQueue (c f : Nat) (x : Flock) (s : State) : (setFlock c f x s).feQueue = s.feQueue := rfl
@[simp] theorem setFlock_feRetry (c f : Nat) (x : Flock) (s : State) : (setFlock c f x s).feRetry = s.feRetry := rfl
@[simp] theorem setFlock_held (c f : Nat) (x : Flock) (s : State) : (setFlock c f x s).held = s.held := rfl
@[simp] theorem setFlock_performing (c f : Nat) (x : Flock) (s : State) : (setFlock c f x s).performing = s.performing := rfl
@[simp] theorem setFlock_lines (c f : Nat) (x : Flock) (s : State) : (setFlock c f x s).lines = s.lines := rfl
@[simp] theorem setFlock_hc (c f : Nat) (x : Flock) (s : State) : (setFlock c f x s).hc = s.hc := rfl
@[simp] theorem setFlock_sync (c f : Nat) (x : Flock) (s : State) : (setFlock c f x s).sync = s.sync := rfl
@[simp] theorem setFlock_dirty (c f : Nat) (x : Flock) (s : State) : (setFlock c f x s).dirty = s.dirty := rfl
@[simp] theorem setFlock_tlb (c f : Nat) (x : Flock) (s : State) : (setFlock c f x s).tlb = s.tlb := rfl
@[simp] theorem setFlock_dropped (c f : Nat) (x : Flock) (s : State) : (setFlock c f x s).dropped = s.dropped := rfl
@[simp] theorem setFlock_paddocks (c f : Nat) (x : Flock) (s : State) : (setFlock c f x s).paddocks = s.paddocks := rfl
@[simp] theorem setFlock_failed (c f : Nat) (x : Flock) (s : State) : (setFlock c f x s).failed = s.failed := rfl
@[simp] theorem setFlock_domains (c f : Nat) (x : Flock) (s : State) : (setFlock c f x s).domains = s.domains := rfl
@[simp] theorem setFlock_frames (c f : Nat) (x : Flock) (s : State) : (setFlock c f x s).frames = s.frames := rfl
@[simp] theorem setFlock_keys (c f : Nat) (x : Flock) (s : State) : (setFlock c f x s).keys = s.keys := rfl
@[simp] theorem setFlock_objects (c f : Nat) (x : Flock) (s : State) : (setFlock c f x s).objects = s.objects := rfl
@[simp] theorem setFlock_nextObj (c f : Nat) (x : Flock) (s : State) : (setFlock c f x s).nextObj = s.nextObj := rfl
@[simp] theorem setFlock_codeSeen (c f : Nat) (x : Flock) (s : State) : (setFlock c f x s).codeSeen = s.codeSeen := rfl
@[simp] theorem setFlock_queues (c f : Nat) (x : Flock) (s : State) : (setFlock c f x s).queues = s.queues := rfl
@[simp] theorem setFlock_packets (c f : Nat) (x : Flock) (s : State) : (setFlock c f x s).packets = s.packets := rfl
@[simp] theorem setFlock_launches (c f : Nat) (x : Flock) (s : State) : (setFlock c f x s).launches = s.launches := rfl
@[simp] theorem setFlock_nextLaunch (c f : Nat) (x : Flock) (s : State) : (setFlock c f x s).nextLaunch = s.nextLaunch := rfl
@[simp] theorem setFlock_wgs (c f : Nat) (x : Flock) (s : State) : (setFlock c f x s).wgs = s.wgs := rfl
@[simp] theorem setFlock_isles (c f : Nat) (x : Flock) (s : State) : (setFlock c f x s).isles = s.isles := rfl
@[simp] theorem setFlock_quantum (c f : Nat) (x : Flock) (s : State) : (setFlock c f x s).quantum = s.quantum := rfl
@[simp] theorem setFlock_autoOn (c f : Nat) (x : Flock) (s : State) : (setFlock c f x s).autoOn = s.autoOn := rfl
@[simp] theorem setFlock_faults (c f : Nat) (x : Flock) (s : State) : (setFlock c f x s).faults = s.faults := rfl
@[simp] theorem setFlock_homeChanges (c f : Nat) (x : Flock) (s : State) : (setFlock c f x s).homeChanges = s.homeChanges := rfl
@[simp] theorem setFlock_mcasts (c f : Nat) (x : Flock) (s : State) : (setFlock c f x s).mcasts = s.mcasts := rfl
@[simp] theorem setFlock_cxlOut (c f : Nat) (x : Flock) (s : State) : (setFlock c f x s).cxlOut = s.cxlOut := rfl
@[simp] theorem setFlock_portA (c f : Nat) (x : Flock) (s : State) : (setFlock c f x s).portA = s.portA := rfl
@[simp] theorem setFlock_portB (c f : Nat) (x : Flock) (s : State) : (setFlock c f x s).portB = s.portB := rfl
@[simp] theorem setFlock_mgmt (c f : Nat) (x : Flock) (s : State) : (setFlock c f x s).mgmt = s.mgmt := rfl

/-! ### setCur -/

@[simp] theorem setCur_agenda (x : Flock) (s : State) : (setCur x s).agenda = s.agenda := rfl
@[simp] theorem setCur_todo (x : Flock) (s : State) : (setCur x s).todo = s.todo := rfl
@[simp] theorem setCur_core (x : Flock) (s : State) : (setCur x s).core = s.core := rfl
@[simp] theorem setCur_slot (x : Flock) (s : State) : (setCur x s).slot = s.slot := rfl
@[simp] theorem setCur_second (x : Flock) (s : State) : (setCur x s).second = s.second := rfl
@[simp] theorem setCur_fresh (x : Flock) (s : State) : (setCur x s).fresh = s.fresh := rfl
@[simp] theorem setCur_time (x : Flock) (s : State) : (setCur x s).time = s.time := rfl
@[simp] theorem setCur_mem (x : Flock) (s : State) : (setCur x s).mem = s.mem := rfl
@[simp] theorem setCur_poison (x : Flock) (s : State) : (setCur x s).poison = s.poison := rfl
@[simp] theorem setCur_lost (x : Flock) (s : State) : (setCur x s).lost = s.lost := rfl
@[simp] theorem setCur_sectorKeys (x : Flock) (s : State) : (setCur x s).sectorKeys = s.sectorKeys := rfl
@[simp] theorem setCur_checks (x : Flock) (s : State) : (setCur x s).checks = s.checks := rfl
@[simp] theorem setCur_feFull (x : Flock) (s : State) : (setCur x s).feFull = s.feFull := rfl
@[simp] theorem setCur_pins (x : Flock) (s : State) : (setCur x s).pins = s.pins := rfl
@[simp] theorem setCur_feQueue (x : Flock) (s : State) : (setCur x s).feQueue = s.feQueue := rfl
@[simp] theorem setCur_feRetry (x : Flock) (s : State) : (setCur x s).feRetry = s.feRetry := rfl
@[simp] theorem setCur_held (x : Flock) (s : State) : (setCur x s).held = s.held := rfl
@[simp] theorem setCur_performing (x : Flock) (s : State) : (setCur x s).performing = s.performing := rfl
@[simp] theorem setCur_lines (x : Flock) (s : State) : (setCur x s).lines = s.lines := rfl
@[simp] theorem setCur_hc (x : Flock) (s : State) : (setCur x s).hc = s.hc := rfl
@[simp] theorem setCur_sync (x : Flock) (s : State) : (setCur x s).sync = s.sync := rfl
@[simp] theorem setCur_dirty (x : Flock) (s : State) : (setCur x s).dirty = s.dirty := rfl
@[simp] theorem setCur_tlb (x : Flock) (s : State) : (setCur x s).tlb = s.tlb := rfl
@[simp] theorem setCur_dropped (x : Flock) (s : State) : (setCur x s).dropped = s.dropped := rfl
@[simp] theorem setCur_paddocks (x : Flock) (s : State) : (setCur x s).paddocks = s.paddocks := rfl
@[simp] theorem setCur_failed (x : Flock) (s : State) : (setCur x s).failed = s.failed := rfl
@[simp] theorem setCur_domains (x : Flock) (s : State) : (setCur x s).domains = s.domains := rfl
@[simp] theorem setCur_frames (x : Flock) (s : State) : (setCur x s).frames = s.frames := rfl
@[simp] theorem setCur_keys (x : Flock) (s : State) : (setCur x s).keys = s.keys := rfl
@[simp] theorem setCur_objects (x : Flock) (s : State) : (setCur x s).objects = s.objects := rfl
@[simp] theorem setCur_nextObj (x : Flock) (s : State) : (setCur x s).nextObj = s.nextObj := rfl
@[simp] theorem setCur_codeSeen (x : Flock) (s : State) : (setCur x s).codeSeen = s.codeSeen := rfl
@[simp] theorem setCur_queues (x : Flock) (s : State) : (setCur x s).queues = s.queues := rfl
@[simp] theorem setCur_packets (x : Flock) (s : State) : (setCur x s).packets = s.packets := rfl
@[simp] theorem setCur_launches (x : Flock) (s : State) : (setCur x s).launches = s.launches := rfl
@[simp] theorem setCur_nextLaunch (x : Flock) (s : State) : (setCur x s).nextLaunch = s.nextLaunch := rfl
@[simp] theorem setCur_wgs (x : Flock) (s : State) : (setCur x s).wgs = s.wgs := rfl
@[simp] theorem setCur_isles (x : Flock) (s : State) : (setCur x s).isles = s.isles := rfl
@[simp] theorem setCur_quantum (x : Flock) (s : State) : (setCur x s).quantum = s.quantum := rfl
@[simp] theorem setCur_autoOn (x : Flock) (s : State) : (setCur x s).autoOn = s.autoOn := rfl
@[simp] theorem setCur_faults (x : Flock) (s : State) : (setCur x s).faults = s.faults := rfl
@[simp] theorem setCur_homeChanges (x : Flock) (s : State) : (setCur x s).homeChanges = s.homeChanges := rfl
@[simp] theorem setCur_mcasts (x : Flock) (s : State) : (setCur x s).mcasts = s.mcasts := rfl
@[simp] theorem setCur_cxlOut (x : Flock) (s : State) : (setCur x s).cxlOut = s.cxlOut := rfl
@[simp] theorem setCur_portA (x : Flock) (s : State) : (setCur x s).portA = s.portA := rfl
@[simp] theorem setCur_portB (x : Flock) (s : State) : (setCur x s).portB = s.portB := rfl
@[simp] theorem setCur_mgmt (x : Flock) (s : State) : (setCur x s).mgmt = s.mgmt := rfl

/-! ### updWg -/

@[simp] theorem updWg_agenda (l k : Nat) (f : Wg → Wg) (s : State) : (updWg l k f s).agenda = s.agenda := rfl
@[simp] theorem updWg_todo (l k : Nat) (f : Wg → Wg) (s : State) : (updWg l k f s).todo = s.todo := rfl
@[simp] theorem updWg_core (l k : Nat) (f : Wg → Wg) (s : State) : (updWg l k f s).core = s.core := rfl
@[simp] theorem updWg_slot (l k : Nat) (f : Wg → Wg) (s : State) : (updWg l k f s).slot = s.slot := rfl
@[simp] theorem updWg_second (l k : Nat) (f : Wg → Wg) (s : State) : (updWg l k f s).second = s.second := rfl
@[simp] theorem updWg_fresh (l k : Nat) (f : Wg → Wg) (s : State) : (updWg l k f s).fresh = s.fresh := rfl
@[simp] theorem updWg_time (l k : Nat) (f : Wg → Wg) (s : State) : (updWg l k f s).time = s.time := rfl
@[simp] theorem updWg_mem (l k : Nat) (f : Wg → Wg) (s : State) : (updWg l k f s).mem = s.mem := rfl
@[simp] theorem updWg_poison (l k : Nat) (f : Wg → Wg) (s : State) : (updWg l k f s).poison = s.poison := rfl
@[simp] theorem updWg_lost (l k : Nat) (f : Wg → Wg) (s : State) : (updWg l k f s).lost = s.lost := rfl
@[simp] theorem updWg_sectorKeys (l k : Nat) (f : Wg → Wg) (s : State) : (updWg l k f s).sectorKeys = s.sectorKeys := rfl
@[simp] theorem updWg_checks (l k : Nat) (f : Wg → Wg) (s : State) : (updWg l k f s).checks = s.checks := rfl
@[simp] theorem updWg_feFull (l k : Nat) (f : Wg → Wg) (s : State) : (updWg l k f s).feFull = s.feFull := rfl
@[simp] theorem updWg_pins (l k : Nat) (f : Wg → Wg) (s : State) : (updWg l k f s).pins = s.pins := rfl
@[simp] theorem updWg_feQueue (l k : Nat) (f : Wg → Wg) (s : State) : (updWg l k f s).feQueue = s.feQueue := rfl
@[simp] theorem updWg_feRetry (l k : Nat) (f : Wg → Wg) (s : State) : (updWg l k f s).feRetry = s.feRetry := rfl
@[simp] theorem updWg_held (l k : Nat) (f : Wg → Wg) (s : State) : (updWg l k f s).held = s.held := rfl
@[simp] theorem updWg_performing (l k : Nat) (f : Wg → Wg) (s : State) : (updWg l k f s).performing = s.performing := rfl
@[simp] theorem updWg_lines (l k : Nat) (f : Wg → Wg) (s : State) : (updWg l k f s).lines = s.lines := rfl
@[simp] theorem updWg_hc (l k : Nat) (f : Wg → Wg) (s : State) : (updWg l k f s).hc = s.hc := rfl
@[simp] theorem updWg_sync (l k : Nat) (f : Wg → Wg) (s : State) : (updWg l k f s).sync = s.sync := rfl
@[simp] theorem updWg_dirty (l k : Nat) (f : Wg → Wg) (s : State) : (updWg l k f s).dirty = s.dirty := rfl
@[simp] theorem updWg_tlb (l k : Nat) (f : Wg → Wg) (s : State) : (updWg l k f s).tlb = s.tlb := rfl
@[simp] theorem updWg_dropped (l k : Nat) (f : Wg → Wg) (s : State) : (updWg l k f s).dropped = s.dropped := rfl
@[simp] theorem updWg_paddocks (l k : Nat) (f : Wg → Wg) (s : State) : (updWg l k f s).paddocks = s.paddocks := rfl
@[simp] theorem updWg_failed (l k : Nat) (f : Wg → Wg) (s : State) : (updWg l k f s).failed = s.failed := rfl
@[simp] theorem updWg_domains (l k : Nat) (f : Wg → Wg) (s : State) : (updWg l k f s).domains = s.domains := rfl
@[simp] theorem updWg_frames (l k : Nat) (f : Wg → Wg) (s : State) : (updWg l k f s).frames = s.frames := rfl
@[simp] theorem updWg_keys (l k : Nat) (f : Wg → Wg) (s : State) : (updWg l k f s).keys = s.keys := rfl
@[simp] theorem updWg_objects (l k : Nat) (f : Wg → Wg) (s : State) : (updWg l k f s).objects = s.objects := rfl
@[simp] theorem updWg_nextObj (l k : Nat) (f : Wg → Wg) (s : State) : (updWg l k f s).nextObj = s.nextObj := rfl
@[simp] theorem updWg_codeSeen (l k : Nat) (f : Wg → Wg) (s : State) : (updWg l k f s).codeSeen = s.codeSeen := rfl
@[simp] theorem updWg_queues (l k : Nat) (f : Wg → Wg) (s : State) : (updWg l k f s).queues = s.queues := rfl
@[simp] theorem updWg_packets (l k : Nat) (f : Wg → Wg) (s : State) : (updWg l k f s).packets = s.packets := rfl
@[simp] theorem updWg_launches (l k : Nat) (f : Wg → Wg) (s : State) : (updWg l k f s).launches = s.launches := rfl
@[simp] theorem updWg_nextLaunch (l k : Nat) (f : Wg → Wg) (s : State) : (updWg l k f s).nextLaunch = s.nextLaunch := rfl
@[simp] theorem updWg_cores (l k : Nat) (f : Wg → Wg) (s : State) : (updWg l k f s).cores = s.cores := rfl
@[simp] theorem updWg_isles (l k : Nat) (f : Wg → Wg) (s : State) : (updWg l k f s).isles = s.isles := rfl
@[simp] theorem updWg_quantum (l k : Nat) (f : Wg → Wg) (s : State) : (updWg l k f s).quantum = s.quantum := rfl
@[simp] theorem updWg_autoOn (l k : Nat) (f : Wg → Wg) (s : State) : (updWg l k f s).autoOn = s.autoOn := rfl
@[simp] theorem updWg_faults (l k : Nat) (f : Wg → Wg) (s : State) : (updWg l k f s).faults = s.faults := rfl
@[simp] theorem updWg_homeChanges (l k : Nat) (f : Wg → Wg) (s : State) : (updWg l k f s).homeChanges = s.homeChanges := rfl
@[simp] theorem updWg_mcasts (l k : Nat) (f : Wg → Wg) (s : State) : (updWg l k f s).mcasts = s.mcasts := rfl
@[simp] theorem updWg_cxlOut (l k : Nat) (f : Wg → Wg) (s : State) : (updWg l k f s).cxlOut = s.cxlOut := rfl
@[simp] theorem updWg_portA (l k : Nat) (f : Wg → Wg) (s : State) : (updWg l k f s).portA = s.portA := rfl
@[simp] theorem updWg_portB (l k : Nat) (f : Wg → Wg) (s : State) : (updWg l k f s).portB = s.portB := rfl
@[simp] theorem updWg_mgmt (l k : Nat) (f : Wg → Wg) (s : State) : (updWg l k f s).mgmt = s.mgmt := rfl

/-! ### updLaunch -/

@[simp] theorem updLaunch_agenda (l : Nat) (f : Launch → Launch) (s : State) : (updLaunch l f s).agenda = s.agenda := rfl
@[simp] theorem updLaunch_todo (l : Nat) (f : Launch → Launch) (s : State) : (updLaunch l f s).todo = s.todo := rfl
@[simp] theorem updLaunch_core (l : Nat) (f : Launch → Launch) (s : State) : (updLaunch l f s).core = s.core := rfl
@[simp] theorem updLaunch_slot (l : Nat) (f : Launch → Launch) (s : State) : (updLaunch l f s).slot = s.slot := rfl
@[simp] theorem updLaunch_second (l : Nat) (f : Launch → Launch) (s : State) : (updLaunch l f s).second = s.second := rfl
@[simp] theorem updLaunch_fresh (l : Nat) (f : Launch → Launch) (s : State) : (updLaunch l f s).fresh = s.fresh := rfl
@[simp] theorem updLaunch_time (l : Nat) (f : Launch → Launch) (s : State) : (updLaunch l f s).time = s.time := rfl
@[simp] theorem updLaunch_mem (l : Nat) (f : Launch → Launch) (s : State) : (updLaunch l f s).mem = s.mem := rfl
@[simp] theorem updLaunch_poison (l : Nat) (f : Launch → Launch) (s : State) : (updLaunch l f s).poison = s.poison := rfl
@[simp] theorem updLaunch_lost (l : Nat) (f : Launch → Launch) (s : State) : (updLaunch l f s).lost = s.lost := rfl
@[simp] theorem updLaunch_sectorKeys (l : Nat) (f : Launch → Launch) (s : State) : (updLaunch l f s).sectorKeys = s.sectorKeys := rfl
@[simp] theorem updLaunch_checks (l : Nat) (f : Launch → Launch) (s : State) : (updLaunch l f s).checks = s.checks := rfl
@[simp] theorem updLaunch_feFull (l : Nat) (f : Launch → Launch) (s : State) : (updLaunch l f s).feFull = s.feFull := rfl
@[simp] theorem updLaunch_pins (l : Nat) (f : Launch → Launch) (s : State) : (updLaunch l f s).pins = s.pins := rfl
@[simp] theorem updLaunch_feQueue (l : Nat) (f : Launch → Launch) (s : State) : (updLaunch l f s).feQueue = s.feQueue := rfl
@[simp] theorem updLaunch_feRetry (l : Nat) (f : Launch → Launch) (s : State) : (updLaunch l f s).feRetry = s.feRetry := rfl
@[simp] theorem updLaunch_held (l : Nat) (f : Launch → Launch) (s : State) : (updLaunch l f s).held = s.held := rfl
@[simp] theorem updLaunch_performing (l : Nat) (f : Launch → Launch) (s : State) : (updLaunch l f s).performing = s.performing := rfl
@[simp] theorem updLaunch_lines (l : Nat) (f : Launch → Launch) (s : State) : (updLaunch l f s).lines = s.lines := rfl
@[simp] theorem updLaunch_hc (l : Nat) (f : Launch → Launch) (s : State) : (updLaunch l f s).hc = s.hc := rfl
@[simp] theorem updLaunch_sync (l : Nat) (f : Launch → Launch) (s : State) : (updLaunch l f s).sync = s.sync := rfl
@[simp] theorem updLaunch_dirty (l : Nat) (f : Launch → Launch) (s : State) : (updLaunch l f s).dirty = s.dirty := rfl
@[simp] theorem updLaunch_tlb (l : Nat) (f : Launch → Launch) (s : State) : (updLaunch l f s).tlb = s.tlb := rfl
@[simp] theorem updLaunch_dropped (l : Nat) (f : Launch → Launch) (s : State) : (updLaunch l f s).dropped = s.dropped := rfl
@[simp] theorem updLaunch_paddocks (l : Nat) (f : Launch → Launch) (s : State) : (updLaunch l f s).paddocks = s.paddocks := rfl
@[simp] theorem updLaunch_failed (l : Nat) (f : Launch → Launch) (s : State) : (updLaunch l f s).failed = s.failed := rfl
@[simp] theorem updLaunch_domains (l : Nat) (f : Launch → Launch) (s : State) : (updLaunch l f s).domains = s.domains := rfl
@[simp] theorem updLaunch_frames (l : Nat) (f : Launch → Launch) (s : State) : (updLaunch l f s).frames = s.frames := rfl
@[simp] theorem updLaunch_keys (l : Nat) (f : Launch → Launch) (s : State) : (updLaunch l f s).keys = s.keys := rfl
@[simp] theorem updLaunch_objects (l : Nat) (f : Launch → Launch) (s : State) : (updLaunch l f s).objects = s.objects := rfl
@[simp] theorem updLaunch_nextObj (l : Nat) (f : Launch → Launch) (s : State) : (updLaunch l f s).nextObj = s.nextObj := rfl
@[simp] theorem updLaunch_codeSeen (l : Nat) (f : Launch → Launch) (s : State) : (updLaunch l f s).codeSeen = s.codeSeen := rfl
@[simp] theorem updLaunch_queues (l : Nat) (f : Launch → Launch) (s : State) : (updLaunch l f s).queues = s.queues := rfl
@[simp] theorem updLaunch_packets (l : Nat) (f : Launch → Launch) (s : State) : (updLaunch l f s).packets = s.packets := rfl
@[simp] theorem updLaunch_nextLaunch (l : Nat) (f : Launch → Launch) (s : State) : (updLaunch l f s).nextLaunch = s.nextLaunch := rfl
@[simp] theorem updLaunch_wgs (l : Nat) (f : Launch → Launch) (s : State) : (updLaunch l f s).wgs = s.wgs := rfl
@[simp] theorem updLaunch_cores (l : Nat) (f : Launch → Launch) (s : State) : (updLaunch l f s).cores = s.cores := rfl
@[simp] theorem updLaunch_isles (l : Nat) (f : Launch → Launch) (s : State) : (updLaunch l f s).isles = s.isles := rfl
@[simp] theorem updLaunch_quantum (l : Nat) (f : Launch → Launch) (s : State) : (updLaunch l f s).quantum = s.quantum := rfl
@[simp] theorem updLaunch_autoOn (l : Nat) (f : Launch → Launch) (s : State) : (updLaunch l f s).autoOn = s.autoOn := rfl
@[simp] theorem updLaunch_faults (l : Nat) (f : Launch → Launch) (s : State) : (updLaunch l f s).faults = s.faults := rfl
@[simp] theorem updLaunch_homeChanges (l : Nat) (f : Launch → Launch) (s : State) : (updLaunch l f s).homeChanges = s.homeChanges := rfl
@[simp] theorem updLaunch_mcasts (l : Nat) (f : Launch → Launch) (s : State) : (updLaunch l f s).mcasts = s.mcasts := rfl
@[simp] theorem updLaunch_cxlOut (l : Nat) (f : Launch → Launch) (s : State) : (updLaunch l f s).cxlOut = s.cxlOut := rfl
@[simp] theorem updLaunch_portA (l : Nat) (f : Launch → Launch) (s : State) : (updLaunch l f s).portA = s.portA := rfl
@[simp] theorem updLaunch_portB (l : Nat) (f : Launch → Launch) (s : State) : (updLaunch l f s).portB = s.portB := rfl
@[simp] theorem updLaunch_mgmt (l : Nat) (f : Launch → Launch) (s : State) : (updLaunch l f s).mgmt = s.mgmt := rfl

/-! ### updLine -/

@[simp] theorem updLine_agenda (pad base : Nat) (f : Line → Line) (s : State) : (updLine pad base f s).agenda = s.agenda := rfl
@[simp] theorem updLine_todo (pad base : Nat) (f : Line → Line) (s : State) : (updLine pad base f s).todo = s.todo := rfl
@[simp] theorem updLine_core (pad base : Nat) (f : Line → Line) (s : State) : (updLine pad base f s).core = s.core := rfl
@[simp] theorem updLine_slot (pad base : Nat) (f : Line → Line) (s : State) : (updLine pad base f s).slot = s.slot := rfl
@[simp] theorem updLine_second (pad base : Nat) (f : Line → Line) (s : State) : (updLine pad base f s).second = s.second := rfl
@[simp] theorem updLine_fresh (pad base : Nat) (f : Line → Line) (s : State) : (updLine pad base f s).fresh = s.fresh := rfl
@[simp] theorem updLine_time (pad base : Nat) (f : Line → Line) (s : State) : (updLine pad base f s).time = s.time := rfl
@[simp] theorem updLine_mem (pad base : Nat) (f : Line → Line) (s : State) : (updLine pad base f s).mem = s.mem := rfl
@[simp] theorem updLine_poison (pad base : Nat) (f : Line → Line) (s : State) : (updLine pad base f s).poison = s.poison := rfl
@[simp] theorem updLine_lost (pad base : Nat) (f : Line → Line) (s : State) : (updLine pad base f s).lost = s.lost := rfl
@[simp] theorem updLine_sectorKeys (pad base : Nat) (f : Line → Line) (s : State) : (updLine pad base f s).sectorKeys = s.sectorKeys := rfl
@[simp] theorem updLine_checks (pad base : Nat) (f : Line → Line) (s : State) : (updLine pad base f s).checks = s.checks := rfl
@[simp] theorem updLine_feFull (pad base : Nat) (f : Line → Line) (s : State) : (updLine pad base f s).feFull = s.feFull := rfl
@[simp] theorem updLine_pins (pad base : Nat) (f : Line → Line) (s : State) : (updLine pad base f s).pins = s.pins := rfl
@[simp] theorem updLine_feQueue (pad base : Nat) (f : Line → Line) (s : State) : (updLine pad base f s).feQueue = s.feQueue := rfl
@[simp] theorem updLine_feRetry (pad base : Nat) (f : Line → Line) (s : State) : (updLine pad base f s).feRetry = s.feRetry := rfl
@[simp] theorem updLine_held (pad base : Nat) (f : Line → Line) (s : State) : (updLine pad base f s).held = s.held := rfl
@[simp] theorem updLine_performing (pad base : Nat) (f : Line → Line) (s : State) : (updLine pad base f s).performing = s.performing := rfl
@[simp] theorem updLine_hc (pad base : Nat) (f : Line → Line) (s : State) : (updLine pad base f s).hc = s.hc := rfl
@[simp] theorem updLine_sync (pad base : Nat) (f : Line → Line) (s : State) : (updLine pad base f s).sync = s.sync := rfl
@[simp] theorem updLine_dirty (pad base : Nat) (f : Line → Line) (s : State) : (updLine pad base f s).dirty = s.dirty := rfl
@[simp] theorem updLine_tlb (pad base : Nat) (f : Line → Line) (s : State) : (updLine pad base f s).tlb = s.tlb := rfl
@[simp] theorem updLine_dropped (pad base : Nat) (f : Line → Line) (s : State) : (updLine pad base f s).dropped = s.dropped := rfl
@[simp] theorem updLine_paddocks (pad base : Nat) (f : Line → Line) (s : State) : (updLine pad base f s).paddocks = s.paddocks := rfl
@[simp] theorem updLine_failed (pad base : Nat) (f : Line → Line) (s : State) : (updLine pad base f s).failed = s.failed := rfl
@[simp] theorem updLine_domains (pad base : Nat) (f : Line → Line) (s : State) : (updLine pad base f s).domains = s.domains := rfl
@[simp] theorem updLine_frames (pad base : Nat) (f : Line → Line) (s : State) : (updLine pad base f s).frames = s.frames := rfl
@[simp] theorem updLine_keys (pad base : Nat) (f : Line → Line) (s : State) : (updLine pad base f s).keys = s.keys := rfl
@[simp] theorem updLine_objects (pad base : Nat) (f : Line → Line) (s : State) : (updLine pad base f s).objects = s.objects := rfl
@[simp] theorem updLine_nextObj (pad base : Nat) (f : Line → Line) (s : State) : (updLine pad base f s).nextObj = s.nextObj := rfl
@[simp] theorem updLine_codeSeen (pad base : Nat) (f : Line → Line) (s : State) : (updLine pad base f s).codeSeen = s.codeSeen := rfl
@[simp] theorem updLine_queues (pad base : Nat) (f : Line → Line) (s : State) : (updLine pad base f s).queues = s.queues := rfl
@[simp] theorem updLine_packets (pad base : Nat) (f : Line → Line) (s : State) : (updLine pad base f s).packets = s.packets := rfl
@[simp] theorem updLine_launches (pad base : Nat) (f : Line → Line) (s : State) : (updLine pad base f s).launches = s.launches := rfl
@[simp] theorem updLine_nextLaunch (pad base : Nat) (f : Line → Line) (s : State) : (updLine pad base f s).nextLaunch = s.nextLaunch := rfl
@[simp] theorem updLine_wgs (pad base : Nat) (f : Line → Line) (s : State) : (updLine pad base f s).wgs = s.wgs := rfl
@[simp] theorem updLine_cores (pad base : Nat) (f : Line → Line) (s : State) : (updLine pad base f s).cores = s.cores := rfl
@[simp] theorem updLine_isles (pad base : Nat) (f : Line → Line) (s : State) : (updLine pad base f s).isles = s.isles := rfl
@[simp] theorem updLine_quantum (pad base : Nat) (f : Line → Line) (s : State) : (updLine pad base f s).quantum = s.quantum := rfl
@[simp] theorem updLine_autoOn (pad base : Nat) (f : Line → Line) (s : State) : (updLine pad base f s).autoOn = s.autoOn := rfl
@[simp] theorem updLine_faults (pad base : Nat) (f : Line → Line) (s : State) : (updLine pad base f s).faults = s.faults := rfl
@[simp] theorem updLine_homeChanges (pad base : Nat) (f : Line → Line) (s : State) : (updLine pad base f s).homeChanges = s.homeChanges := rfl
@[simp] theorem updLine_mcasts (pad base : Nat) (f : Line → Line) (s : State) : (updLine pad base f s).mcasts = s.mcasts := rfl
@[simp] theorem updLine_cxlOut (pad base : Nat) (f : Line → Line) (s : State) : (updLine pad base f s).cxlOut = s.cxlOut := rfl
@[simp] theorem updLine_portA (pad base : Nat) (f : Line → Line) (s : State) : (updLine pad base f s).portA = s.portA := rfl
@[simp] theorem updLine_portB (pad base : Nat) (f : Line → Line) (s : State) : (updLine pad base f s).portB = s.portB := rfl
@[simp] theorem updLine_mgmt (pad base : Nat) (f : Line → Line) (s : State) : (updLine pad base f s).mgmt = s.mgmt := rfl

/-! ### takeFree -/

@[simp] theorem takeFree_agenda (s : State) : (takeFree s).agenda = s.agenda := rfl
@[simp] theorem takeFree_todo (s : State) : (takeFree s).todo = s.todo := rfl
@[simp] theorem takeFree_core (s : State) : (takeFree s).core = s.core := rfl
@[simp] theorem takeFree_slot (s : State) : (takeFree s).slot = s.slot := rfl
@[simp] theorem takeFree_second (s : State) : (takeFree s).second = s.second := rfl
@[simp] theorem takeFree_time (s : State) : (takeFree s).time = s.time := rfl
@[simp] theorem takeFree_mem (s : State) : (takeFree s).mem = s.mem := rfl
@[simp] theorem takeFree_poison (s : State) : (takeFree s).poison = s.poison := rfl
@[simp] theorem takeFree_lost (s : State) : (takeFree s).lost = s.lost := rfl
@[simp] theorem takeFree_sectorKeys (s : State) : (takeFree s).sectorKeys = s.sectorKeys := rfl
@[simp] theorem takeFree_checks (s : State) : (takeFree s).checks = s.checks := rfl
@[simp] theorem takeFree_feFull (s : State) : (takeFree s).feFull = s.feFull := rfl
@[simp] theorem takeFree_pins (s : State) : (takeFree s).pins = s.pins := rfl
@[simp] theorem takeFree_feQueue (s : State) : (takeFree s).feQueue = s.feQueue := rfl
@[simp] theorem takeFree_feRetry (s : State) : (takeFree s).feRetry = s.feRetry := rfl
@[simp] theorem takeFree_held (s : State) : (takeFree s).held = s.held := rfl
@[simp] theorem takeFree_performing (s : State) : (takeFree s).performing = s.performing := rfl
@[simp] theorem takeFree_lines (s : State) : (takeFree s).lines = s.lines := rfl
@[simp] theorem takeFree_hc (s : State) : (takeFree s).hc = s.hc := rfl
@[simp] theorem takeFree_sync (s : State) : (takeFree s).sync = s.sync := rfl
@[simp] theorem takeFree_dirty (s : State) : (takeFree s).dirty = s.dirty := rfl
@[simp] theorem takeFree_tlb (s : State) : (takeFree s).tlb = s.tlb := rfl
@[simp] theorem takeFree_dropped (s : State) : (takeFree s).dropped = s.dropped := rfl
@[simp] theorem takeFree_paddocks (s : State) : (takeFree s).paddocks = s.paddocks := rfl
@[simp] theorem takeFree_failed (s : State) : (takeFree s).failed = s.failed := rfl
@[simp] theorem takeFree_domains (s : State) : (takeFree s).domains = s.domains := rfl
@[simp] theorem takeFree_frames (s : State) : (takeFree s).frames = s.frames := rfl
@[simp] theorem takeFree_keys (s : State) : (takeFree s).keys = s.keys := rfl
@[simp] theorem takeFree_objects (s : State) : (takeFree s).objects = s.objects := rfl
@[simp] theorem takeFree_nextObj (s : State) : (takeFree s).nextObj = s.nextObj := rfl
@[simp] theorem takeFree_codeSeen (s : State) : (takeFree s).codeSeen = s.codeSeen := rfl
@[simp] theorem takeFree_queues (s : State) : (takeFree s).queues = s.queues := rfl
@[simp] theorem takeFree_packets (s : State) : (takeFree s).packets = s.packets := rfl
@[simp] theorem takeFree_launches (s : State) : (takeFree s).launches = s.launches := rfl
@[simp] theorem takeFree_nextLaunch (s : State) : (takeFree s).nextLaunch = s.nextLaunch := rfl
@[simp] theorem takeFree_wgs (s : State) : (takeFree s).wgs = s.wgs := rfl
@[simp] theorem takeFree_cores (s : State) : (takeFree s).cores = s.cores := rfl
@[simp] theorem takeFree_isles (s : State) : (takeFree s).isles = s.isles := rfl
@[simp] theorem takeFree_quantum (s : State) : (takeFree s).quantum = s.quantum := rfl
@[simp] theorem takeFree_autoOn (s : State) : (takeFree s).autoOn = s.autoOn := rfl
@[simp] theorem takeFree_faults (s : State) : (takeFree s).faults = s.faults := rfl
@[simp] theorem takeFree_homeChanges (s : State) : (takeFree s).homeChanges = s.homeChanges := rfl
@[simp] theorem takeFree_mcasts (s : State) : (takeFree s).mcasts = s.mcasts := rfl
@[simp] theorem takeFree_cxlOut (s : State) : (takeFree s).cxlOut = s.cxlOut := rfl
@[simp] theorem takeFree_portA (s : State) : (takeFree s).portA = s.portA := rfl
@[simp] theorem takeFree_portB (s : State) : (takeFree s).portB = s.portB := rfl
@[simp] theorem takeFree_mgmt (s : State) : (takeFree s).mgmt = s.mgmt := rfl

/-! ### setTile -/

@[simp] theorem setTile_agenda (c t : Nat) (x : Tile) (s : State) : (setTile c t x s).agenda = s.agenda := rfl
@[simp] theorem setTile_todo (c t : Nat) (x : Tile) (s : State) : (setTile c t x s).todo = s.todo := rfl
@[simp] theorem setTile_core (c t : Nat) (x : Tile) (s : State) : (setTile c t x s).core = s.core := rfl
@[simp] theorem setTile_slot (c t : Nat) (x : Tile) (s : State) : (setTile c t x s).slot = s.slot := rfl
@[simp] theorem setTile_second (c t : Nat) (x : Tile) (s : State) : (setTile c t x s).second = s.second := rfl
@[simp] theorem setTile_fresh (c t : Nat) (x : Tile) (s : State) : (setTile c t x s).fresh = s.fresh := rfl
@[simp] theorem setTile_time (c t : Nat) (x : Tile) (s : State) : (setTile c t x s).time = s.time := rfl
@[simp] theorem setTile_mem (c t : Nat) (x : Tile) (s : State) : (setTile c t x s).mem = s.mem := rfl
@[simp] theorem setTile_poison (c t : Nat) (x : Tile) (s : State) : (setTile c t x s).poison = s.poison := rfl
@[simp] theorem setTile_lost (c t : Nat) (x : Tile) (s : State) : (setTile c t x s).lost = s.lost := rfl
@[simp] theorem setTile_sectorKeys (c t : Nat) (x : Tile) (s : State) : (setTile c t x s).sectorKeys = s.sectorKeys := rfl
@[simp] theorem setTile_checks (c t : Nat) (x : Tile) (s : State) : (setTile c t x s).checks = s.checks := rfl
@[simp] theorem setTile_feFull (c t : Nat) (x : Tile) (s : State) : (setTile c t x s).feFull = s.feFull := rfl
@[simp] theorem setTile_pins (c t : Nat) (x : Tile) (s : State) : (setTile c t x s).pins = s.pins := rfl
@[simp] theorem setTile_feQueue (c t : Nat) (x : Tile) (s : State) : (setTile c t x s).feQueue = s.feQueue := rfl
@[simp] theorem setTile_feRetry (c t : Nat) (x : Tile) (s : State) : (setTile c t x s).feRetry = s.feRetry := rfl
@[simp] theorem setTile_held (c t : Nat) (x : Tile) (s : State) : (setTile c t x s).held = s.held := rfl
@[simp] theorem setTile_performing (c t : Nat) (x : Tile) (s : State) : (setTile c t x s).performing = s.performing := rfl
@[simp] theorem setTile_lines (c t : Nat) (x : Tile) (s : State) : (setTile c t x s).lines = s.lines := rfl
@[simp] theorem setTile_hc (c t : Nat) (x : Tile) (s : State) : (setTile c t x s).hc = s.hc := rfl
@[simp] theorem setTile_sync (c t : Nat) (x : Tile) (s : State) : (setTile c t x s).sync = s.sync := rfl
@[simp] theorem setTile_dirty (c t : Nat) (x : Tile) (s : State) : (setTile c t x s).dirty = s.dirty := rfl
@[simp] theorem setTile_tlb (c t : Nat) (x : Tile) (s : State) : (setTile c t x s).tlb = s.tlb := rfl
@[simp] theorem setTile_dropped (c t : Nat) (x : Tile) (s : State) : (setTile c t x s).dropped = s.dropped := rfl
@[simp] theorem setTile_paddocks (c t : Nat) (x : Tile) (s : State) : (setTile c t x s).paddocks = s.paddocks := rfl
@[simp] theorem setTile_failed (c t : Nat) (x : Tile) (s : State) : (setTile c t x s).failed = s.failed := rfl
@[simp] theorem setTile_domains (c t : Nat) (x : Tile) (s : State) : (setTile c t x s).domains = s.domains := rfl
@[simp] theorem setTile_frames (c t : Nat) (x : Tile) (s : State) : (setTile c t x s).frames = s.frames := rfl
@[simp] theorem setTile_keys (c t : Nat) (x : Tile) (s : State) : (setTile c t x s).keys = s.keys := rfl
@[simp] theorem setTile_objects (c t : Nat) (x : Tile) (s : State) : (setTile c t x s).objects = s.objects := rfl
@[simp] theorem setTile_nextObj (c t : Nat) (x : Tile) (s : State) : (setTile c t x s).nextObj = s.nextObj := rfl
@[simp] theorem setTile_codeSeen (c t : Nat) (x : Tile) (s : State) : (setTile c t x s).codeSeen = s.codeSeen := rfl
@[simp] theorem setTile_queues (c t : Nat) (x : Tile) (s : State) : (setTile c t x s).queues = s.queues := rfl
@[simp] theorem setTile_packets (c t : Nat) (x : Tile) (s : State) : (setTile c t x s).packets = s.packets := rfl
@[simp] theorem setTile_launches (c t : Nat) (x : Tile) (s : State) : (setTile c t x s).launches = s.launches := rfl
@[simp] theorem setTile_nextLaunch (c t : Nat) (x : Tile) (s : State) : (setTile c t x s).nextLaunch = s.nextLaunch := rfl
@[simp] theorem setTile_wgs (c t : Nat) (x : Tile) (s : State) : (setTile c t x s).wgs = s.wgs := rfl
@[simp] theorem setTile_isles (c t : Nat) (x : Tile) (s : State) : (setTile c t x s).isles = s.isles := rfl
@[simp] theorem setTile_quantum (c t : Nat) (x : Tile) (s : State) : (setTile c t x s).quantum = s.quantum := rfl
@[simp] theorem setTile_autoOn (c t : Nat) (x : Tile) (s : State) : (setTile c t x s).autoOn = s.autoOn := rfl
@[simp] theorem setTile_faults (c t : Nat) (x : Tile) (s : State) : (setTile c t x s).faults = s.faults := rfl
@[simp] theorem setTile_homeChanges (c t : Nat) (x : Tile) (s : State) : (setTile c t x s).homeChanges = s.homeChanges := rfl
@[simp] theorem setTile_mcasts (c t : Nat) (x : Tile) (s : State) : (setTile c t x s).mcasts = s.mcasts := rfl
@[simp] theorem setTile_cxlOut (c t : Nat) (x : Tile) (s : State) : (setTile c t x s).cxlOut = s.cxlOut := rfl
@[simp] theorem setTile_portA (c t : Nat) (x : Tile) (s : State) : (setTile c t x s).portA = s.portA := rfl
@[simp] theorem setTile_portB (c t : Nat) (x : Tile) (s : State) : (setTile c t x s).portB = s.portB := rfl
@[simp] theorem setTile_mgmt (c t : Nat) (x : Tile) (s : State) : (setTile c t x s).mgmt = s.mgmt := rfl

/-! ### setHandle -/

@[simp] theorem setHandle_agenda (c h : Nat) (x : Handle) (s : State) : (setHandle c h x s).agenda = s.agenda := rfl
@[simp] theorem setHandle_todo (c h : Nat) (x : Handle) (s : State) : (setHandle c h x s).todo = s.todo := rfl
@[simp] theorem setHandle_core (c h : Nat) (x : Handle) (s : State) : (setHandle c h x s).core = s.core := rfl
@[simp] theorem setHandle_slot (c h : Nat) (x : Handle) (s : State) : (setHandle c h x s).slot = s.slot := rfl
@[simp] theorem setHandle_second (c h : Nat) (x : Handle) (s : State) : (setHandle c h x s).second = s.second := rfl
@[simp] theorem setHandle_fresh (c h : Nat) (x : Handle) (s : State) : (setHandle c h x s).fresh = s.fresh := rfl
@[simp] theorem setHandle_time (c h : Nat) (x : Handle) (s : State) : (setHandle c h x s).time = s.time := rfl
@[simp] theorem setHandle_mem (c h : Nat) (x : Handle) (s : State) : (setHandle c h x s).mem = s.mem := rfl
@[simp] theorem setHandle_poison (c h : Nat) (x : Handle) (s : State) : (setHandle c h x s).poison = s.poison := rfl
@[simp] theorem setHandle_lost (c h : Nat) (x : Handle) (s : State) : (setHandle c h x s).lost = s.lost := rfl
@[simp] theorem setHandle_sectorKeys (c h : Nat) (x : Handle) (s : State) : (setHandle c h x s).sectorKeys = s.sectorKeys := rfl
@[simp] theorem setHandle_checks (c h : Nat) (x : Handle) (s : State) : (setHandle c h x s).checks = s.checks := rfl
@[simp] theorem setHandle_feFull (c h : Nat) (x : Handle) (s : State) : (setHandle c h x s).feFull = s.feFull := rfl
@[simp] theorem setHandle_pins (c h : Nat) (x : Handle) (s : State) : (setHandle c h x s).pins = s.pins := rfl
@[simp] theorem setHandle_feQueue (c h : Nat) (x : Handle) (s : State) : (setHandle c h x s).feQueue = s.feQueue := rfl
@[simp] theorem setHandle_feRetry (c h : Nat) (x : Handle) (s : State) : (setHandle c h x s).feRetry = s.feRetry := rfl
@[simp] theorem setHandle_held (c h : Nat) (x : Handle) (s : State) : (setHandle c h x s).held = s.held := rfl
@[simp] theorem setHandle_performing (c h : Nat) (x : Handle) (s : State) : (setHandle c h x s).performing = s.performing := rfl
@[simp] theorem setHandle_lines (c h : Nat) (x : Handle) (s : State) : (setHandle c h x s).lines = s.lines := rfl
@[simp] theorem setHandle_hc (c h : Nat) (x : Handle) (s : State) : (setHandle c h x s).hc = s.hc := rfl
@[simp] theorem setHandle_sync (c h : Nat) (x : Handle) (s : State) : (setHandle c h x s).sync = s.sync := rfl
@[simp] theorem setHandle_dirty (c h : Nat) (x : Handle) (s : State) : (setHandle c h x s).dirty = s.dirty := rfl
@[simp] theorem setHandle_tlb (c h : Nat) (x : Handle) (s : State) : (setHandle c h x s).tlb = s.tlb := rfl
@[simp] theorem setHandle_dropped (c h : Nat) (x : Handle) (s : State) : (setHandle c h x s).dropped = s.dropped := rfl
@[simp] theorem setHandle_paddocks (c h : Nat) (x : Handle) (s : State) : (setHandle c h x s).paddocks = s.paddocks := rfl
@[simp] theorem setHandle_failed (c h : Nat) (x : Handle) (s : State) : (setHandle c h x s).failed = s.failed := rfl
@[simp] theorem setHandle_domains (c h : Nat) (x : Handle) (s : State) : (setHandle c h x s).domains = s.domains := rfl
@[simp] theorem setHandle_frames (c h : Nat) (x : Handle) (s : State) : (setHandle c h x s).frames = s.frames := rfl
@[simp] theorem setHandle_keys (c h : Nat) (x : Handle) (s : State) : (setHandle c h x s).keys = s.keys := rfl
@[simp] theorem setHandle_objects (c h : Nat) (x : Handle) (s : State) : (setHandle c h x s).objects = s.objects := rfl
@[simp] theorem setHandle_nextObj (c h : Nat) (x : Handle) (s : State) : (setHandle c h x s).nextObj = s.nextObj := rfl
@[simp] theorem setHandle_codeSeen (c h : Nat) (x : Handle) (s : State) : (setHandle c h x s).codeSeen = s.codeSeen := rfl
@[simp] theorem setHandle_queues (c h : Nat) (x : Handle) (s : State) : (setHandle c h x s).queues = s.queues := rfl
@[simp] theorem setHandle_packets (c h : Nat) (x : Handle) (s : State) : (setHandle c h x s).packets = s.packets := rfl
@[simp] theorem setHandle_launches (c h : Nat) (x : Handle) (s : State) : (setHandle c h x s).launches = s.launches := rfl
@[simp] theorem setHandle_nextLaunch (c h : Nat) (x : Handle) (s : State) : (setHandle c h x s).nextLaunch = s.nextLaunch := rfl
@[simp] theorem setHandle_wgs (c h : Nat) (x : Handle) (s : State) : (setHandle c h x s).wgs = s.wgs := rfl
@[simp] theorem setHandle_isles (c h : Nat) (x : Handle) (s : State) : (setHandle c h x s).isles = s.isles := rfl
@[simp] theorem setHandle_quantum (c h : Nat) (x : Handle) (s : State) : (setHandle c h x s).quantum = s.quantum := rfl
@[simp] theorem setHandle_autoOn (c h : Nat) (x : Handle) (s : State) : (setHandle c h x s).autoOn = s.autoOn := rfl
@[simp] theorem setHandle_faults (c h : Nat) (x : Handle) (s : State) : (setHandle c h x s).faults = s.faults := rfl
@[simp] theorem setHandle_homeChanges (c h : Nat) (x : Handle) (s : State) : (setHandle c h x s).homeChanges = s.homeChanges := rfl
@[simp] theorem setHandle_mcasts (c h : Nat) (x : Handle) (s : State) : (setHandle c h x s).mcasts = s.mcasts := rfl
@[simp] theorem setHandle_cxlOut (c h : Nat) (x : Handle) (s : State) : (setHandle c h x s).cxlOut = s.cxlOut := rfl
@[simp] theorem setHandle_portA (c h : Nat) (x : Handle) (s : State) : (setHandle c h x s).portA = s.portA := rfl
@[simp] theorem setHandle_portB (c h : Nat) (x : Handle) (s : State) : (setHandle c h x s).portB = s.portB := rfl
@[simp] theorem setHandle_mgmt (c h : Nat) (x : Handle) (s : State) : (setHandle c h x s).mgmt = s.mgmt := rfl

/-! ### due -/

theorem due_eq (i : Instr) (s : State) : due i s = { s with todo := (due i s).todo } := by
  unfold due; split <;> rfl

theorem due_todo (i : Instr) (s : State) : (due i s).todo = if s.todo.contains i then s.todo else s.todo ++ [i] := by
  unfold due; split <;> rfl

theorem mem_due (i : Instr) (s : State) : i ∈ (due i s).todo := by
  rw [due_todo]; split <;> simp_all

theorem mem_due_of (i j : Instr) (s : State) (h : j ∈ s.todo) : j ∈ (due i s).todo := by
  rw [due_todo]; split <;> simp_all

@[simp] theorem due_agenda (i : Instr) (s : State) : (due i s).agenda = s.agenda := by rw [due_eq]
@[simp] theorem due_core (i : Instr) (s : State) : (due i s).core = s.core := by rw [due_eq]
@[simp] theorem due_slot (i : Instr) (s : State) : (due i s).slot = s.slot := by rw [due_eq]
@[simp] theorem due_second (i : Instr) (s : State) : (due i s).second = s.second := by rw [due_eq]
@[simp] theorem due_fresh (i : Instr) (s : State) : (due i s).fresh = s.fresh := by rw [due_eq]
@[simp] theorem due_time (i : Instr) (s : State) : (due i s).time = s.time := by rw [due_eq]
@[simp] theorem due_mem (i : Instr) (s : State) : (due i s).mem = s.mem := by rw [due_eq]
@[simp] theorem due_poison (i : Instr) (s : State) : (due i s).poison = s.poison := by rw [due_eq]
@[simp] theorem due_lost (i : Instr) (s : State) : (due i s).lost = s.lost := by rw [due_eq]
@[simp] theorem due_sectorKeys (i : Instr) (s : State) : (due i s).sectorKeys = s.sectorKeys := by rw [due_eq]
@[simp] theorem due_checks (i : Instr) (s : State) : (due i s).checks = s.checks := by rw [due_eq]
@[simp] theorem due_feFull (i : Instr) (s : State) : (due i s).feFull = s.feFull := by rw [due_eq]
@[simp] theorem due_pins (i : Instr) (s : State) : (due i s).pins = s.pins := by rw [due_eq]
@[simp] theorem due_feQueue (i : Instr) (s : State) : (due i s).feQueue = s.feQueue := by rw [due_eq]
@[simp] theorem due_feRetry (i : Instr) (s : State) : (due i s).feRetry = s.feRetry := by rw [due_eq]
@[simp] theorem due_held (i : Instr) (s : State) : (due i s).held = s.held := by rw [due_eq]
@[simp] theorem due_performing (i : Instr) (s : State) : (due i s).performing = s.performing := by rw [due_eq]
@[simp] theorem due_lines (i : Instr) (s : State) : (due i s).lines = s.lines := by rw [due_eq]
@[simp] theorem due_hc (i : Instr) (s : State) : (due i s).hc = s.hc := by rw [due_eq]
@[simp] theorem due_sync (i : Instr) (s : State) : (due i s).sync = s.sync := by rw [due_eq]
@[simp] theorem due_dirty (i : Instr) (s : State) : (due i s).dirty = s.dirty := by rw [due_eq]
@[simp] theorem due_tlb (i : Instr) (s : State) : (due i s).tlb = s.tlb := by rw [due_eq]
@[simp] theorem due_dropped (i : Instr) (s : State) : (due i s).dropped = s.dropped := by rw [due_eq]
@[simp] theorem due_paddocks (i : Instr) (s : State) : (due i s).paddocks = s.paddocks := by rw [due_eq]
@[simp] theorem due_failed (i : Instr) (s : State) : (due i s).failed = s.failed := by rw [due_eq]
@[simp] theorem due_domains (i : Instr) (s : State) : (due i s).domains = s.domains := by rw [due_eq]
@[simp] theorem due_frames (i : Instr) (s : State) : (due i s).frames = s.frames := by rw [due_eq]
@[simp] theorem due_keys (i : Instr) (s : State) : (due i s).keys = s.keys := by rw [due_eq]
@[simp] theorem due_objects (i : Instr) (s : State) : (due i s).objects = s.objects := by rw [due_eq]
@[simp] theorem due_nextObj (i : Instr) (s : State) : (due i s).nextObj = s.nextObj := by rw [due_eq]
@[simp] theorem due_codeSeen (i : Instr) (s : State) : (due i s).codeSeen = s.codeSeen := by rw [due_eq]
@[simp] theorem due_queues (i : Instr) (s : State) : (due i s).queues = s.queues := by rw [due_eq]
@[simp] theorem due_packets (i : Instr) (s : State) : (due i s).packets = s.packets := by rw [due_eq]
@[simp] theorem due_launches (i : Instr) (s : State) : (due i s).launches = s.launches := by rw [due_eq]
@[simp] theorem due_nextLaunch (i : Instr) (s : State) : (due i s).nextLaunch = s.nextLaunch := by rw [due_eq]
@[simp] theorem due_wgs (i : Instr) (s : State) : (due i s).wgs = s.wgs := by rw [due_eq]
@[simp] theorem due_cores (i : Instr) (s : State) : (due i s).cores = s.cores := by rw [due_eq]
@[simp] theorem due_isles (i : Instr) (s : State) : (due i s).isles = s.isles := by rw [due_eq]
@[simp] theorem due_quantum (i : Instr) (s : State) : (due i s).quantum = s.quantum := by rw [due_eq]
@[simp] theorem due_autoOn (i : Instr) (s : State) : (due i s).autoOn = s.autoOn := by rw [due_eq]
@[simp] theorem due_faults (i : Instr) (s : State) : (due i s).faults = s.faults := by rw [due_eq]
@[simp] theorem due_homeChanges (i : Instr) (s : State) : (due i s).homeChanges = s.homeChanges := by rw [due_eq]
@[simp] theorem due_mcasts (i : Instr) (s : State) : (due i s).mcasts = s.mcasts := by rw [due_eq]
@[simp] theorem due_cxlOut (i : Instr) (s : State) : (due i s).cxlOut = s.cxlOut := by rw [due_eq]
@[simp] theorem due_portA (i : Instr) (s : State) : (due i s).portA = s.portA := by rw [due_eq]
@[simp] theorem due_portB (i : Instr) (s : State) : (due i s).portB = s.portB := by rw [due_eq]
@[simp] theorem due_mgmt (i : Instr) (s : State) : (due i s).mgmt = s.mgmt := by rw [due_eq]

/-! ### Reads after updates -/

@[simp] theorem coreAt_setCore (c : Nat) (k : Core) (s : State) (d : Nat) :
    coreAt (setCore c k s) d = if d = c then k else coreAt s d := by
  simp only [coreAt, setCore, get_set]

@[simp] theorem flockAt_setFlock (c f : Nat) (x : Flock) (s : State) (d g : Nat) :
    flockAt (setFlock c f x s) d g = if d = c ∧ g = f then x else flockAt s d g := by
  simp only [flockAt, setFlock, coreAt_setCore]
  by_cases h : d = c
  · subst h; simp
  · simp [h]

@[simp] theorem cur_setCur (x : Flock) (s : State) : cur (setCur x s) = x := by
  simp only [cur, setCur, flockAt_setFlock, setFlock_core, setFlock_slot, and_self, if_true]

theorem flockAt_setCur (x : Flock) (s : State) (d g : Nat) :
    flockAt (setCur x s) d g = if d = s.core ∧ g = s.slot then x else flockAt s d g := flockAt_setFlock _ _ _ _ _ _

/-- A core after a change of one flock: only its flocks differ. -/
theorem coreAt_setFlock (c f : Nat) (x : Flock) (s : State) (d : Nat) :
    coreAt (setFlock c f x s) d = { coreAt s d with flocks := (coreAt (setFlock c f x s) d).flocks } := by
  simp only [setFlock, coreAt_setCore]
  split <;> simp_all

theorem setCore_eq (c : Nat) (k : Core) (s : State) : setCore c k s = { s with cores := (setCore c k s).cores } := rfl
theorem setFlock_eq (c f : Nat) (x : Flock) (s : State) : setFlock c f x s = { s with cores := (setFlock c f x s).cores } := rfl
theorem setCur_eq (x : Flock) (s : State) : setCur x s = { s with cores := (setCur x s).cores } := rfl

@[simp] theorem flockAt_due (i : Instr) (s : State) (c f : Nat) : flockAt (due i s) c f = flockAt s c f := by
  simp only [flockAt, coreAt, due_cores]
@[simp] theorem coreAt_due (i : Instr) (s : State) (c : Nat) : coreAt (due i s) c = coreAt s c := by
  simp only [coreAt, due_cores]
@[simp] theorem cur_due (i : Instr) (s : State) : cur (due i s) = cur s := by
  simp only [cur, flockAt_due, due_core, due_slot]
@[simp] theorem flockAt_updWg (l k : Nat) (f : Wg → Wg) (s : State) (c n : Nat) : flockAt (updWg l k f s) c n = flockAt s c n := rfl
@[simp] theorem cur_updWg (l k : Nat) (f : Wg → Wg) (s : State) : cur (updWg l k f s) = cur s := rfl
@[simp] theorem flockAt_updLaunch (l : Nat) (f : Launch → Launch) (s : State) (c n : Nat) :
    flockAt (updLaunch l f s) c n = flockAt s c n := rfl

@[simp] theorem tileAt_setTile (c t : Nat) (x : Tile) (s : State) (d u : Nat) :
    tileAt (setTile c t x s) d u = if d = c ∧ u = t then x else tileAt s d u := by
  simp only [tileAt, setTile, coreAt_setCore]
  by_cases h : d = c
  · subst h; simp
  · simp [h]

@[simp] theorem flockAt_setTile (c t : Nat) (x : Tile) (s : State) (d f : Nat) : flockAt (setTile c t x s) d f = flockAt s d f := by
  simp only [flockAt, setTile, coreAt_setCore]
  split <;> simp_all

@[simp] theorem cur_setTile (c t : Nat) (x : Tile) (s : State) : cur (setTile c t x s) = cur s := flockAt_setTile _ _ _ _ _ _

@[simp] theorem handleAt_setHandle (c h : Nat) (x : Handle) (s : State) (d n : Nat) :
    handleAt (setHandle c h x s) d n = if d = c ∧ n = h then x else handleAt s d n := by
  simp only [handleAt, setHandle, coreAt_setCore]
  by_cases e : d = c
  · subst e; simp
  · simp [e]

@[simp] theorem flockAt_setHandle (c h : Nat) (x : Handle) (s : State) (d f : Nat) :
    flockAt (setHandle c h x s) d f = flockAt s d f := by
  simp only [flockAt, setHandle, coreAt_setCore]
  split <;> simp_all

@[simp] theorem cur_setHandle (c h : Nat) (x : Handle) (s : State) : cur (setHandle c h x s) = cur s := flockAt_setHandle _ _ _ _ _ _

/-! ### Paths -/

@[simp] theorem pathOf_withPath (f : Flock) (a b : Bool) (p : Option Path) :
    pathOf (withPath f a p) b = if a = b then p else pathOf f b := by
  cases a <;> cases b <;> rfl

@[simp] theorem stack_withPath (f : Flock) (a : Bool) (p : Option Path) : (withPath f a p).stack = f.stack := by cases a <;> rfl

/-! ### First entries of lists -/

/-- The first entry that a test picks, after a change of it that the test does not see. -/
theorem find_updFirst {α : Type} (p : α → Bool) (f : α → α) (hp : ∀ x, p x = true → p (f x) = true) (l : List α) :
    (updFirst p f l).find? p = (l.find? p).map f := by
  induction l with
  | nil => rfl
  | cons a r ih =>
    by_cases h : p a = true
    · simp [updFirst, h, hp a h]
    · simp [updFirst, h, ih]

/-- Another test's first entry, where no entry passes both. -/
theorem find_updFirst_ne {α : Type} (p q : α → Bool) (f : α → α) (hq : ∀ x, p x = true → q x = false ∧ q (f x) = false) (l : List α) :
    (updFirst p f l).find? q = l.find? q := by
  induction l with
  | nil => rfl
  | cons a r ih =>
    by_cases h : p a = true
    · simp [updFirst, h, hq a h]
    · simp only [updFirst, h]
      by_cases g : q a = true <;> simp [g, ih]

end Sys2Proof.Laws
end

