-- ==== Sys2Proof/Laws/Memory.lean ====
section
/-! SUPPORT. What the memory side of the device can change: bytes, lines, translations and each core's leases and timestamp, and never a
flock, a launch or a queue; and that it keeps memory in its canonical form. -/

namespace Sys2Proof.Laws

open Machine

/-! ### Bytes -/

theorem memGet_memPut (m : List Host.Cell) (a : Nat) (b : Byte) (k : Nat) : memGet (memPut m a b) k = if k = a then b else memGet m k :=
  get_set _ _ _ _ _

theorem wf_memPut {m : List Host.Cell} (a : Nat) (b : Byte) (h : Memory.wf m = true) : Memory.wf (memPut m a b) = true := wf_set _ _ h

theorem wf_memPuts (d : List Byte) {m : List Host.Cell} (a : Nat) (h : Memory.wf m = true) : Memory.wf (memPuts m a d) = true := by
  induction d generalizing m a with
  | nil => exact h
  | cons b r ih => exact ih (a + 1) (wf_memPut a b h)

/-- What a byte reads as after bytes have been written: the byte written to it, or what it was. -/
theorem memGet_memPuts (d : List Byte) (m : List Host.Cell) (a k : Nat) :
    memGet (memPuts m a d) k = if a ≤ k ∧ k < a + d.length then d.getD (k - a) 0 else memGet m k := by
  induction d generalizing m a with
  | nil => simp [memPuts]
  | cons b r ih =>
    rw [memPuts, ih, memGet_memPut]
    simp only [List.length_cons]
    by_cases h1 : a + 1 ≤ k ∧ k < a + 1 + r.length
    · rw [if_pos h1, if_pos (by omega)]
      obtain ⟨n, hn⟩ : ∃ n, k - a = n + 1 := ⟨k - a - 1, by omega⟩
      rw [hn, List.getD_cons_succ]
      congr 1
      omega
    · rw [if_neg h1]
      by_cases h2 : k = a
      · subst h2; simp
      · rw [if_neg h2, if_neg (by omega)]

theorem wf_reset : Memory.wf State.reset.mem = true := rfl

/-! ### The memory side -/

/-- Two states differ on the memory side at most. -/
def MemorySide (s t : State) : Prop :=
  (∃ k hd po du, t = { s with
    mem := t.mem, poison := t.poison, lost := t.lost, sectorKeys := t.sectorKeys, checks := t.checks, feFull := t.feFull, pins := t.pins
    lines := t.lines, hc := t.hc, dirty := t.dirty, tlb := t.tlb, dropped := t.dropped, cores := k, mgmt := { s.mgmt with errHead := hd, errPoisoned := po, errDue := du } }) ∧
  (∀ c, ∃ p l, coreAt t c = { coreAt s c with pts := p, leases := l }) ∧ (Memory.wf s.mem = true → Memory.wf t.mem = true)

theorem MemorySide.refl (s : State) : MemorySide s s := ⟨⟨s.cores, s.mgmt.errHead, s.mgmt.errPoisoned, s.mgmt.errDue, rfl⟩, fun _ => ⟨_, _, rfl⟩, id⟩

theorem MemorySide.trans {s t u : State} (h : MemorySide s t) (k : MemorySide t u) : MemorySide s u := by
  obtain ⟨⟨a, b, c, d, e⟩, f, w⟩ := h
  obtain ⟨⟨a', b', c', d', e'⟩, f', w'⟩ := k
  refine ⟨⟨a', b', c', d', ?_⟩, fun c => ?_, w' ∘ w⟩
  · rw [e']; simp only [State.mk.injEq, true_and]
    rw [e]
    simp
  · obtain ⟨p, l, x⟩ := f c
    obtain ⟨p', l', y⟩ := f' c
    exact ⟨p', l', by rw [y, x]⟩

theorem MemorySide.flock {s t : State} (h : MemorySide s t) (c f : Nat) : flockAt t c f = flockAt s c f := by
  obtain ⟨p, l, x⟩ := h.2.1 c
  simp only [flockAt, x]

theorem MemorySide.wf {s t : State} (h : MemorySide s t) : Memory.wf s.mem = true → Memory.wf t.mem = true := h.2.2

/-- Fields of the memory side written over a state. -/
theorem memorySide_of (s : State) (m : List Host.Cell) (po : List Nat) (lo : List (Nat × Nat)) (sk : SMap (Option (BitVec 512))) (ch : SMap (Option Nat))
    (fe : List Nat) (pi : SMap Pin) (ln : List Line) (hc : SMap (BitVec 16)) (d : List Nat) (tl dr : List TlbEntry)
    (hw : Memory.wf s.mem = true → Memory.wf m = true) :
    MemorySide s { s with
      mem := m, poison := po, lost := lo, sectorKeys := sk, checks := ch, feFull := fe, pins := pi, lines := ln, hc := hc, dirty := d
      tlb := tl, dropped := dr } :=
  ⟨⟨s.cores, s.mgmt.errHead, s.mgmt.errPoisoned, s.mgmt.errDue, rfl⟩, fun _ => ⟨_, _, rfl⟩, hw⟩

theorem memorySide_mem (s : State) (m : List Host.Cell) (hw : Memory.wf s.mem = true → Memory.wf m = true) :
    MemorySide s { s with mem := m } := memorySide_of s m _ _ _ _ _ _ _ _ _ _ _ hw

theorem memorySide_lines (s : State) (ln : List Line) : MemorySide s { s with lines := ln } := memorySide_of s _ _ _ _ _ _ _ ln _ _ _ _ id

theorem memorySide_checks (s : State) (ch : SMap (Option Nat)) : MemorySide s { s with checks := ch } :=
  memorySide_of s _ _ _ _ ch _ _ _ _ _ _ _ id

theorem memorySide_tlb (s : State) (tl : List TlbEntry) : MemorySide s { s with tlb := tl } := memorySide_of s _ _ _ _ _ _ _ _ _ _ tl _ id

theorem memorySide_updLine (pad base : Nat) (f : Line → Line) (s : State) : MemorySide s (updLine pad base f s) := memorySide_lines s _

theorem memorySide_putLine (l : Line) (s : State) : MemorySide s (putLine l s) := memorySide_lines s _

/-- A loop over steps that stay on the memory side. -/
theorem memorySide_foldl {α : Type} (f : State → α → State) (h : ∀ s a, MemorySide s (f s a)) (l : List α) (s : State) :
    MemorySide s (l.foldl f s) := by
  induction l generalizing s with
  | nil => exact .refl s
  | cons a r ih => exact (h s a).trans (ih (f s a))

/-! ### Poison and the entries that report it -/

theorem memorySide_errDue (s : State) (du : List (Option (Nat × Nat) × List Byte)) :
    MemorySide s { s with mgmt := { s.mgmt with errDue := du } } :=
  ⟨⟨_, _, _, _, rfl⟩, fun _ => ⟨_, _, rfl⟩, id⟩

theorem memorySide_errEntryFor (save : Option (Nat × Nat)) (kind unit owner pa launch : Nat) (s : State) :
    MemorySide s (errEntryFor save kind unit owner pa launch s) := by
  unfold errEntryFor
  split
  · exact .refl s
  · exact memorySide_errDue s _

theorem memorySide_errEntry (kind unit owner pa launch : Nat) (s : State) : MemorySide s (errEntry kind unit owner pa launch s) :=
  memorySide_errEntryFor _ _ _ _ _ _ s

theorem memorySide_poisonSector (kind unit owner : Nat) (s : State) (sec : Nat) :
    MemorySide s (poisonSector kind unit owner s sec) := by
  unfold poisonSector
  split
  · exact .refl s
  · have h : MemorySide s { s with poison := setInsert s.poison sec, mgmt := { s.mgmt with errPoisoned := min 0xFFFF (s.mgmt.errPoisoned + 1) } } :=
      ⟨⟨s.cores, s.mgmt.errHead, min 0xFFFF (s.mgmt.errPoisoned + 1), s.mgmt.errDue, rfl⟩, fun _ => ⟨_, _, rfl⟩, id⟩
    exact h.trans (memorySide_errEntry _ _ _ _ _ _)

/-! ### Bytes, lines and the device's physical accesses -/

theorem memorySide_claimSector (key : Option (BitVec 512)) (loc n : Nat) (s : State) (sec : Nat) :
    MemorySide s (claimSector key loc n s sec) := by
  have h : MemorySide s (if (!coversSector loc n sec && sectorFails s key sec) = true then
      poisonSector 3 0xFFFF (locOwner s (32 * sec)) s sec else s) := by
    split
    · exact memorySide_poisonSector _ _ _ s _
    · exact .refl s
  unfold claimSector
  extract_lets u
  change MemorySide s u at h
  split
  · exact h.trans (memorySide_of _ _ _ _ _ _ _ _ _ _ _ _ _ (wf_memPuts _ _))
  · exact h.trans (memorySide_checks _ _)

theorem memorySide_writeUnder (key : Option (BitVec 512)) (loc : Nat) (d : List Byte) (s : State) :
    MemorySide s (writeUnder key loc d s) := by
  unfold writeUnder
  exact (memorySide_foldl _ (memorySide_claimSector key loc d.length) _ s).trans (memorySide_mem _ _ (wf_memPuts _ _))

theorem memorySide_clearCovered (r : List (Nat × Nat)) (s : State) : MemorySide s (clearCovered r s) :=
  memorySide_of s _ _ _ _ _ _ _ _ _ _ _ _ id

theorem memorySide_fillLine (pad base : Nat) (key : Option (BitVec 512)) (s : State) : MemorySide s (fillLine pad base key s) := by
  unfold fillLine
  split
  · exact .refl s
  · exact memorySide_putLine _ s

theorem memorySide_settleLine (pad base : Nat) (s : State) : MemorySide s (settleLine pad base s) := memorySide_updLine _ _ _ s

theorem memorySide_readyLine (x pad base : Nat) (s : State) : MemorySide s (readyLine x pad base s) :=
  (memorySide_fillLine _ _ _ s).trans (memorySide_settleLine _ _ _)

theorem memorySide_claimHeld (pad base loc n : Nat) (s : State) (sec : Nat) : MemorySide s (claimHeld pad base loc n s sec) := by
  unfold claimHeld
  split
  · exact .refl s
  · split
    · exact .refl s
    · have h : MemorySide s (if coversSector loc n sec = true then s else poisonSector 3 0xFFFF (granuleOwner s (32 * sec)) s sec) := by
        split
        · exact .refl s
        · exact memorySide_poisonSector _ _ _ s _
      exact h.trans (memorySide_updLine _ _ _ _)

theorem memorySide_lineStore (pad loc : Nat) (d : List Byte) (s : State) : MemorySide s (lineStore pad loc d s) := by
  have h (f : Line → Line) : MemorySide s (updLine pad (lineBase s pad loc) f
      ((sectorsOf loc d.length).foldl (claimHeld pad (lineBase s pad loc) loc d.length) s)) :=
    (memorySide_foldl _ (memorySide_claimHeld pad (lineBase s pad loc) loc d.length) _ s).trans (memorySide_updLine _ _ _ _)
  unfold lineStore
  simp only
  split
  · split
    · exact (h _).trans (memorySide_writeUnder _ _ _ _)
    · exact h _
  · exact h _

theorem memorySide_lineClean (pad base : Nat) (s : State) : MemorySide s (lineClean pad base s) := by
  unfold lineClean
  split
  · split
    · exact (memorySide_writeUnder _ _ _ s).trans ((memorySide_checks _ _).trans (memorySide_updLine _ _ _ _))
    · exact .refl s
  · exact .refl s

theorem memorySide_physPiece (pa : Nat) (d : List Byte) (s : State) : MemorySide s (physPiece pa d s) := by
  unfold physPiece
  split
  · exact memorySide_lineStore _ _ _ s
  · exact memorySide_writeUnder _ _ _ s

theorem memorySide_physStore (d : List Byte) (pa : Nat) (s : State) : MemorySide s (physStore pa d s) :=
  memorySide_foldl _ (fun s (p : Nat × Nat) => memorySide_physPiece p.1 _ s) _ s

theorem memorySide_physVerify (pa n : Nat) (s : State) : MemorySide s (physVerify pa n s) :=
  memorySide_foldl _ (fun s sec => memorySide_poisonSector _ _ _ s sec) _ s

/-! ### Leases -/

/-- A core's timestamp and leases written. -/
theorem memorySide_setCore (c : Nat) (p : BitVec 16) (l : List LeaseCopy) (s : State) :
    MemorySide s (setCore c { coreAt s c with pts := p, leases := l } s) := by
  refine ⟨⟨_, s.mgmt.errHead, s.mgmt.errPoisoned, s.mgmt.errDue, rfl⟩, fun d => ?_, id⟩
  rw [coreAt_setCore]
  split
  · rename_i h; exact ⟨p, l, by rw [h]⟩
  · exact ⟨_, _, rfl⟩

theorem memorySide_setPts (c : Nat) (x : BitVec 16) (b : Bool) (s : State) : MemorySide s (setPts c x b s) := by
  unfold setPts
  simp only
  split
  · exact memorySide_setCore c x _ s
  · exact memorySide_setCore c x _ s

theorem memorySide_catchUp (c : Nat) (h : BitVec 16) (s : State) : MemorySide s (catchUp c h s) := by
  unfold catchUp
  split
  · exact .refl s
  · exact memorySide_setPts _ _ _ s

theorem memorySide_setHomeClock (base : Nat) (h : BitVec 16) (s : State) : MemorySide s (setHomeClock base h s) := by
  unfold setHomeClock homeSweep
  simp only
  split
  · exact memorySide_of s _ _ _ _ _ _ _ _ _ _ _ _ id
  · exact memorySide_of s _ _ _ _ _ _ _ _ _ _ _ _ id

theorem memorySide_keepCopy (c : Nat) (x : LeaseCopy) (s : State) : MemorySide s (keepCopy c x s) := memorySide_setCore c _ _ s

theorem memorySide_homeRead (c pad base : Nat) (s : State) : MemorySide s (homeRead c pad base s) := by
  unfold homeRead
  split
  · exact .refl s
  · exact (((memorySide_updLine _ _ _ s).trans (memorySide_setHomeClock _ _ _)).trans (memorySide_keepCopy _ _ _)).trans
      (memorySide_catchUp _ _ _)

theorem memorySide_leaseRead (c pad base : Nat) (s : State) : MemorySide s (leaseRead c pad base s) := by
  unfold leaseRead
  simp only
  have h : MemorySide s (match validCopy s c pad base with
    | some _ => s
    | none => homeRead c pad base s) := by
    split
    · exact .refl s
    · exact memorySide_homeRead _ _ _ s
  split
  · exact h.trans (memorySide_setPts _ _ _ _)
  · exact h

theorem memorySide_leaseStamp (core : Option Nat) (pad base : Nat) (s : State) : MemorySide s (leaseStamp core pad base s) := by
  unfold leaseStamp
  split
  · exact .refl s
  · cases core with
    | none => exact (memorySide_updLine pad base _ s).trans (memorySide_setHomeClock _ _ _)
    | some c =>
      exact (((memorySide_updLine pad base _ s).trans (memorySide_setHomeClock _ _ _)).trans (memorySide_keepCopy _ _ _)).trans
        ((memorySide_setPts _ _ _ _).trans (memorySide_catchUp _ _ _))

theorem memorySide_leaseStamps (core : Option Nat) (ls : List (Nat × Nat)) (s : State) : MemorySide s (leaseStamps core ls s) :=
  memorySide_foldl (fun s (l : Nat × Nat) => leaseStamp core l.1 l.2 s) (fun s l => memorySide_leaseStamp core l.1 l.2 s) ls s

/-- A write at a home by physical address changes the memory side alone. -/
theorem memorySide_physWrite (d : List Byte) (pa : Nat) (s : State) : MemorySide s (physWrite pa d s) :=
  (((memorySide_foldl _ (fun s (p : Nat × Nat) => memorySide_of (noteDirty p.1 s) _ _ _ _ _ _ _ _ _ _ _ _ id) _ s).trans
    (memorySide_physStore _ _ _)).trans (memorySide_foldl _ (fun s (l : Line) => memorySide_updLine l.pad l.base _ s) _ _)).trans
      (memorySide_leaseStamps none _ _)

/-! ### Elements -/

theorem memorySide_markDirty (x va : Nat) (s : State) : MemorySide s (markDirty x va s) := memorySide_of s _ _ _ _ _ _ _ _ _ _ _ _ id

theorem memorySide_shareLine (c pad base : Nat) (s : State) : MemorySide s (shareLine c pad base s) := memorySide_updLine _ _ _ s

theorem memorySide_foldLine (pad base : Nat) (s : State) : MemorySide s (foldLine pad base s) := memorySide_updLine _ _ _ s

theorem memorySide_combineRed (core pad loc x : Nat) (s : State) : MemorySide s (combineRed core pad loc x s) := by
  unfold combineRed
  simp only
  split
  · exact memorySide_updLine _ _ _ s
  · exact memorySide_updLine _ _ _ s

/-- A load changes the memory side alone. -/
theorem memorySide_loadBytes (core : Option Nat) (x va n : Nat) (s : State) : MemorySide s (loadBytes core x va n s).1 := by
  unfold loadBytes
  simp only
  split
  · exact .refl s
  · have h : MemorySide s (match padMode (readyLine x (leafPad x) (lineBase s (leafPad x) (leafLoc x va)) s) (leafPad x), core with
      | 0, some c => shareLine c (leafPad x) (lineBase s (leafPad x) (leafLoc x va))
          (readyLine x (leafPad x) (lineBase s (leafPad x) (leafLoc x va)) s)
      | 1, some c => leaseRead c (leafPad x) (lineBase s (leafPad x) (leafLoc x va))
          (readyLine x (leafPad x) (lineBase s (leafPad x) (leafLoc x va)) s)
      | 2, _ => foldLine (leafPad x) (lineBase s (leafPad x) (leafLoc x va))
          (readyLine x (leafPad x) (lineBase s (leafPad x) (leafLoc x va)) s)
      | _, _ => readyLine x (leafPad x) (lineBase s (leafPad x) (leafLoc x va)) s) := by
      refine (memorySide_readyLine x (leafPad x) (lineBase s (leafPad x) (leafLoc x va)) s).trans ?_
      split
      · exact memorySide_shareLine _ _ _ _
      · exact memorySide_leaseRead _ _ _ _
      · exact memorySide_foldLine _ _ _
      · exact .refl _
    split <;> exact h

/-- A store changes the memory side alone. -/
theorem memorySide_storeBytes (core : Option Nat) (x va : Nat) (d : List Byte) (s : State) : MemorySide s (storeBytes core x va d s) := by
  unfold storeBytes
  simp only
  refine (memorySide_markDirty x va s).trans ?_
  split
  · exact memorySide_writeUnder _ _ _ _
  · have h := (memorySide_readyLine x (leafPad x) (lineBase (markDirty x va s) (leafPad x) (leafLoc x va)) (markDirty x va s)).trans
      (memorySide_lineStore (leafPad x) (leafLoc x va) d _)
    split
    · exact h.trans (memorySide_updLine _ _ _ _)
    · exact h

theorem memorySide_verifyElement (x va n : Nat) (s : State) : MemorySide s (verifyElement x va n s) :=
  memorySide_foldl _ (memorySide_poisonSector _ _ _) _ s

/-! ### Translations and the device's own accesses -/

theorem memorySide_clearPins (gone : Nat → Pin → Bool) (s : State) : MemorySide s (clearPins gone s) := by
  unfold clearPins
  simp only
  split
  · exact .refl s
  · exact memorySide_of s _ _ _ _ _ _ _ _ _ _ _ _ id

theorem memorySide_unpinMap (dom va : Nat) (keep : Option Nat) (s : State) : MemorySide s (unpinMap dom va keep s) := by
  unfold unpinMap
  simp only
  split
  · exact (memorySide_of s _ _ _ _ _ _ _ _ _ _ _ _ id).trans (memorySide_clearPins _ _)
  · exact .refl s

theorem memorySide_pinPage (x dom va : Nat) (s : State) : MemorySide s (pinPage x dom va s) := by
  unfold pinPage
  simp only
  split
  · exact .refl s
  · split
    · split <;> exact memorySide_of _ _ _ _ _ _ _ _ _ _ _ _ _ id
    · exact memorySide_of _ _ _ _ _ _ _ _ _ _ _ _ _ id

theorem memorySide_pinFirst (x dom va : Nat) (s : State) : MemorySide s (pinFirst x dom va s) := by
  unfold pinFirst
  split
  · split
    · exact .refl s
    · exact (memorySide_tlb s _).trans (memorySide_pinPage _ _ _ _)
  · exact .refl s

theorem memorySide_dropEntries (gone : TlbEntry → Bool) (s : State) : MemorySide s (dropEntries gone s) :=
  memorySide_of s _ _ _ _ _ _ _ _ _ _ _ _ id

theorem memorySide_holdTlb (e : TlbEntry) (s : State) : MemorySide s (holdTlb e s) := memorySide_tlb s _

theorem memorySide_translate (dom va : Nat) (s : State) : MemorySide s (Machine.translate dom va s).1 := by
  unfold Machine.translate
  split
  · exact .refl s
  · split
    · exact .refl s
    · split
      · have h (x pa : Nat) (b : Bool) : MemorySide s (if b = true then s else physWrite pa (leBytes 16 x) s) := by
          split
          · exact .refl s
          · exact memorySide_physWrite _ _ s
        exact (h _ _ _).trans ((memorySide_unpinMap _ _ _ _).trans (memorySide_holdTlb _ _))
      · exact (memorySide_unpinMap dom va none s).trans (memorySide_holdTlb _ _)
      · exact memorySide_unpinMap dom va none s
      · exact (memorySide_physVerify _ _ s).trans (memorySide_unpinMap dom va none _)

/-- A translation with its checks, and the page that it pins, change the memory side alone. -/
theorem memorySide_pageFor (ag : Agent) (k : AccKind) (va : Nat) (s : State) : MemorySide s (pageFor ag k va s).1 := by
  have h := memorySide_translate ag.dom va s
  unfold pageFor
  split <;> rename_i e <;> rw [e] at h
  · split
    · exact h
    · exact h.trans (memorySide_pinFirst _ _ _ _)
  · exact h
  · exact h

theorem memorySide_devicePage (dom : Nat) (priv : Bool) (k : AccKind) (va : Nat) (s : State) :
    MemorySide s (devicePage dom priv k va s).1 := by
  have h := memorySide_pageFor { dom := dom, priv := priv, core := Config.coreCount } k va s
  unfold devicePage
  split <;> rename_i e <;> rw [e] at h <;> exact h

theorem memorySide_deviceRead (dom : Nat) (priv : Bool) (n va : Nat) (s : State) : MemorySide s (deviceRead dom priv n va s).1 := by
  induction n generalizing va s with
  | zero => exact .refl s
  | succ n ih =>
    have h := memorySide_devicePage dom priv .read va s
    rw [deviceRead]
    split <;> rename_i e <;> rw [e] at h
    · exact h
    · rename_i u x
      have v := h.trans (memorySide_verifyElement x va 1 u)
      simp only
      split
      · exact v
      · have g := (v.trans (memorySide_loadBytes none x va 1 _)).trans (ih (va + 1) _)
        split <;> rename_i e' <;> rw [e'] at g <;> exact g

theorem memorySide_deviceReadNat (dom : Nat) (priv : Bool) (va n : Nat) (s : State) : MemorySide s (deviceReadNat dom priv va n s).1 := by
  have h := memorySide_deviceRead dom priv n va s
  unfold deviceReadNat
  split <;> rename_i e <;> rw [e] at h <;> exact h

theorem memorySide_deviceCanWrite (dom : Nat) (priv : Bool) (n va : Nat) (s : State) :
    MemorySide s (deviceCanWrite dom priv n va s).1 := by
  induction n generalizing va s with
  | zero => exact .refl s
  | succ n ih =>
    have h := memorySide_devicePage dom priv .write va s
    rw [deviceCanWrite]
    split <;> rename_i e <;> rw [e] at h
    · exact h
    · split
      · exact h
      · exact h.trans (ih _ _)

theorem memorySide_deviceWriteGo (dom : Nat) (priv : Bool) (d : List Byte) (va : Nat) (ps : List (Nat × Nat))
    (acc : List (Nat × Nat) × List (Nat × Nat)) (s : State) : MemorySide s (deviceWriteGo dom priv d va ps acc s).1 := by
  induction ps generalizing acc s with
  | nil => exact .refl s
  | cons p r ih =>
    have h := memorySide_devicePage dom priv .write p.1 s
    rw [deviceWriteGo]
    split <;> rename_i e <;> rw [e] at h
    · exact h
    · exact (h.trans (memorySide_storeBytes _ _ _ _ _)).trans (ih _ _)

/-- A device write changes the memory side alone. -/
theorem memorySide_deviceWrite (dom : Nat) (priv : Bool) (va : Nat) (d : List Byte) (s : State) :
    MemorySide s (deviceWrite dom priv va d s).1 := by
  have h := memorySide_deviceCanWrite dom priv (unitsOf va d.length) va s
  unfold deviceWrite
  split <;> rename_i e <;> rw [e] at h
  · exact h
  · rename_i u
    have g := h.trans (memorySide_deviceWriteGo dom priv d va (sectorPieces va d.length) ([], []) u)
    exact g.trans ((memorySide_leaseStamps none _ _).trans (memorySide_clearCovered _ _))

theorem memorySide_writeErr (s : State) (e : Option (Nat × Nat) × List Byte) : MemorySide s (writeErr s e) := by
  have h := memorySide_deviceWrite 0 true (s.mgmt.errRing * 4096 + 32 * (s.mgmt.errHead % 4096)) e.2 s
  unfold writeErr
  split
  · exact .refl s
  · split <;> rename_i x <;> rw [x] at h
    · exact h.trans ⟨⟨_, _, _, _, rfl⟩, fun _ => ⟨_, _, rfl⟩, id⟩
    · exact h

/-- Writing the due error ring entries changes the memory side alone. -/
theorem memorySide_flushErrors (s : State) : MemorySide s (flushErrors s) := by
  unfold flushErrors
  split
  · exact .refl s
  · exact (memorySide_errDue s _).trans (memorySide_foldl _ memorySide_writeErr _ _)

end Sys2Proof.Laws
end

