-- ==== Sys2Proof/Laws/Registers.lean ====
section
/-! SUPPORT. What the shared operations of the register instructions do: each says it once, and the statements about single
instructions cite it. -/

namespace Sys2Proof.Laws

open Sys2Proof.Machine

/-! ### Masks -/

theorem inMask_eq (m : Mask) (t : Nat) : inMask m t = m.getLsbD t := rfl

theorem inMask_lt (m : Mask) (t : Nat) (h : inMask m t = true) : t < 32 := by
  by_contra hn
  simp [inMask, BitVec.getLsbD_of_ge m t (by omega)] at h

theorem mem_threadsOf (m : Mask) (t : Nat) : t ∈ threadsOf m ↔ inMask m t = true := by
  simp only [threadsOf, lanes, List.mem_filter, List.mem_range]
  exact ⟨fun h => h.2, fun h => ⟨inMask_lt m t h, h⟩⟩

theorem getLsbD_threadBit (t u : Nat) : ((1 <<< t : Nat) : Mask).getLsbD u = (decide (u < 32) && decide (u = t)) := by
  simp only [BitVec.natCast_eq_ofNat, BitVec.getLsbD_ofNat, Nat.shiftLeft_eq, one_mul, Nat.testBit_two_pow]
  simp [eq_comm]

theorem inMask_foldl (g : Nat → Bool) (l : List Nat) (m : Mask) (t : Nat) (ht : t < 32) :
    inMask (l.foldl (fun m k => if g k then m ||| ((1 <<< k : Nat) : Mask) else m) m) t = (inMask m t || (decide (t ∈ l) && g t)) := by
  induction l generalizing m with
  | nil => simp
  | cons a r ih =>
    simp only [List.foldl_cons, ih, List.mem_cons]
    by_cases hg : g a = true
    · simp only [hg, if_true, inMask, BitVec.getLsbD_or, getLsbD_threadBit, ht]
      by_cases ha : t = a
      · subst ha; simp [hg]
      · simp [ha]
    · by_cases ha : t = a
      · subst ha; simp [hg]
      · simp [hg, ha]

/-- Thread t of the mask of a test. -/
theorem inMask_maskOf (g : Nat → Bool) (t : Nat) (ht : t < 32) : inMask (maskOf g) t = g t := by
  rw [maskOf, inMask_foldl g lanes 0 t ht]
  simp [inMask, lanes, ht]

/-! ### Register files -/

theorem vKey_inj (n t n' t' : Nat) (h : t < 32) (h' : t' < 32) : vKey n t = vKey n' t' ↔ n = n' ∧ t = t' := by
  simp only [vKey]; omega

theorem getV_putV (f : Flock) (t n : Nat) (x : Word) (t' n' : Nat) (h : t < 32) (h' : t' < 32) :
    getV (putV f t n x) t' n' = if n' = n ∧ t' = t then x else getV f t' n' := by
  simp only [getV, putV, get_set, vKey_inj n' t' n t h' h]

theorem getS_putS (f : Flock) (n : Nat) (x : Word) (n' : Nat) : getS (putS f n x) n' = if n' = n then x else getS f n' := by
  simp only [getS, putS, get_set]

@[simp] theorem getS_putV (f : Flock) (t n : Nat) (x : Word) (k : Nat) : getS (putV f t n x) k = getS f k := rfl
@[simp] theorem getV_putS (f : Flock) (n : Nat) (x : Word) (t k : Nat) : getV (putS f n x) t k = getV f t k := rfl

/-- What a loop over threads that writes one v register leaves of the flock. -/
theorem putV_loop (m : Mask) (d : Nat) (x : Nat → Word) (l : List Nat) (f : Flock) (hl : ∀ t ∈ l, t < 32) :
    let g := l.foldl (fun f t => if inMask m t then putV f t d (x t) else f) f
    g = { f with v := g.v } ∧
    ∀ n t, t < 32 → getV g t n = if n = d ∧ t ∈ l ∧ inMask m t then x t else getV f t n := by
  induction l generalizing f with
  | nil => simp
  | cons a r ih =>
    have ha := hl a (by simp)
    have hr : ∀ t ∈ r, t < 32 := fun t h => hl t (by simp [h])
    simp only [List.foldl_cons]
    by_cases hm : inMask m a = true
    · simp only [hm, if_true]
      obtain ⟨h1, h2⟩ := ih (putV f a d (x a)) hr
      refine ⟨h1.trans ?_, fun n t ht => ?_⟩
      · simp [putV]
      · rw [h2 n t ht, getV_putV f a d (x a) t n ha ht]
        by_cases h3 : t = a
        · subst h3; simp [hm]
          by_cases h4 : n = d <;> simp [h4]
        · simp [h3]
    · simp only [hm, if_false, Bool.false_eq_true]
      obtain ⟨h1, h2⟩ := ih f hr
      refine ⟨h1, fun n t ht => ?_⟩
      rw [h2 n t ht]
      by_cases h3 : t = a
      · subst h3; simp [hm]
      · simp [h3]

theorem putVs_frame (f : Flock) (d : Nat) (m : Mask) (x : Nat → Word) :
    putVs f d m x = { f with v := (putVs f d m x).v, latch := latchAfter f.latch d } := by
  have h := (putV_loop m d x lanes f (by simp [lanes])).1
  unfold putVs
  rw [h]

theorem getV_putVs (f : Flock) (d : Nat) (m : Mask) (x : Nat → Word) (n t : Nat) (ht : t < 32) :
    getV (putVs f d m x) t n = if n = d ∧ inMask m t then x t else getV f t n := by
  have h := (putV_loop m d x lanes f (by simp [lanes])).2 n t ht
  have h2 : t ∈ lanes := by simp [lanes, ht]
  simp only [h2, true_and] at h
  exact h

/-- A predicate write. -/
theorem getP_putP (f : Flock) (p : Nat) (m x : Mask) (n : Nat) :
    getP (putP f p m x) n = if n = p ∧ p ≠ 7 then (getP f n &&& ~~~m) ||| (x &&& m) else getP f n := by
  unfold putP
  by_cases hp : p = 7
  · simp [hp]
  · simp only [hp, if_false]
    by_cases hn : n = p
    · subst hn; simp [getP, hp, get_set]
    · by_cases h7 : n = 7
      · simp [getP, h7, Ne.symm hp]
      · simp [getP, h7, hn, get_set]

/-! ### The shared shapes -/

theorem overBudget_none (f : Flock) (regs : List Nat) (h : ∀ n ∈ regs, n < f.budget) : overBudget f regs = none := by
  simp only [overBudget, List.find?_eq_none, decide_eq_true_eq, not_le]
  exact h

/-- An instruction whose checks pass has its effect. -/
theorem checked_accepts (i : Instr) (m : Mask) (regs : List Nat) (body : State → State) (s : State)
    (h : Safety.Accepts i regs s) : checked i m (legalForm i) regs body s = .next (body s) := by
  simp [checked, h.1, overBudget_none (cur s) regs h.2]

theorem flAll_nil : flAll [] = 0 := rfl

theorem emit_writes (f : Flock) (m : Mask) (d : Dst) (r : Nat → Word × Nat) :
    Safety.Writes f (emit f m d r) m d (fun t => (r t).1) ∧ Safety.SameElse f (emit f m d r) ∧ (emit f m d r).p = f.p ∧
      (emit f m d r).status = f.status ||| BitVec.ofNat 32 (flAll ((Safety.takers m d).map fun t => (r t).2)) := by
  cases d with
  | v n =>
    have hf := putVs_frame f n m fun t => (r t).1
    refine ⟨⟨fun k t ht => ?_, fun k => ?_⟩, ?_, ?_, ?_⟩
    · simp only [emit, getV] at *
      have := getV_putVs f n m (fun t => (r t).1) k t ht
      simp only [getV] at this
      rw [this]
      by_cases hk : k = n
      · simp [hk]
      · have hk2 : ¬ (Dst.v n = Dst.v k) := fun h => hk (by injection h with h; exact h.symm)
        simp [hk, hk2]
    · have : getS (emit f m (.v n) r) k = getS f k := by
        simp only [emit, getS]; rw [hf]
      rw [this]; cases lowest m <;> simp
    · refine ⟨latchAfter f.latch n, ?_⟩
      simp only [emit]; rw [hf]
    · simp only [emit]; rw [hf]
    · simp only [emit, statusSet, Safety.takers]
  | s n =>
    unfold emit
    cases h : lowest m with
    | none =>
      refine ⟨⟨fun k t ht => by simp, fun k => by simp [h]⟩, ⟨f.latch, rfl⟩, rfl, ?_⟩
      simp [Safety.takers, h, flAll_nil]
    | some t =>
      refine ⟨⟨fun k u hu => by simp [getV, putS], fun k => ?_⟩, ⟨latchAfter f.latch (64 + n), rfl⟩, rfl, ?_⟩
      · simp only [h]
        simp only [getS, putS, get_set]
        by_cases hk : k = n
        · subst hk; simp
        · simp [hk, Ne.symm hk]
      · simp [Safety.takers, h, statusSet, flAll, flOr]

theorem regOp_computes (i : Instr) (m : Mask) (d : Dst) (srcs : List Src) (r : Flock → Nat → Word × Nat) (s : State)
    (h : Safety.Accepts i (dstRegs d ++ srcs.flatMap srcRegs) s) :
    ∃ g, regOp i m d srcs r s = .next (advance (encode i).length (setCur g s)) ∧
      Safety.Writes (cur s) g m d (fun t => (r (cur s) t).1) ∧ Safety.SameElse (cur s) g ∧ g.p = (cur s).p ∧
      g.status = (cur s).status ||| BitVec.ofNat 32 (flAll ((Safety.takers m d).map fun t => (r (cur s) t).2)) :=
  ⟨emit (cur s) m d (r (cur s)), by rw [regOp, checked_accepts _ _ _ _ _ h]; rfl, emit_writes _ _ _ _⟩

theorem putP_writes (f : Flock) (p : Nat) (m : Mask) (val : Nat → Bool) :
    Safety.WritesPred f (putP f p m (maskOf val)) m p val ∧ Safety.SameElse f (putP f p m (maskOf val)) ∧
      (putP f p m (maskOf val)).v = f.v ∧ (putP f p m (maskOf val)).s = f.s ∧ (putP f p m (maskOf val)).status = f.status := by
  refine ⟨fun n t ht => ?_, ?_, ?_, ?_, ?_⟩
  · rw [getP_putP]
    by_cases hn : n = p ∧ p ≠ 7
    · rw [if_pos hn]
      have := inMask_maskOf val t ht
      obtain ⟨h1, h2⟩ := hn
      subst h1
      simp only [inMask] at *
      cases hm : m.getLsbD t <;> simp only [BitVec.getLsbD_or, BitVec.getLsbD_and, BitVec.getLsbD_not, this, hm, ht] <;> simp [h2]
    · simp only [hn, if_false]
      by_cases h1 : n = p
      · have : p = 7 := by
          by_contra h2; exact hn ⟨h1, h2⟩
        simp [this]
      · simp [h1]
  all_goals (unfold putP; split)
  · exact ⟨f.latch, rfl⟩
  · exact ⟨f.latch, rfl⟩
  all_goals rfl

theorem predOp_decides (i : Instr) (m : Mask) (p : Nat) (srcs : List Src) (r : Flock → Nat → Bool) (s : State)
    (h : Safety.Accepts i (srcs.flatMap srcRegs) s) :
    ∃ g, predOp i m p srcs r s = .next (advance (encode i).length (setCur g s)) ∧
      Safety.WritesPred (cur s) g m p (r (cur s)) ∧ Safety.SameElse (cur s) g ∧ g.v = (cur s).v ∧ g.s = (cur s).s ∧
      g.status = (cur s).status :=
  ⟨putP (cur s) p m (maskOf (r (cur s))), by rw [predOp, checked_accepts _ _ _ _ _ h]; rfl, putP_writes _ _ _ _⟩

/-! ### Elements -/

theorem half_eq (x : Word) (e : Nat) : half x e = (x.extractLsb' (16 * e) 16).toNat := by
  simp [half, Nat.shiftRight_eq_div_pow]

theorem joinHalves_eq (lo hi : Nat) : joinHalves lo hi = (BitVec.ofNat 16 hi ++ BitVec.ofNat 16 lo : Word) := by
  apply BitVec.eq_of_toNat_eq
  rw [joinHalves, BitVec.toNat_append, Nat.shiftLeft_eq, ← Nat.shiftLeft_eq, ← Nat.shiftLeft_add_eq_or_of_lt (by simp; omega)]
  simp [Nat.shiftLeft_eq]
  omega

/-- An element operation that agrees with one on bit vectors of 16 and of 32 bits, and raises no flag. -/
theorem perElement_each (packed : Bool) (op : Nat → Nat → Nat → Nat → Nat × Nat) (z : Word)
    (op' : (w : Nat) → BitVec w → BitVec w → BitVec w)
    (h16 : ∀ (x y : BitVec 16) (u : Nat), BitVec.ofNat 16 (op 16 x.toNat y.toNat u).1 = op' 16 x y ∧ (op 16 x.toNat y.toNat u).2 = 0)
    (h32 : ∀ (x y : BitVec 32) (u : Nat), BitVec.ofNat 32 (op 32 x.toNat y.toNat u).1 = op' 32 x y ∧ (op 32 x.toNat y.toNat u).2 = 0)
    (x y : Word) : perElement packed op x y z = (Safety.each packed op' x y, 0) := by
  cases packed
  · simp only [perElement, Safety.each, Bool.false_eq_true, if_false, h32]
  · simp only [perElement, Safety.each, if_true, half_eq, joinHalves_eq, h16, flOr, Nat.or_self]

/-- An element operation on codes, with flags. -/
theorem perElement_eachCode (packed : Bool) (op : Nat → Nat → Nat → Nat → Nat × Nat) (z : Word) (op' : Nat → Nat → Nat × Nat)
    (h : ∀ (x y : Word) (u : Nat), if packed then
        op 16 (x.extractLsb' 0 16).toNat (y.extractLsb' 0 16).toNat u = op' (x.extractLsb' 0 16).toNat (y.extractLsb' 0 16).toNat ∧
        op 16 (x.extractLsb' 16 16).toNat (y.extractLsb' 16 16).toNat u = op' (x.extractLsb' 16 16).toNat (y.extractLsb' 16 16).toNat
      else op 32 x.toNat y.toNat u = op' x.toNat y.toNat) (x y : Word) :
    perElement packed op x y z = Safety.eachCode packed op' x y := by
  cases packed
  · simp only [Bool.false_eq_true, if_false] at h
    simp only [perElement, Safety.eachCode, Bool.false_eq_true, if_false, h]
  · simp only [if_true] at h
    have h0 := fun u => (h x y u).1
    have h1 := fun u => (h x y u).2
    simp only [perElement, Safety.eachCode, if_true, half_eq, joinHalves_eq, flOr, Nat.mul_zero, Nat.mul_one, h0, h1]

end Sys2Proof.Laws
end

