-- ==== Sys2Proof/Laws/Shared.lean ====
section
/-! SUPPORT. What the shared operations on flocks, launches and workgroups can do: checks, long-latency issue, completion, traps. -/

namespace Sys2Proof.Laws

open Machine

/-! ### Checks -/

/-- The checks of an instruction answer one of three ways. -/
theorem checked_cases (i : Instr) (m : Mask) (legal : Bool) (regs : List Nat) (body : State → State) (s : State) :
    (legal = false ∧ checked i m legal regs body s = .next (takeTrap (illegalRec (encode i) m s) s)) ∨
    (∃ r, overBudget (cur s) regs = some r ∧ checked i m legal regs body s = .next (takeTrap (budgetRec r 0 m s) s)) ∨
    (legal = true ∧ overBudget (cur s) regs = none ∧ checked i m legal regs body s = .next (body s)) := by
  cases legal
  · exact .inl ⟨rfl, rfl⟩
  · cases h : overBudget (cur s) regs with
    | none => exact .inr (.inr ⟨rfl, rfl, by simp [checked, h]⟩)
    | some r => exact .inr (.inl ⟨r, rfl, by simp [checked, h]⟩)

/-- A long-latency instruction whose checks pass has its effect. -/
theorem longOp_passes (i : Instr) (m : Mask) (f : Nat) (regs : List Nat) (body : State → State) (s : State)
    (h : Safety.Passes i m f regs s) : longOp i m f regs body s = .next (body s) := by
  rw [longOp, checked_accepts i m regs _ s h.1, if_neg h.2.1, h.2.2]
  rfl

/-- With no active thread it only moves on. -/
theorem longOp_idle (i : Instr) (f : Nat) (regs : List Nat) (body : State → State) (s : State) (h : Safety.Accepts i regs s) :
    longOp i 0 f regs body s = .next (advance (encode i).length s) := by
  rw [longOp, checked_accepts i 0 regs _ s h]
  rfl

theorem finishLong_issued (i : Instr) (f : Nat) (p : Pending) (s : State) : finishLong i f p s = Safety.issued i f p s := rfl

/-! ### Paths -/

theorem advancePath_stays (n clk : Nat) (second : Bool) (f : Flock) (p : Path) (hp : pathOf f second = some p)
    (h : p.hint = false ∨ n < p.left) : advancePath n clk second f = withPath f second (some (stepPath n p)) := by
  rw [advancePath, hp]
  have : ¬(p.left ≤ n ∧ p.hint = true) := by
    rintro ⟨a, b⟩
    rcases h with h | h
    · simp [h] at b
    · omega
  simp [this]

/-- A flock whose stack has not changed is only stored. -/
theorem setFlockStack_keeps (c f : Nat) (x : Flock) (s : State) (h : x.stack = (flockAt s c f).stack) :
    setFlockStack c f x s = setFlock c f x s := by
  simp [setFlockStack, h]

/-- An instruction that does not end a clause with the yield hint set moves its path on, and does nothing else. -/
theorem advance_stays (n : Nat) (s : State) (p : Path) (hp : pathOf (cur s) s.second = some p) (h : p.hint = false ∨ n < p.left) :
    advance n s = setCur (withPath (cur s) s.second (some (stepPath n p))) s := by
  rw [advance, advancePath_stays n _ _ _ p hp h]
  exact setFlockStack_keeps _ _ _ _ (stack_withPath _ _ _)

/-! ### Stopping -/

/-- Two states differ in their schedule, launches, workgroups and the fabrics of their cores at most. -/
def ScheduleSide (s t : State) : Prop :=
  (∃ k, t = { s with todo := t.todo, launches := t.launches, wgs := t.wgs, cores := k }) ∧
  ∀ c, ∃ x, coreAt t c = { coreAt s c with fabric := x }

theorem ScheduleSide.refl (s : State) : ScheduleSide s s := ⟨⟨s.cores, rfl⟩, fun _ => ⟨_, rfl⟩⟩

theorem ScheduleSide.trans {s t u : State} (h : ScheduleSide s t) (k : ScheduleSide t u) : ScheduleSide s u := by
  obtain ⟨⟨a, e⟩, f⟩ := h
  obtain ⟨⟨a', e'⟩, f'⟩ := k
  refine ⟨⟨a', ?_⟩, fun c => ?_⟩
  · rw [e', e]
  · obtain ⟨x, hx⟩ := f c
    obtain ⟨y, hy⟩ := f' c
    exact ⟨y, by rw [hy, hx]⟩

theorem ScheduleSide.mem {s t : State} (h : ScheduleSide s t) : t.mem = s.mem := by
  obtain ⟨⟨a, e⟩, -⟩ := h; rw [e]
theorem ScheduleSide.lines {s t : State} (h : ScheduleSide s t) : t.lines = s.lines := by
  obtain ⟨⟨a, e⟩, -⟩ := h; rw [e]
theorem ScheduleSide.flock {s t : State} (h : ScheduleSide s t) (c f : Nat) : flockAt t c f = flockAt s c f := by
  obtain ⟨x, e⟩ := h.2 c
  simp only [flockAt, e]

theorem scheduleSide_foldl {α : Type} (f : State → α → State) (h : ∀ s a, ScheduleSide s (f s a)) (l : List α) (s : State) :
    ScheduleSide s (l.foldl f s) := by
  induction l generalizing s with
  | nil => exact .refl s
  | cons a r ih => exact (h s a).trans (ih (f s a))

theorem scheduleSide_ite (c : Prop) [Decidable c] {s a b : State} (ha : ScheduleSide s a) (hb : ScheduleSide s b) :
    ScheduleSide s (if c then a else b) := by
  split
  · exact ha
  · exact hb

theorem scheduleSide_due (i : Instr) (s : State) : ScheduleSide s (due i s) := by
  unfold due
  split
  · exact .refl s
  · exact ⟨⟨s.cores, rfl⟩, fun _ => ⟨_, rfl⟩⟩

theorem scheduleSide_updWg (l k : Nat) (f : Wg → Wg) (s : State) : ScheduleSide s (updWg l k f s) := ⟨⟨s.cores, rfl⟩, fun _ => ⟨_, rfl⟩⟩
theorem scheduleSide_updLaunch (l : Nat) (f : Launch → Launch) (s : State) : ScheduleSide s (updLaunch l f s) :=
  ⟨⟨s.cores, rfl⟩, fun _ => ⟨_, rfl⟩⟩

theorem scheduleSide_dueSave (l k : Nat) (s : State) : ScheduleSide s (dueSave l k s) := by
  unfold dueSave
  simp only
  split
  · refine ⟨⟨_, rfl⟩, fun c => ?_⟩
    rw [coreAt_setCore]
    split
    · rename_i h; subst h; exact ⟨_, rfl⟩
    · exact ⟨_, rfl⟩
  · exact scheduleSide_due _ s

theorem scheduleSide_stopWg (cause l k : Nat) (s : State) : ScheduleSide s (stopWg cause l k s) := by
  unfold stopWg
  dsimp only
  split
  · exact (scheduleSide_updWg l k _ s).trans (scheduleSide_dueSave l k _)
  · exact scheduleSide_ite _ (scheduleSide_updWg l k _ s) (scheduleSide_ite _ (scheduleSide_updWg l k _ s) (.refl s))
  · exact .refl s

/-- Stopping a launch touches no flock and no byte of memory (R252). -/
theorem scheduleSide_stopLaunch (l : Nat) (st : Stop) (s : State) : ScheduleSide s (stopLaunch l st s) :=
  (scheduleSide_updLaunch l _ s).trans
    (scheduleSide_foldl (fun (s : State) (w : Wg) => stopWg 4 l w.index s) (fun s w => scheduleSide_stopWg 4 l w.index s) _ _)

theorem scheduleSide_frameLost (l : Nat) (s : State) : ScheduleSide s (frameLost l s) := scheduleSide_stopLaunch _ _ s

theorem scheduleSide_recordTrap (held : Bool) (l k : Nat) (r : TrapRec) (s : State) : ScheduleSide s (recordTrap held l k r s) := by
  have h := (scheduleSide_stopWg 3 l k s).trans
    (scheduleSide_updWg l k (fun w => { w with trap := some r, holding := held, misses := [] }) _)
  exact scheduleSide_ite _ h (h.trans (scheduleSide_stopLaunch _ _ _))

/-- A trap touches no flock and no byte of memory (R252, R357). -/
theorem scheduleSide_trapAt (l k : Nat) (r : TrapRec) (s : State) : ScheduleSide s (trapAt l k r s) := by
  unfold trapAt haltAt
  dsimp only
  split
  · exact .refl s
  · refine ScheduleSide.trans ?_ (scheduleSide_updWg _ _ _ _)
    have h (held : Bool) := scheduleSide_recordTrap held l k r s
    split
    · exact scheduleSide_ite _ (.refl s) (h _)
    · exact scheduleSide_ite _ (scheduleSide_updWg _ _ _ s) (scheduleSide_ite _ (h _) ((h _).trans (scheduleSide_updWg _ _ _ _)))

theorem scheduleSide_takeTrap (r : TrapRec) (s : State) : ScheduleSide s (takeTrap r s) := scheduleSide_trapAt _ _ r s

/-- Storing a flock stores it, whatever becomes of its frame, and no other flock changes (R254). -/
theorem flockAt_setFlockStack (c f : Nat) (x : Flock) (s : State) (d g : Nat) :
    flockAt (setFlockStack c f x s) d g = if d = c ∧ g = f then x else flockAt s d g := by
  have key : flockAt (setFlock c f x s) d g = if d = c ∧ g = f then x else flockAt s d g := by simp [flockAt_setFlock]
  unfold setFlockStack
  simp only
  split
  · exact key
  · have h := memorySide_deviceWrite (launchOf (setFlock c f x s) x.launch).dom true
      (flockVa (launchOf (setFlock c f x s) x.launch) x.wg x.index + 0x400) (stackBytes x.stack) (setFlock c f x s)
    split <;> rename_i e <;> rw [e] at h
    · rw [h.flock, key]
    · rw [(scheduleSide_frameLost _ _).flock, h.flock, key]

/-- Completing an instruction changes no other flock, and memory keeps its canonical form. -/
theorem flockAt_advance (n : Nat) (s : State) (c f : Nat) (h : c ≠ s.core ∨ f ≠ s.slot) : flockAt (advance n s) c f = flockAt s c f := by
  rw [advance, setCurStack, flockAt_setFlockStack]
  have : ¬(c = s.core ∧ f = s.slot) := by rintro ⟨a, b⟩; rcases h with h | h <;> contradiction
  simp [this]

theorem wf_setFlockStack (c f : Nat) (x : Flock) (s : State) (hw : Memory.wf s.mem = true) :
    Memory.wf (setFlockStack c f x s).mem = true := by
  unfold setFlockStack
  simp only
  split
  · exact hw
  · have h := memorySide_deviceWrite (launchOf (setFlock c f x s) x.launch).dom true
      (flockVa (launchOf (setFlock c f x s) x.launch) x.wg x.index + 0x400) (stackBytes x.stack) (setFlock c f x s)
    split <;> rename_i e <;> rw [e] at h
    · exact h.wf hw
    · rw [(scheduleSide_frameLost _ _).mem]; exact h.wf hw

theorem wf_advance (n : Nat) (s : State) (hw : Memory.wf s.mem = true) : Memory.wf (advance n s).mem = true := wf_setFlockStack _ _ _ _ hw

/-! ### Issue -/

/-- Issuing long-latency work changes the issuing flock, the counter of free values and the schedule. -/
theorem issueLong_mem (f : Nat) (p : Pending) (s : State) : (issueLong f p s).mem = s.mem := by
  simp only [issueLong, due_mem]
  rfl

/-! ### Accesses -/

theorem memorySide_pagesFor (ag : Agent) (k : AccKind) (us : List Nat) (s : State) : MemorySide s (pagesFor ag k us s).1 := by
  induction us generalizing s with
  | nil => exact .refl s
  | cons u r ih => exact (memorySide_pageFor ag k _ s).trans (ih _)

theorem memorySide_reachAll (q : Ask) (r : Nat) (s : State) : MemorySide s (reachAll q r s).1 := by
  unfold reachAll
  dsimp only
  split
  · exact memorySide_pagesFor _ _ _ s
  · exact (memorySide_pagesFor _ _ _ s).trans (memorySide_pagesFor _ _ _ _)

/-- The checks of an access cache translations, and change nothing else (R158 to R162, R177). -/
theorem memorySide_checkLanes (q : Ask) (s : State) : MemorySide s (checkLanes q s).1 := by
  unfold checkLanes
  dsimp only
  have h := memorySide_reachAll q (getB (cur s) q.reg).toNat s
  repeat' first
    | exact .refl s
    | exact h
    | split

theorem waitFor_mem (w : Wait) (s : State) : (waitFor w s).mem = s.mem := rfl

end Sys2Proof.Laws
end

