-- ==== Sys2Proof/Laws/Order.lean ====
section
/-! SUPPORT. What the order of a thread's accesses comes to: when nothing is kept waiting, and what an access that waits does. -/

namespace Sys2Proof.Laws

open Machine

/-- Nothing waits for no operation. -/
@[simp] theorem waits_nil (l : OpenOp) : waits [] l = false := rfl

/-- An operation waits where one of the open ones keeps it, and not otherwise. -/
theorem waits_iff (ops : List OpenOp) (l : OpenOp) : waits ops l = true ↔ ∃ e ∈ ops, blocks e l = true := by
  simp [waits]

/-- What an operation is kept behind is an earlier one. -/
theorem uid_lt_of_blocks {e l : OpenOp} (h : blocks e l = true) : e.uid < l.uid := by
  simp only [blocks, Bool.and_eq_true, decide_eq_true_eq] at h
  exact h.1

/-- A flock of which no request is unserved and nothing is held has no open operation. -/
theorem openOps_none (s : State) (core slot : Nat) (h1 : s.feQueue = []) (h2 : s.feRetry = []) (h3 : s.held = []) :
    openOps s core slot = [] := by
  simp [openOps, h1, h2, h3]

/-- Then no operation of the issuing flock waits. -/
theorem keptBehind_none (s : State) (l : OpenOp) (h1 : s.feQueue = []) (h2 : s.feRetry = []) (h3 : s.held = []) :
    keptBehind s l = false := by
  simp [keptBehind, keptAt, unitBusy, openOps_none s _ _ h1 h2 h3, h3]

/-- An operation other than a product waits for its flock's operations alone (R142). -/
theorem keptAt_of_ne_mma (s : State) (core slot : Nat) (l : OpenOp) (h : l.op.act ≠ .mma) :
    keptAt s core slot l = waits (openOps s core slot) l := by
  simp [keptAt, h]

/-- A core that holds no product keeps none waiting. -/
theorem unitBusy_none (s : State) (core uid : Nat) (h : ∀ x ∈ s.held, x.core = core → x.what.op.act ≠ .mma) :
    unitBusy s core uid = false := by
  rw [unitBusy, List.any_eq_false]
  intro x hx
  by_cases hc : x.core = core <;> simp [hc, h x hx]

/-- An access is performed at once, or issued and held (R187). -/
theorem inOrder_cases (i : Instr) (f : Nat) (l : OpenOp) (body : State → State) (s : State) :
    ((s.performing = true ∨ keptBehind s l = false) ∧ inOrder i f l body s = body s) ∨
    (s.performing = false ∧ keptBehind s l = true ∧ inOrder i f l body s = holdBack i f l s) := by
  unfold inOrder
  cases s.performing <;> cases keptBehind s l <;> simp

/-- A matrix instruction is performed at once, or issued with its latch and held (R141, R187). -/
theorem matrixOrder_cases (i : Instr) (f ru a : Nat) (c : List Nat) (l : OpenOp) (body : State → State) (s : State) :
    ((s.performing = true ∨ keptBehind s l = false) ∧ matrixOrder i f ru a c l body s = body s) ∨
    (s.performing = false ∧ keptBehind s l = true ∧ matrixOrder i f ru a c l body s = setLatch ru a c (holdBack i f l s)) := by
  unfold matrixOrder
  cases s.performing <;> cases keptBehind s l <;> simp

/-- An instruction that is not held waits at issue, or goes on. -/
theorem waitInOrder_cases (l : OpenOp) (body : State → State) (s : State) :
    (keptBehind s l = false ∧ waitInOrder l body s = body s) ∨ (keptBehind s l = true ∧ waitInOrder l body s = waitFor .issue s) := by
  unfold waitInOrder
  cases keptBehind s l <;> simp

/-- Holding an instruction back issues it, with an entry that tells what it is. -/
theorem holdBack_eq (i : Instr) (f : Nat) (l : OpenOp) (s : State) :
    ∃ h : Held, holdBack i f l s = Safety.issued i f (heldPending l) { s with held := s.held ++ [h] } ∧ h.what = l ∧ h.core = s.core ∧
      h.slot = s.slot ∧ h.ins = i := ⟨_, rfl, rfl, rfl, rfl, rfl⟩

/-- Memory keeps its canonical form when an instruction is held back. -/
theorem wf_holdBack (i : Instr) (f : Nat) (l : OpenOp) (s : State) (hw : Memory.wf s.mem = true) :
    Memory.wf (holdBack i f l s).mem = true := by
  obtain ⟨h, e, -⟩ := holdBack_eq i f l s
  rw [e]
  refine wf_advance _ _ ?_
  rw [issueLong_mem]
  exact hw

/-- A held instruction is performed whole, or nothing happens: while an earlier operation of its flock keeps it, in whichever thread, or an
earlier product of its core, and while its workgroup has met a trap or a page that is not resident. -/
theorem performReady_cases (core slot uid : Nat) (s : State) :
    performReady core slot uid s = s ∨
    ∃ h ∈ s.held, h.core = core ∧ h.slot = slot ∧ h.what.uid = uid ∧ h.what.op.act ≠ .fence ∧ performs s core slot = true ∧
      keptAt s core slot h.what = false ∧ performReady core slot uid s = performHeld h s := by
  unfold performReady
  split
  · rename_i h hx
    have hm := List.mem_of_find?_eq_some hx
    have hp := List.find?_some hx
    simp only [Bool.and_eq_true, beq_iff_eq, bne_iff_ne, ne_eq] at hp
    obtain ⟨⟨⟨h1, h2⟩, h3⟩, h4⟩ := hp
    by_cases k : (performs s core slot && heldReady s h) = true
    · right
      have k' := k
      rw [Bool.and_eq_true] at k'
      have w := k'.2
      rw [heldReady, h1, h2, Bool.not_eq_true'] at w
      exact ⟨h, hm, h1, h2, h3, h4, k'.1, w, by rw [if_pos k]⟩
    · left
      rw [if_neg k]
  · exact .inl rfl

end Sys2Proof.Laws
end

