-- ==== Sys2Proof/Tests/Slice0.lean ====
section
/-! SUPPORT. Tests: ill-formed terms that the checks refuse, words written out from the spec's encodings, single steps, and states that
meet the hypotheses of the statements. -/

namespace Sys2Proof

open Machine

set_option Elab.async false

/-! ### States -/

/-- A resident flock with all its threads on one path, inside a clause of one word. -/
def base : State := placeWords [0] State.reset

/-- The same with the flock changed. -/
def withFlock (f : Flock → Flock) (s : State) : State := setCur (f (cur s)) s

/-- The state that an answer goes to. -/
def after : Out → State
  | .next t => t
  | _ => State.reset

/-- A record: base, size code, inner count and stride, outer count, and the grants from bit 187 (R157). -/
def record (base size inner grants : Nat) : BitVec 256 :=
  BitVec.ofNat 256 (base + size * 2 ^ 57 + inner * 2 ^ 64 + 2 ^ 96 + 2 ^ 128 + grants * 2 ^ 187)

/-- A leaf of a page pinned in a quarter of slice bank 13824, with all grants, for full-empty words where asked (R163). -/
def pinLeaf (fullEmpty : Bool) : Nat := 0x803F + (if fullEmpty then 2 ^ 23 else 0) + 13824 * 2 ^ 100

/-- A paddock record that reserves that bank for pins (R168). -/
def pinReserve : Paddock :=
  { rcd := BitVec.ofNat 512 (1 + 2 ^ 28 + 2 ^ 33 + 2 ^ 39 + 13824 * 2 ^ 64), deleting := false, withdrawn := [], resize := none }

/-- Pages of domain 0 at 0x10000 and, for full-empty words, at 0x20000; b0 to b2 name 64 elements of 4, 8 and 2 bytes of the first, b3 64
words of the second, and b4 64 words of the window. v0 holds the thread's number. -/
def withPages (s : State) : State :=
  withFlock (fun f => { f with v := (List.range 31).map (fun t => (t + 1, BitVec.ofNat 32 (t + 1))), b := [(0, record 0x10000 2 64 7), (1, record 0x10000 3 64 7), (2, record 0x10000 1 64 7),
      (3, record 0x20000 2 64 7), (4, record 0 2 64 15)] }) <|
  updWg 1 0 (fun w => { w with wn := 4096 })
  { s with
    paddocks := [(5, pinReserve)]
    tlb := [{ dom := 0, va := 0x10000, size := 0x10000, leaf := BitVec.ofNat 128 (pinLeaf false), absent := none, pinned := true },
            { dom := 0, va := 0x20000, size := 0x10000, leaf := BitVec.ofNat 128 (pinLeaf true + 2 ^ 114), absent := none, pinned := true }] }

def paged : State := withPages base
/-! ### Ill-formed terms -/

/-- A value one beyond each field of each instruction (R53, R54). -/
theorem test_wf_field1 :
    ([.iadd 8 0 0 0 0 0, .iadd 0 64 0 0 0 0, .iadd 0 0 64 0 0 0, .iadd 0 0 0 64 0 0,
     .iadd 0 0 0 0 4 0, .iadd 0 0 0 0 0 4, .isub 8 0 0 0 0 0, .isub 0 64 0 0 0 0,
     .isub 0 0 64 0 0 0, .isub 0 0 0 64 0 0, .isub 0 0 0 0 4 0, .isub 0 0 0 0 0 4,
     .imul 8 0 0 0 0 0, .imul 0 64 0 0 0 0, .imul 0 0 64 0 0 0, .imul 0 0 0 64 0 0,
     .imul 0 0 0 0 4 0, .imul 0 0 0 0 0 4, .andB 8 0 0 0 0 0, .andB 0 64 0 0 0 0] : List Instr).all (fun i => !fieldsFit i) = true := by decide

theorem test_wf_field2 :
    ([.andB 0 0 64 0 0 0, .andB 0 0 0 64 0 0, .andB 0 0 0 0 4 0, .andB 0 0 0 0 0 4,
     .orB 8 0 0 0 0 0, .orB 0 64 0 0 0 0, .orB 0 0 64 0 0 0, .orB 0 0 0 64 0 0,
     .orB 0 0 0 0 4 0, .orB 0 0 0 0 0 4, .xorB 8 0 0 0 0 0, .xorB 0 64 0 0 0 0,
     .xorB 0 0 64 0 0 0, .xorB 0 0 0 64 0 0, .xorB 0 0 0 0 4 0, .xorB 0 0 0 0 0 4,
     .shl 8 0 0 0 0 0, .shl 0 64 0 0 0 0, .shl 0 0 64 0 0 0, .shl 0 0 0 64 0 0] : List Instr).all (fun i => !fieldsFit i) = true := by decide

theorem test_wf_field3 :
    ([.shl 0 0 0 0 4 0, .shl 0 0 0 0 0 4, .shr 8 0 0 0 0 0, .shr 0 64 0 0 0 0,
     .shr 0 0 64 0 0 0, .shr 0 0 0 64 0 0, .shr 0 0 0 0 4 0, .shr 0 0 0 0 0 4,
     .imin 8 0 0 0 0 0, .imin 0 64 0 0 0 0, .imin 0 0 64 0 0 0, .imin 0 0 0 64 0 0,
     .imin 0 0 0 0 4 0, .imin 0 0 0 0 0 2, .imax 8 0 0 0 0 0, .imax 0 64 0 0 0 0,
     .imax 0 0 64 0 0 0, .imax 0 0 0 64 0 0, .imax 0 0 0 0 4 0, .imax 0 0 0 0 0 2] : List Instr).all (fun i => !fieldsFit i) = true := by decide

theorem test_wf_field4 :
    ([.iabsd 8 0 0 0 0 0, .iabsd 0 64 0 0 0 0, .iabsd 0 0 64 0 0 0, .iabsd 0 0 0 64 0 0,
     .iabsd 0 0 0 0 4 0, .iabsd 0 0 0 0 0 4, .bitcount 8 0 0 0 0 0, .bitcount 0 64 0 0 0 0,
     .bitcount 0 0 64 0 0 0, .bitcount 0 0 0 64 0 0, .bitcount 0 0 0 0 4 0, .bitcount 0 0 0 0 0 4,
     .bfe 8 0 0 0 0 0, .bfe 0 64 0 0 0 0, .bfe 0 0 64 0 0 0, .bfe 0 0 0 64 0 0,
     .bfe 0 0 0 0 4 0, .bfe 0 0 0 0 0 4, .mov 8 0 0 0 0, .mov 0 64 0 0 0] : List Instr).all (fun i => !fieldsFit i) = true := by decide

theorem test_wf_field5 :
    ([.mov 0 0 64 0 0, .mov 0 0 0 4 0, .mov 0 0 0 0 2, .sel 8 0 0 0 0,
     .sel 0 64 0 0 0, .sel 0 0 64 0 0, .sel 0 0 0 64 0, .sel 0 0 0 0 4,
     .max2sel 8 0 0 0 0 0 0, .max2sel 0 64 0 0 0 0 0, .max2sel 0 0 64 0 0 0 0, .max2sel 0 0 0 64 0 0 0,
     .max2sel 0 0 0 0 4 0 0, .max2sel 0 0 0 0 0 2 0, .max2sel 0 0 0 0 0 0 2, .sreg 8 0 0 0 0,
     .sreg 0 64 0 0 0, .sreg 0 0 64 0 0, .sreg 0 0 0 2 0, .sreg 0 0 0 0 2] : List Instr).all (fun i => !fieldsFit i) = true := by decide

theorem test_wf_field6 :
    ([.fadd 8 0 0 0 0 0, .fadd 0 64 0 0 0 0, .fadd 0 0 64 0 0 0, .fadd 0 0 0 64 0 0,
     .fadd 0 0 0 0 4 0, .fadd 0 0 0 0 0 4, .fsub 8 0 0 0 0 0, .fsub 0 64 0 0 0 0,
     .fsub 0 0 64 0 0 0, .fsub 0 0 0 64 0 0, .fsub 0 0 0 0 4 0, .fsub 0 0 0 0 0 4,
     .fmul 8 0 0 0 0 0, .fmul 0 64 0 0 0 0, .fmul 0 0 64 0 0 0, .fmul 0 0 0 64 0 0,
     .fmul 0 0 0 0 4 0, .fmul 0 0 0 0 0 4, .fmin 8 0 0 0 0 0, .fmin 0 64 0 0 0 0] : List Instr).all (fun i => !fieldsFit i) = true := by decide

theorem test_wf_field7 :
    ([.fmin 0 0 64 0 0 0, .fmin 0 0 0 64 0 0, .fmin 0 0 0 0 4 0, .fmin 0 0 0 0 0 4,
     .fmax 8 0 0 0 0 0, .fmax 0 64 0 0 0 0, .fmax 0 0 64 0 0 0, .fmax 0 0 0 64 0 0,
     .fmax 0 0 0 0 4 0, .fmax 0 0 0 0 0 4, .fcmp 8 0 0 0 0 0 0, .fcmp 0 8 0 0 0 0 0,
     .fcmp 0 0 8 0 0 0 0, .fcmp 0 0 0 64 0 0 0, .fcmp 0 0 0 0 64 0 0, .fcmp 0 0 0 0 0 4 0,
     .fcmp 0 0 0 0 0 0 4, .frcp 8 0 0 0 0 0, .frcp 0 64 0 0 0 0, .frcp 0 0 64 0 0 0] : List Instr).all (fun i => !fieldsFit i) = true := by decide

theorem test_wf_field8 :
    ([.frcp 0 0 0 2 0 0, .frcp 0 0 0 0 4 0, .frcp 0 0 0 0 0 4, .frsq 8 0 0 0 0 0,
     .frsq 0 64 0 0 0 0, .frsq 0 0 64 0 0 0, .frsq 0 0 0 2 0 0, .frsq 0 0 0 0 4 0,
     .frsq 0 0 0 0 0 4, .fex2 8 0 0 0 0 0, .fex2 0 64 0 0 0 0, .fex2 0 0 64 0 0 0,
     .fex2 0 0 0 2 0 0, .fex2 0 0 0 0 4 0, .fex2 0 0 0 0 0 4, .flg2 8 0 0 0 0 0,
     .flg2 0 64 0 0 0 0, .flg2 0 0 64 0 0 0, .flg2 0 0 0 2 0 0, .flg2 0 0 0 0 4 0] : List Instr).all (fun i => !fieldsFit i) = true := by decide

theorem test_wf_field9 :
    ([.flg2 0 0 0 0 0 4, .fsin 8 0 0 0 0 0, .fsin 0 64 0 0 0 0, .fsin 0 0 64 0 0 0,
     .fsin 0 0 0 2 0 0, .fsin 0 0 0 0 4 0, .fsin 0 0 0 0 0 4, .fcos 8 0 0 0 0 0,
     .fcos 0 64 0 0 0 0, .fcos 0 0 64 0 0 0, .fcos 0 0 0 2 0 0, .fcos 0 0 0 0 4 0,
     .fcos 0 0 0 0 0 4, .fclass 8 0 0 0 0, .fclass 0 64 0 0 0, .fclass 0 0 64 0 0,
     .fclass 0 0 0 4 0, .fclass 0 0 0 0 4, .fscale 8 0 0 0 0 0, .fscale 0 64 0 0 0 0] : List Instr).all (fun i => !fieldsFit i) = true := by decide

theorem test_wf_field10 :
    ([.fscale 0 0 64 0 0 0, .fscale 0 0 0 64 0 0, .fscale 0 0 0 0 4 0, .fscale 0 0 0 0 0 4,
     .fround 8 0 0 0 0 0 0, .fround 0 64 0 0 0 0 0, .fround 0 0 64 0 0 0 0, .fround 0 0 0 2 0 0 0,
     .fround 0 0 0 0 8 0 0, .fround 0 0 0 0 0 4 0, .fround 0 0 0 0 0 0 4, .cvt 8 0 0 0 0 0,
     .cvt 0 64 0 0 0 0, .cvt 0 0 64 0 0 0, .cvt 0 0 0 8 0 0, .cvt 0 0 0 0 2 0,
     .cvt 0 0 0 0 0 8, .cvti 8 0 0 0 0, .cvti 0 64 0 0 0, .cvti 0 0 64 0 0] : List Instr).all (fun i => !fieldsFit i) = true := by decide

theorem test_wf_field11 :
    ([.cvti 0 0 0 16 0, .cvti 0 0 0 0 8, .pack 8 0 0 0 0 0, .pack 0 64 0 0 0 0,
     .pack 0 0 64 0 0 0, .pack 0 0 0 64 0 0, .pack 0 0 0 0 4 0, .pack 0 0 0 0 0 4,
     .unpack 8 0 0 0 0 0, .unpack 0 64 0 0 0 0, .unpack 0 0 64 0 0 0, .unpack 0 0 0 16 0 0,
     .unpack 0 0 0 0 2 0, .unpack 0 0 0 0 0 8, .cbdec 8 0 0 0 0 0, .cbdec 0 64 0 0 0 0,
     .cbdec 0 0 64 0 0 0, .cbdec 0 0 0 8 0 0, .cbdec 0 0 0 0 2 0, .cbdec 0 0 0 0 0 4] : List Instr).all (fun i => !fieldsFit i) = true := by decide

theorem test_wf_field12 :
    ([.cbload 8 0 0 0, .cbload 0 8 0 0, .cbload 0 0 64 0, .cbload 0 0 0 16,
     .mxscale 8 0 0 0, .mxscale 0 64 0 0, .mxscale 0 0 64 0, .mxscale 0 0 0 4,
     .icmp 8 0 0 0 0 0 0, .icmp 0 8 0 0 0 0 0, .icmp 0 0 8 0 0 0 0, .icmp 0 0 0 64 0 0 0,
     .icmp 0 0 0 0 64 0 0, .icmp 0 0 0 0 0 4 0, .icmp 0 0 0 0 0 0 4, .pop 8 0 0 0 0,
     .pop 0 8 0 0 0, .pop 0 0 8 0 0, .pop 0 0 0 8 0, .pop 0 0 0 0 4] : List Instr).all (fun i => !fieldsFit i) = true := by decide

theorem test_wf_field13 :
    ([.ballot 8 0 0 0, .ballot 0 64 0 0, .ballot 0 0 8 0, .ballot 0 0 0 2,
     .agree 8 0 0 0, .agree 0 8 0 0, .agree 0 0 8 0, .agree 0 0 0 4,
     .matchK 8 0 0 0, .matchK 0 64 0 0, .matchK 0 0 64 0, .matchK 0 0 0 4,
     .xpick 8 0 0 0 0 0, .xpick 0 64 0 0 0 0, .xpick 0 0 64 0 0 0, .xpick 0 0 0 64 0 0,
     .xpick 0 0 0 0 4 0, .xpick 0 0 0 0 0 4, .xfold 8 0 0 0 0 0, .xfold 0 64 0 0 0 0] : List Instr).all (fun i => !fieldsFit i) = true := by decide

theorem test_wf_field14 :
    ([.xfold 0 0 64 0 0 0, .xfold 0 0 0 2 0 0, .xfold 0 0 0 0 2 0, .xfold 0 0 0 0 0 8,
     .lead 8 0 0 0, .lead 0 8 0 0, .lead 0 0 64 0, .lead 0 0 0 2,
     .ld 8 0 0 0 0 0 0 0, .ld 0 64 0 0 0 0 0 0, .ld 0 0 64 0 0 0 0 0, .ld 0 0 0 16 0 0 0 0,
     .ld 0 0 0 0 2 0 0 0, .ld 0 0 0 0 0 2 0 0, .ld 0 0 0 0 0 0 8 0, .ld 0 0 0 0 0 0 0 2,
     .st 8 0 0 0 0 0 0 0, .st 0 64 0 0 0 0 0 0, .st 0 0 64 0 0 0 0 0, .st 0 0 0 16 0 0 0 0] : List Instr).all (fun i => !fieldsFit i) = true := by decide

theorem test_wf_field15 :
    ([.st 0 0 0 0 2 0 0 0, .st 0 0 0 0 0 2 0 0, .st 0 0 0 0 0 0 8 0, .st 0 0 0 0 0 0 0 2,
     .ldsp 8 0 0 0 0 0 0 0, .ldsp 0 64 0 0 0 0 0 0, .ldsp 0 0 64 0 0 0 0 0, .ldsp 0 0 0 16 0 0 0 0,
     .ldsp 0 0 0 0 2 0 0 0, .ldsp 0 0 0 0 0 2 0 0, .ldsp 0 0 0 0 0 0 8 0, .ldsp 0 0 0 0 0 0 0 2,
     .stsp 8 0 0 0 0 0 0 0, .stsp 0 64 0 0 0 0 0 0, .stsp 0 0 64 0 0 0 0 0, .stsp 0 0 0 16 0 0 0 0,
     .stsp 0 0 0 0 2 0 0 0, .stsp 0 0 0 0 0 2 0 0, .stsp 0 0 0 0 0 0 8 0, .stsp 0 0 0 0 0 0 0 2] : List Instr).all (fun i => !fieldsFit i) = true := by decide

theorem test_wf_field16 :
    ([.atom 8 0 0 0 0 0 0, .atom 0 64 0 0 0 0 0, .atom 0 0 64 0 0 0 0, .atom 0 0 0 16 0 0 0,
     .atom 0 0 0 0 2 0 0, .atom 0 0 0 0 0 2 0, .atom 0 0 0 0 0 0 16, .red 8 0 0 0 0 0,
     .red 0 64 0 0 0 0, .red 0 0 64 0 0 0, .red 0 0 0 16 0 0, .red 0 0 0 0 2 0,
     .red 0 0 0 0 0 16, .atomsp 8 0 0 0 0 0 0, .atomsp 0 64 0 0 0 0 0, .atomsp 0 0 64 0 0 0 0,
     .atomsp 0 0 0 16 0 0 0, .atomsp 0 0 0 0 2 0 0, .atomsp 0 0 0 0 0 2 0, .atomsp 0 0 0 0 0 0 16] : List Instr).all (fun i => !fieldsFit i) = true := by decide

theorem test_wf_field17 :
    ([.ldfe 8 0 0 0 0 0 0, .ldfe 0 64 0 0 0 0 0, .ldfe 0 0 64 0 0 0 0, .ldfe 0 0 0 16 0 0 0,
     .ldfe 0 0 0 0 2 0 0, .ldfe 0 0 0 0 0 2 0, .ldfe 0 0 0 0 0 0 2, .stfe 8 0 0 0 0 0 0,
     .stfe 0 64 0 0 0 0 0, .stfe 0 0 64 0 0 0 0, .stfe 0 0 0 16 0 0 0, .stfe 0 0 0 0 2 0 0,
     .stfe 0 0 0 0 0 2 0, .stfe 0 0 0 0 0 0 2, .fence 8 0, .fence 0 4,
     .ldb 8 0 0 0 0, .ldb 0 16 0 0 0, .ldb 0 0 64 0 0, .ldb 0 0 0 16 0] : List Instr).all (fun i => !fieldsFit i) = true := by decide

theorem test_wf_field18 :
    ([.ldb 0 0 0 0 2, .cache 8 0 0 0 0 0, .cache 0 64 0 0 0 0, .cache 0 0 64 0 0 0,
     .cache 0 0 0 16 0 0, .cache 0 0 0 0 2 0, .cache 0 0 0 0 0 4, .prefetch 8 0 0 0 0 0,
     .prefetch 0 64 0 0 0 0, .prefetch 0 0 64 0 0 0, .prefetch 0 0 0 16 0 0, .prefetch 0 0 0 0 2 0,
     .prefetch 0 0 0 0 0 4, .tick 8 0 0, .tick 0 64 0, .tick 0 0 2,
     .accTake 8 0, .accTake 0 4, .accFree 8 0, .accFree 0 4] : List Instr).all (fun i => !fieldsFit i) = true := by decide

theorem test_wf_field19 :
    ([.accZero 8 0, .accZero 0 4, .accRd 8 0 0 0 0, .accRd 0 64 0 0 0,
     .accRd 0 0 4 0 0, .accRd 0 0 0 2 0, .accRd 0 0 0 0 32, .region 8 0 0,
     .region 0 4 0, .region 0 0 64, .compress 8 0 0 0 0 0 0 0, .compress 0 64 0 0 0 0 0 0,
     .compress 0 0 64 0 0 0 0 0, .compress 0 0 0 16 0 0 0 0, .compress 0 0 0 0 2 0 0 0, .compress 0 0 0 0 0 2 0 0,
     .compress 0 0 0 0 0 0 4 0, .compress 0 0 0 0 0 0 0 4, .cp 8 0 0 0 0 0, .cp 0 64 0 0 0 0] : List Instr).all (fun i => !fieldsFit i) = true := by decide

theorem test_wf_field20 :
    ([.cp 0 0 64 0 0 0, .cp 0 0 0 16 0 0, .cp 0 0 0 0 2 0, .cp 0 0 0 0 0 16,
     .cpColl 8 0 0 0 0 0, .cpColl 0 64 0 0 0 0, .cpColl 0 0 64 0 0 0, .cpColl 0 0 0 16 0 0,
     .cpColl 0 0 0 0 2 0, .cpColl 0 0 0 0 0 16, .cpwait 8 0 0, .cpwait 0 64 0,
     .cpwait 0 0 2, .cpfree 8 0, .cpfree 0 64, .gather 8 0 0 0 0 0 0,
     .gather 0 64 0 0 0 0 0, .gather 0 0 64 0 0 0 0, .gather 0 0 0 16 0 0 0, .gather 0 0 0 0 2 0 0] : List Instr).all (fun i => !fieldsFit i) = true := by decide

theorem test_wf_field21 :
    ([.gather 0 0 0 0 0 2 0, .gather 0 0 0 0 0 0 16, .scatter 8 0 0 0 0 0 0, .scatter 0 64 0 0 0 0 0,
     .scatter 0 0 64 0 0 0 0, .scatter 0 0 0 16 0 0 0, .scatter 0 0 0 0 2 0 0, .scatter 0 0 0 0 0 2 0,
     .scatter 0 0 0 0 0 0 16, .mcast 8 0 0 0 0 0, .mcast 0 64 0 0 0 0, .mcast 0 0 64 0 0 0,
     .mcast 0 0 0 16 0 0, .mcast 0 0 0 0 2 0, .mcast 0 0 0 0 0 16, .coll 8 0 0 0 0 0,
     .coll 0 64 0 0 0 0, .coll 0 0 64 0 0 0, .coll 0 0 0 16 0 0, .coll 0 0 0 0 2 0] : List Instr).all (fun i => !fieldsFit i) = true := by decide

theorem test_wf_field22 :
    ([.coll 0 0 0 0 0 16, .hstat 8 0 0, .hstat 0 64 0, .hstat 0 0 64,
     .bra 8 0 0 0, .bra 0 262144 0 0, .bra 0 0 4 0, .bra 0 0 0 2,
     .brx 8 0 0 0 0 0, .brx 0 64 0 0 0 0, .brx 0 0 64 0 0 0, .brx 0 0 0 4 0 0,
     .brx 0 0 0 0 2 0, .brx 0 0 0 0 0 2, .callI 8 0 0 0, .callI 0 64 0 0,
     .callI 0 0 4096 0, .callI 0 0 0 2, .callx 8 0 0 0 0 0, .callx 0 64 0 0 0 0] : List Instr).all (fun i => !fieldsFit i) = true := by decide

theorem test_wf_field23 :
    ([.callx 0 0 64 0 0 0, .callx 0 0 0 64 0 0, .callx 0 0 0 0 2 0, .callx 0 0 0 0 0 2,
     .ret 8 0 0, .ret 0 64 0, .ret 0 0 2, .exitI 8 0,
     .exitI 0 2, .fabEnter 8 0, .fabEnter 0 16, .fabLeave 8,
     .bar 64, .yield 8, .nap 8 0 0, .nap 0 4096 0,
     .nap 0 0 2, .trapI 8 0, .trapI 0 4096, .icinv 8 0 0 0] : List Instr).all (fun i => !fieldsFit i) = true := by decide

theorem test_wf_field24 :
    ([.icinv 0 64 0 0, .icinv 0 0 64 0, .icinv 0 0 0 16, .strm 8 0 0 0 0,
     .strm 0 64 0 0 0, .strm 0 0 64 0 0, .strm 0 0 0 2 0, .strm 0 0 0 0 2,
     .sysopHarvest 8 0 0 0, .sysopHarvest 0 64 0 0, .sysopHarvest 0 0 64 0, .sysopHarvest 0 0 0 16,
     .sysopUnpoison 8 0 0 0, .sysopUnpoison 0 64 0 0, .sysopUnpoison 0 0 64 0, .sysopUnpoison 0 0 0 16,
     .imad 8 0 0 0 0 0 0 0, .imad 0 64 0 0 0 0 0 0, .imad 0 0 64 0 0 0 0 0, .imad 0 0 0 64 0 0 0 0] : List Instr).all (fun i => !fieldsFit i) = true := by decide

theorem test_wf_field25 :
    ([.imad 0 0 0 0 4 0 0 0, .imad 0 0 0 0 0 4 0 0, .imad 0 0 0 0 0 0 64 0, .imad 0 0 0 0 0 0 0 16,
     .bfi 8 0 0 0 0 0 0 0, .bfi 0 64 0 0 0 0 0 0, .bfi 0 0 64 0 0 0 0 0, .bfi 0 0 0 64 0 0 0 0,
     .bfi 0 0 0 0 4 0 0 0, .bfi 0 0 0 0 0 4 0 0, .bfi 0 0 0 0 0 0 64 0, .bfi 0 0 0 0 0 0 0 16,
     .ffma 8 0 0 0 0 0 0 0, .ffma 0 64 0 0 0 0 0 0, .ffma 0 0 64 0 0 0 0 0, .ffma 0 0 0 64 0 0 0 0,
     .ffma 0 0 0 0 4 0 0 0, .ffma 0 0 0 0 0 4 0 0, .ffma 0 0 0 0 0 0 64 0, .ffma 0 0 0 0 0 0 0 16] : List Instr).all (fun i => !fieldsFit i) = true := by decide

theorem test_wf_field26 :
    ([.movI 8 0 0 0 0, .movI 0 64 0 0 0, .movI 0 0 4 0 0, .movI 0 0 0 4 0,
     .movI 0 0 0 0 4294967296, .iaddI 8 0 0 0 0 0, .iaddI 0 64 0 0 0 0, .iaddI 0 0 64 0 0 0,
     .iaddI 0 0 0 4 0 0, .iaddI 0 0 0 0 4 0, .iaddI 0 0 0 0 0 4294967296, .fcmpI 8 0 0 0 0 0 0,
     .fcmpI 0 8 0 0 0 0 0, .fcmpI 0 0 8 0 0 0 0, .fcmpI 0 0 0 64 0 0 0, .fcmpI 0 0 0 0 4 0 0,
     .fcmpI 0 0 0 0 0 4 0, .fcmpI 0 0 0 0 0 0 4294967296, .icmpI 8 0 0 0 0 0 0, .icmpI 0 8 0 0 0 0 0] : List Instr).all (fun i => !fieldsFit i) = true := by decide

theorem test_wf_field27 :
    ([.icmpI 0 0 8 0 0 0 0, .icmpI 0 0 0 64 0 0 0, .icmpI 0 0 0 0 4 0 0, .icmpI 0 0 0 0 0 4 0,
     .icmpI 0 0 0 0 0 0 4294967296, .ldo 8 0 0 0 0 0 0 0 0 0 0, .ldo 0 64 0 0 0 0 0 0 0 0 0, .ldo 0 0 64 0 0 0 0 0 0 0 0,
     .ldo 0 0 0 16 0 0 0 0 0 0 0, .ldo 0 0 0 0 4 0 0 0 0 0 0, .ldo 0 0 0 0 0 8 0 0 0 0 0, .ldo 0 0 0 0 0 0 8 0 0 0 0,
     .ldo 0 0 0 0 0 0 0 2 0 0 0, .ldo 0 0 0 0 0 0 0 0 2 0 0, .ldo 0 0 0 0 0 0 0 0 0 2 0, .ldo 0 0 0 0 0 0 0 0 0 0 2048,
     .sto 8 0 0 0 0 0 0 0 0 0 0, .sto 0 64 0 0 0 0 0 0 0 0 0, .sto 0 0 64 0 0 0 0 0 0 0 0, .sto 0 0 0 16 0 0 0 0 0 0 0] : List Instr).all (fun i => !fieldsFit i) = true := by decide

theorem test_wf_field28 :
    ([.sto 0 0 0 0 4 0 0 0 0 0 0, .sto 0 0 0 0 0 8 0 0 0 0 0, .sto 0 0 0 0 0 0 8 0 0 0 0, .sto 0 0 0 0 0 0 0 2 0 0 0,
     .sto 0 0 0 0 0 0 0 0 2 0 0, .sto 0 0 0 0 0 0 0 0 0 2 0, .sto 0 0 0 0 0 0 0 0 0 0 2048, .atomo 8 0 0 0 0 0 0 0 0 0 0 0 0 0,
     .atomo 0 64 0 0 0 0 0 0 0 0 0 0 0 0, .atomo 0 0 64 0 0 0 0 0 0 0 0 0 0 0, .atomo 0 0 0 16 0 0 0 0 0 0 0 0 0 0, .atomo 0 0 0 0 2 0 0 0 0 0 0 0 0 0,
     .atomo 0 0 0 0 0 16 0 0 0 0 0 0 0 0, .atomo 0 0 0 0 0 0 64 0 0 0 0 0 0 0, .atomo 0 0 0 0 0 0 0 4 0 0 0 0 0 0, .atomo 0 0 0 0 0 0 0 0 8 0 0 0 0 0,
     .atomo 0 0 0 0 0 0 0 0 0 8 0 0 0 0, .atomo 0 0 0 0 0 0 0 0 0 0 2 0 0 0, .atomo 0 0 0 0 0 0 0 0 0 0 0 2 0 0, .atomo 0 0 0 0 0 0 0 0 0 0 0 0 2 0] : List Instr).all (fun i => !fieldsFit i) = true := by decide

theorem test_wf_field29 :
    ([.atomo 0 0 0 0 0 0 0 0 0 0 0 0 0 2048, .redo 8 0 0 0 0 0 0 0 0 0 0 0, .redo 0 64 0 0 0 0 0 0 0 0 0 0, .redo 0 0 16 0 0 0 0 0 0 0 0 0,
     .redo 0 0 0 16 0 0 0 0 0 0 0 0, .redo 0 0 0 0 64 0 0 0 0 0 0 0, .redo 0 0 0 0 0 4 0 0 0 0 0 0, .redo 0 0 0 0 0 0 8 0 0 0 0 0,
     .redo 0 0 0 0 0 0 0 8 0 0 0 0, .redo 0 0 0 0 0 0 0 0 2 0 0 0, .redo 0 0 0 0 0 0 0 0 0 2 0 0, .redo 0 0 0 0 0 0 0 0 0 0 2 0,
     .redo 0 0 0 0 0 0 0 0 0 0 0 2048, .mma 8 0 0 0 0 0 0 0 0, .mma 0 4 0 0 0 0 0 0 0, .mma 0 0 64 0 0 0 0 0 0,
     .mma 0 0 0 64 0 0 0 0 0, .mma 0 0 0 0 2 0 0 0 0, .mma 0 0 0 0 0 2 0 0 0, .mma 0 0 0 0 0 0 64 0 0] : List Instr).all (fun i => !fieldsFit i) = true := by decide

theorem test_wf_field30 :
    ([.mma 0 0 0 0 0 0 0 16 0, .mma 0 0 0 0 0 0 0 0 2, .mmaSp 8 0 0 0 0 0 0 0 0 0, .mmaSp 0 4 0 0 0 0 0 0 0 0,
     .mmaSp 0 0 64 0 0 0 0 0 0 0, .mmaSp 0 0 0 64 0 0 0 0 0 0, .mmaSp 0 0 0 0 2 0 0 0 0 0, .mmaSp 0 0 0 0 0 4 0 0 0 0,
     .mmaSp 0 0 0 0 0 0 2 0 0 0, .mmaSp 0 0 0 0 0 0 0 64 0 0, .mmaSp 0 0 0 0 0 0 0 0 16 0, .mmaSp 0 0 0 0 0 0 0 0 0 2,
     .mmaDec 8 0 0 0 0 0 0 0 0 0 0, .mmaDec 0 4 0 0 0 0 0 0 0 0 0, .mmaDec 0 0 64 0 0 0 0 0 0 0 0, .mmaDec 0 0 0 64 0 0 0 0 0 0 0,
     .mmaDec 0 0 0 0 2 0 0 0 0 0 0, .mmaDec 0 0 0 0 0 4 0 0 0 0 0, .mmaDec 0 0 0 0 0 0 2 0 0 0 0, .mmaDec 0 0 0 0 0 0 0 64 0 0 0] : List Instr).all (fun i => !fieldsFit i) = true := by decide

theorem test_wf_field31 :
    ([.mmaDec 0 0 0 0 0 0 0 0 2 0 0, .mmaDec 0 0 0 0 0 0 0 0 0 8 0, .mmaDec 0 0 0 0 0 0 0 0 0 0 2, .cpx 8 0 0 0 0 0 0 0 0 0 0 0 0,
     .cpx 0 64 0 0 0 0 0 0 0 0 0 0 0, .cpx 0 0 64 0 0 0 0 0 0 0 0 0 0, .cpx 0 0 0 16 0 0 0 0 0 0 0 0 0, .cpx 0 0 0 0 4 0 0 0 0 0 0 0 0,
     .cpx 0 0 0 0 0 16 0 0 0 0 0 0 0, .cpx 0 0 0 0 0 0 64 0 0 0 0 0 0, .cpx 0 0 0 0 0 0 0 4 0 0 0 0 0, .cpx 0 0 0 0 0 0 0 0 8 0 0 0 0,
     .cpx 0 0 0 0 0 0 0 0 0 2 0 0 0, .cpx 0 0 0 0 0 0 0 0 0 0 2 0 0, .cpx 0 0 0 0 0 0 0 0 0 0 0 2 0, .cpx 0 0 0 0 0 0 0 0 0 0 0 0 2048,
     .paddock 8 0 0 0 0, .paddock 0 64 0 0 0, .paddock 0 0 16 0 0, .paddock 0 0 0 64 0] : List Instr).all (fun i => !fieldsFit i) = true := by decide

theorem test_wf_field32 :
    ([.paddock 0 0 0 0 2, .braL 8 0 0 0, .braL 0 4 0 0, .braL 0 0 2 0,
     .braL 0 0 0 4294967296, .callL 8 0 0 0, .callL 0 64 0 0, .callL 0 0 2 0,
     .callL 0 0 0 4294967296, .strmL 8 0 0 0 0 0, .strmL 0 64 0 0 0 0, .strmL 0 0 2 0 0 0,
     .strmL 0 0 0 262144 0 0, .strmL 0 0 0 0 2 0, .strmL 0 0 0 0 0 8192, .longLatencyCompletion 576 0 0,
     .longLatencyCompletion 0 64 0, .swapCountExpiry 576 0 false, .swapCountExpiry 0 64 false, .napEnd 576 0 false] : List Instr).all (fun i => !fieldsFit i) = true := by decide

theorem test_wf_field33 :
    ([.napEnd 0 64 false, .flockRetirement 576 0, .flockRetirement 0 64, .doorbellWrite .portA 65536 0 0,
     .launchPacket 65536, .copyPacket 65536, .barrierAndPacket 65536, .signalPacket 65536,
     .paddockPacket 65536, .homeChangePacket 65536, .slotIdleUnmap 256, .workgroupAdmission 0 576 [],
     .copyLastByteLanded 576 0, .copyLastByteLanded 0 64, .copyPageFailure 576 0, .copyPageFailure 0 64,
     .mcastDelivery 0 576, .updateSharerAck 64 0, .paddockLineEviction 64 0, .paddockLineMove 64 0] : List Instr).all (fun i => !fieldsFit i) = true := by decide

theorem test_wf_field34 :
    ([.paddockShareArrival 64 0, .paddockShareArrival 0 16128, .paddockResizeComplete 64, .autoTick 576,
     .tileReleaseEffective 576 0, .tileReleaseEffective 0 4, .operatorFiring 576 0, .operatorFiring 0 64,
     .sourceStart 576 0, .sourceStart 0 64, .sourceAppend 576 0, .sourceAppend 0 64,
     .sinkTake 576 0, .sinkTake 0 64, .streamCommandCompletion 576 0, .streamCommandCompletion 0 64,
     .controlTokenArrival 576 0, .controlTokenArrival 0 64, .spatialDrainEnd 576, .thermalStepDown 64] : List Instr).all (fun i => !fieldsFit i) = true := by decide

theorem test_wf_field35 :
    ([.thermalStepUp 64, .thermalStop 64, .islandClockSwitch 64, .cxlDeviceEnumeration 8 0,
     .uncorrectableCoreStateError 576 0 0, .uncorrectableCoreStateError 0 64 0, .uncorrectableMemoryError 0 (some 16128) false, .reservedMajor 0 0,
     .reservedMajor (2 ^ 32 + 0xFE000000) 0, .reservedMajor 0xFE000000 (2 ^ 32)] : List Instr).all (fun i => !fieldsFit i) = true := by decide

/-- Codes that an instruction does not assign (R55). -/
theorem test_wf_code1 :
    ([.iadd 7 0 0 0 3 0, .isub 7 0 0 0 3 0, .imul 7 0 0 0 3 0, .andB 7 0 0 0 3 0,
     .orB 7 0 0 0 3 0, .xorB 7 0 0 0 3 0, .shl 7 0 0 0 3 0, .shr 7 0 0 0 3 0,
     .imin 7 0 0 0 3 0, .imax 7 0 0 0 3 0, .iabsd 7 0 0 0 3 0, .bitcount 7 0 0 0 1 0,
     .bitcount 7 0 0 3 0 0, .bfe 7 0 0 0 3 0, .bfe 7 0 0 0 0 2, .sreg 7 0 17 0 0,
     .sreg 7 0 1 1 0, .sreg 7 0 14 0 1, .fadd 7 0 0 0 3 0, .fadd 7 0 0 0 0 3] : List Instr).all (fun i => fieldsFit i && !wellFormed i) = true := by decide

theorem test_wf_code2 :
    ([.fsub 7 0 0 0 0 3, .fmul 7 0 0 0 0 3, .fmin 7 0 0 0 0 3, .fmax 7 0 0 0 0 3,
     .fcmp 7 0 0 0 0 3 0, .fcmp 7 0 0 0 0 0 1, .frcp 7 0 0 0 1 0, .frcp 7 0 0 0 0 3,
     .frsq 7 0 0 0 1 0, .fex2 7 0 0 0 1 0, .flg2 7 0 0 0 1 0, .fsin 7 0 0 0 1 0,
     .fcos 7 0 0 0 1 0, .fclass 7 0 0 1 0, .fclass 7 0 0 0 3, .fscale 7 0 0 0 3 0,
     .fscale 7 0 0 0 0 3, .fround 7 0 0 0 5 0 0, .fround 7 0 0 0 0 1 0, .fround 7 0 0 0 0 0 3] : List Instr).all (fun i => fieldsFit i && !wellFormed i) = true := by decide

theorem test_wf_code3 :
    ([.cvt 7 0 0 5 0 0, .cvt 7 0 0 0 0 5, .cvti 7 0 0 9 0, .cvti 7 0 0 0 5,
     .pack 7 0 0 0 3 0, .pack 7 0 0 0 0 2, .unpack 7 0 0 9 0 0, .unpack 7 0 0 0 0 2,
     .unpack 7 0 0 2 0 4, .mxscale 7 0 0 3, .icmp 7 6 0 0 0 0 0, .icmp 7 0 0 0 0 3 0,
     .icmp 7 0 0 0 0 0 2, .agree 7 0 0 3, .matchK 7 0 0 3, .xpick 7 0 0 0 0 3,
     .xpick 7 0 0 0 3 0, .xpick 7 0 0 32 2 0, .xfold 7 0 0 0 0 6, .lead 7 0 1 0] : List Instr).all (fun i => fieldsFit i && !wellFormed i) = true := by decide

theorem test_wf_code4 :
    ([.ld 7 0 0 0 0 0 6 0, .ld 7 1 0 0 0 0 5 0, .st 7 0 0 0 0 0 6 0, .st 7 1 0 0 0 0 5 0,
     .ldsp 7 0 0 0 0 0 6 0, .stsp 7 1 0 0 0 0 5 0, .atom 7 0 0 0 0 0 7, .atom 7 0 0 0 0 0 15,
     .red 7 0 0 0 0 4, .red 7 0 0 0 0 15, .atomsp 7 0 0 0 0 0 7, .fence 0 1,
     .fence 6 1, .fence 1 0, .cache 7 0 0 0 0 0, .prefetch 7 0 0 0 0 2,
     .accRd 7 1 0 0 0, .compress 7 0 0 0 0 0 3 0, .compress 7 0 1 0 0 0 0 0, .compress 7 2 0 0 0 0 0 0] : List Instr).all (fun i => fieldsFit i && !wellFormed i) = true := by decide

theorem test_wf_code5 :
    ([.compress 7 1 0 0 0 0 2 0, .coll 7 0 1 0 0 0, .coll 7 0 0 0 0 8, .bar 16,
     .nap 7 1 1, .strm 7 0 1 0 1, .strm 7 1 0 0 0, .imad 7 0 0 0 3 0 0 0,
     .imad 7 0 0 0 0 0 0 3, .imad 7 0 0 0 0 2 0 2, .imad 7 1 0 0 0 0 0 2, .imad 7 0 0 0 0 0 1 2,
     .bfi 7 0 0 0 3 0 0 0, .bfi 7 0 0 0 0 1 0 0, .bfi 7 0 0 0 0 0 0 1, .ffma 7 0 0 0 3 0 0 0,
     .ffma 7 0 0 0 0 3 0 0, .ffma 7 0 0 0 0 0 0 5, .movI 7 0 1 0 0, .movI 7 0 0 2 0] : List Instr).all (fun i => fieldsFit i && !wellFormed i) = true := by decide

theorem test_wf_code6 :
    ([.iaddI 7 0 0 1 0 0, .fcmpI 7 0 0 0 1 0 0, .fcmpI 7 0 0 0 0 1 0, .icmpI 7 0 0 0 1 0 0,
     .icmpI 7 0 0 0 0 2 0, .icmpI 7 6 0 0 0 0 0, .ldo 7 0 0 0 0 0 6 0 0 0 0, .ldo 7 1 0 0 0 0 5 0 0 0 0,
     .ldo 7 0 0 0 0 1 4 0 0 0 0, .ldo 7 0 0 0 2 1 4 0 0 0 0, .ldo 7 0 0 0 1 6 4 0 0 0 0, .sto 7 0 0 0 1 1 4 0 0 0 0,
     .sto 7 0 0 0 0 1 4 0 0 0 0, .atomo 7 0 0 0 1 0 0 0 1 3 0 0 0 0, .atomo 7 0 0 0 1 15 0 0 1 4 0 0 0 0, .atomo 7 0 0 0 1 12 0 0 1 5 0 0 0 0,
     .atomo 7 0 0 0 1 0 0 0 0 4 0 0 0 0, .atomo 7 1 0 0 0 0 0 0 1 4 0 0 0 0, .atomo 7 0 0 0 1 0 1 0 1 5 0 0 0 0, .atomo 7 0 0 0 1 7 2 0 1 5 0 0 0 0] : List Instr).all (fun i => fieldsFit i && !wellFormed i) = true := by decide

theorem test_wf_code7 :
    ([.redo 7 0 0 0 0 0 3 3 0 0 0 0, .redo 7 0 0 4 0 0 3 4 0 0 0 0, .redo 7 0 0 0 0 1 3 4 0 0 0 0, .redo 7 0 0 0 0 0 2 4 0 0 0 0,
     .redo 7 0 0 0 1 0 3 5 0 0 0 0, .mma 7 0 0 0 0 0 0 8 0, .mma 7 0 1 0 0 0 0 0 0, .mma 7 0 0 16 0 1 0 0 0,
     .mma 7 0 0 0 0 0 8 7 0, .mma 7 0 0 0 0 0 1 0 0, .mmaSp 7 0 0 0 0 0 0 0 5 0, .mmaSp 7 0 0 0 0 3 0 0 0 0,
     .mmaSp 7 0 0 0 0 0 0 1 0 0, .mmaDec 7 0 0 0 0 0 0 0 0 4 0, .mmaDec 7 0 0 0 0 3 0 0 0 0 0, .mmaDec 7 0 0 0 0 0 0 1 0 0 0,
     .cpx 7 0 0 0 0 0 0 1 2 0 0 0 0, .cpx 7 0 0 0 0 0 0 0 1 0 0 0 0, .cpx 7 0 0 0 2 0 1 0 2 0 0 0 0, .cpx 7 0 0 0 0 0 1 0 2 0 0 0 0] : List Instr).all (fun i => fieldsFit i && !wellFormed i) = true := by decide

theorem test_wf_code8 :
    ([.braL 7 0 0 2, .callL 7 0 0 2, .strmL 7 0 1 0 0 8, .strmL 7 1 0 0 0 0,
     .reservedMajor 0xFE000000 0] : List Instr).all (fun i => fieldsFit i && !wellFormed i) = true := by decide
/-! ### Words of the spec's encodings -/

/-- A word of every instruction, its fields written out from the encoding tables of the spec (R56 to R58, R63 to R68), each with a value of
its own. -/
theorem test_words1 :
    decodeWords 0b0000000_010_110010_100010_010010_10_10 0 = .ok (.iadd 2 50 34 18 2 2) ∧
    decodeWords 0b0000001_010_110010_100010_010010_10_10 0 = .ok (.isub 2 50 34 18 2 2) ∧
    decodeWords 0b0000010_010_110010_100010_010010_10_10 0 = .ok (.imul 2 50 34 18 2 2) ∧
    decodeWords 0b0000011_010_110010_100010_010010_10_10 0 = .ok (.andB 2 50 34 18 2 2) ∧
    decodeWords 0b0000100_010_110010_100010_010010_10_10 0 = .ok (.orB 2 50 34 18 2 2) ∧
    decodeWords 0b0000101_010_110010_100010_010010_10_10 0 = .ok (.xorB 2 50 34 18 2 2) ∧
    decodeWords 0b0000110_010_110010_100010_010010_10_10 0 = .ok (.shl 2 50 34 18 2 2) ∧
    decodeWords 0b0000111_010_110010_100010_010010_10_10 0 = .ok (.shr 2 50 34 18 2 2) ∧
    decodeWords 0b0001000_010_110010_100010_010010_10_0_1 0 = .ok (.imin 2 50 34 18 2 1) ∧
    decodeWords 0b0001000_010_110010_100010_010010_10_1_1 0 = .ok (.imax 2 50 34 18 2 1) ∧
    decodeWords 0b0001001_010_110010_100010_010010_10_10 0 = .ok (.iabsd 2 50 34 18 2 2) ∧
    decodeWords 0b0001010_010_110010_100010_010010_10_10 0 = .ok (.bitcount 2 50 34 18 2 2) := by decide

theorem test_words2 :
    decodeWords 0b0001011_010_110010_100010_010010_10_10 0 = .ok (.bfe 2 50 34 18 2 2) ∧
    decodeWords 0b0001100_010_110010_100010_000000_10_1_0 0 = .ok (.mov 2 50 34 2 1) ∧
    decodeWords 0b0001101_010_110010_100010_010010_10_00 0 = .ok (.sel 2 50 34 18 2) ∧
    decodeWords 0b0001110_010_110010_100010_010010_10_1_1 0 = .ok (.max2sel 2 50 34 18 2 1 1) ∧
    decodeWords 0b0001111_010_110010_100010_000000_1_00_1 0 = .ok (.sreg 2 50 34 1 1) ∧
    decodeWords 0b0010000_010_110010_100010_010010_10_10 0 = .ok (.fadd 2 50 34 18 2 2) ∧
    decodeWords 0b0010001_010_110010_100010_010010_10_10 0 = .ok (.fsub 2 50 34 18 2 2) ∧
    decodeWords 0b0010010_010_110010_100010_010010_10_10 0 = .ok (.fmul 2 50 34 18 2 2) ∧
    decodeWords 0b0010011_010_110010_100010_010010_10_10 0 = .ok (.fmin 2 50 34 18 2 2) ∧
    decodeWords 0b0010100_010_110010_100010_010010_10_10 0 = .ok (.fmax 2 50 34 18 2 2) ∧
    decodeWords 0b0010101_010_010_010_010010_000010_10_10 0 = .ok (.fcmp 2 2 2 18 2 2 2) ∧
    decodeWords 0b0010110_010_110010_100010_00000_1_10_10 0 = .ok (.frcp 2 50 34 1 2 2) := by decide

theorem test_words3 :
    decodeWords 0b0010111_010_110010_100010_00000_1_10_10 0 = .ok (.frsq 2 50 34 1 2 2) ∧
    decodeWords 0b0011000_010_110010_100010_00000_1_10_10 0 = .ok (.fex2 2 50 34 1 2 2) ∧
    decodeWords 0b0011001_010_110010_100010_00000_1_10_10 0 = .ok (.flg2 2 50 34 1 2 2) ∧
    decodeWords 0b0011010_010_110010_100010_00000_1_10_10 0 = .ok (.fsin 2 50 34 1 2 2) ∧
    decodeWords 0b0011011_010_110010_100010_00000_1_10_10 0 = .ok (.fcos 2 50 34 1 2 2) ∧
    decodeWords 0b0011100_010_110010_100010_000000_10_10 0 = .ok (.fclass 2 50 34 2 2) ∧
    decodeWords 0b0011101_010_110010_100010_010010_10_10 0 = .ok (.fscale 2 50 34 18 2 2) ∧
    decodeWords 0b0011110_010_110010_100010_00_1_010_10_10 0 = .ok (.fround 2 50 34 1 2 2 2) ∧
    decodeWords 0b0100000_010_110010_100010_010_1_00_010_0 0 = .ok (.cvt 2 50 34 2 1 2) ∧
    decodeWords 0b0100001_010_110010_100010_0010_00_010_0 0 = .ok (.cvti 2 50 34 2 2) ∧
    decodeWords 0b0100010_010_110010_100010_010010_10_10 0 = .ok (.pack 2 50 34 18 2 2) ∧
    decodeWords 0b0100011_010_110010_100010_0010_00_1_010 0 = .ok (.unpack 2 50 34 2 1 2) := by decide

theorem test_words4 :
    decodeWords 0b0100100_010_110010_100010_000_010_1_0_10 0 = .ok (.cbdec 2 50 34 2 1 2) ∧
    decodeWords 0b0100101_010_000_010_100010_0010_000000 0 = .ok (.cbload 2 2 34 2) ∧
    decodeWords 0b0100110_010_110010_100010_00000000_10 0 = .ok (.mxscale 2 50 34 2) ∧
    decodeWords 0b0101000_010_010_010_010010_000010_10_10 0 = .ok (.icmp 2 2 2 18 2 2 2) ∧
    decodeWords 0b0101001_010_000_010_000_010_000_010_00_10 0 = .ok (.pop 2 2 2 2 2) ∧
    decodeWords 0b0101010_010_110010_000_010_000000_1_000 0 = .ok (.ballot 2 50 2 1) ∧
    decodeWords 0b0101011_010_000_010_000_010_00000000_10 0 = .ok (.agree 2 2 2 2) ∧
    decodeWords 0b0101100_010_110010_100010_00000000_10 0 = .ok (.matchK 2 50 34 2) ∧
    decodeWords 0b0101101_010_110010_100010_010010_10_10 0 = .ok (.xpick 2 50 34 18 2 2) ∧
    decodeWords 0b0101110_010_110010_100010_00000_1_1_010 0 = .ok (.xfold 2 50 34 1 1 2) ∧
    decodeWords 0b0101111_010_000_010_100010_000000000_1 0 = .ok (.lead 2 2 34 1) ∧
    decodeWords 0b0110000_010_110010_100010_0010_1_1_010_1 0 = .ok (.ld 2 50 34 2 1 1 2 1) := by decide

theorem test_words5 :
    decodeWords 0b0110001_010_110010_100010_0010_1_1_010_1 0 = .ok (.st 2 50 34 2 1 1 2 1) ∧
    decodeWords 0b0110010_010_110010_100010_0010_1_1_010_1 0 = .ok (.ldsp 2 50 34 2 1 1 2 1) ∧
    decodeWords 0b0110011_010_110010_100010_0010_1_1_010_1 0 = .ok (.stsp 2 50 34 2 1 1 2 1) ∧
    decodeWords 0b0110100_010_110010_100010_0010_1_1_0010 0 = .ok (.atom 2 50 34 2 1 1 2) ∧
    decodeWords 0b0110101_010_110010_100010_0010_1_0_0010 0 = .ok (.red 2 50 34 2 1 2) ∧
    decodeWords 0b0110110_010_110010_100010_0010_1_1_0010 0 = .ok (.atomsp 2 50 34 2 1 1 2) ∧
    decodeWords 0b0110111_010_110010_100010_0010_1_1_100_1 0 = .ok (.ldfe 2 50 34 2 1 1 1) ∧
    decodeWords 0b0111000_010_110010_100010_0010_1_1_100_1 0 = .ok (.stfe 2 50 34 2 1 1 1) ∧
    decodeWords 0b0111001111000000000000000_010_10_00 0 = .ok (.fence 2 2) ∧
    decodeWords 0b0111010_010_00_0010_100010_0010_1_00000 0 = .ok (.ldb 2 2 34 2 1) ∧
    decodeWords 0b0111011_010_110010_100010_0010_1_0_10_00 0 = .ok (.cache 2 50 34 2 1 2) ∧
    decodeWords 0b0111100_010_110010_100010_0010_1_0_10_00 0 = .ok (.prefetch 2 50 34 2 1 2) := by decide

theorem test_words6 :
    decodeWords 0b0111101_010_000000_110010_000000000_1 0 = .ok (.tick 2 50 1) ∧
    decodeWords 0b1000000_010_0000_10_0000000000000000 0 = .ok (.accTake 2 2) ∧
    decodeWords 0b1000001_010_0000_10_0000000000000000 0 = .ok (.accFree 2 2) ∧
    decodeWords 0b1000010_010_0000_10_0000000000000000 0 = .ok (.accZero 2 2) ∧
    decodeWords 0b1000011_010_110010_0000_10_0000_1_00010 0 = .ok (.accRd 2 50 2 1 2) ∧
    decodeWords 0b1000100_010_0000_10_100010_0000000000 0 = .ok (.region 2 2 34) ∧
    decodeWords 0b1000101_010_110010_100010_0010_1_1_10_10 0 = .ok (.compress 2 50 34 2 1 1 2 2) ∧
    decodeWords 0b1001000_010_110010_100010_0010_1_0_0010 0 = .ok (.cp 2 50 34 2 1 2) ∧
    decodeWords 0b1001000_010_110010_100010_0010_1_1_0010 0 = .ok (.cpColl 2 50 34 2 1 2) ∧
    decodeWords 0b1001001_010_110010_000000000000000_1 0 = .ok (.cpwait 2 50 1) ∧
    decodeWords 0b1001010_010_110010_0000000000000000 0 = .ok (.cpfree 2 50) ∧
    decodeWords 0b1001011_010_110010_100010_0010_1_1_0010 0 = .ok (.gather 2 50 34 2 1 1 2) := by decide

theorem test_words7 :
    decodeWords 0b1001100_010_110010_100010_0010_1_1_0010 0 = .ok (.scatter 2 50 34 2 1 1 2) ∧
    decodeWords 0b1001101_010_110010_100010_0010_1_0_0010 0 = .ok (.mcast 2 50 34 2 1 2) ∧
    decodeWords 0b1001110_010_110010_100010_0010_1_0_0010 0 = .ok (.coll 2 50 34 2 1 2) ∧
    decodeWords 0b1001111_010_110010_100010_0000000000 0 = .ok (.hstat 2 50 34) ∧
    decodeWords 0b1010000_010_101010101010110010_10_1_0 0 = .ok (.bra 2 174770 2 1) ∧
    decodeWords 0b1010001_010_000000_110010_100010_10_1_1 0 = .ok (.brx 2 50 34 2 1 1) ∧
    decodeWords 0b1010010_010_110010_010101100010_00_1_0 0 = .ok (.callI 2 50 1378 1) ∧
    decodeWords 0b1010011_010_110010_100010_010010_00_1_1 0 = .ok (.callx 2 50 34 18 1 1) ∧
    decodeWords 0b1010100_010_000000_110010_00000000_1_0 0 = .ok (.ret 2 50 1) ∧
    decodeWords 0b1010101_010_00000000000000000000_1_0 0 = .ok (.exitI 2 1) ∧
    decodeWords 0b1010110_010_000000000000_0010_000000 0 = .ok (.fabEnter 2 2) ∧
    decodeWords 0b1010111_010_0000000000000000000000 0 = .ok (.fabLeave 2) := by decide

theorem test_words8 :
    decodeWords 0b1011000111000000000000_000010_0000 0 = .ok (.bar 2) ∧
    decodeWords 0b1011001_010_0000000000000000000000 0 = .ok (.yield 2) ∧
    decodeWords 0b1011010_010_000000_101010110010_000_1 0 = .ok (.nap 2 2738 1) ∧
    decodeWords 0b1011011_010_000000_101010110010_0000 0 = .ok (.trapI 2 2738) ∧
    decodeWords 0b1011100_010_110010_100010_0010_000000 0 = .ok (.icinv 2 50 34 2) ∧
    decodeWords 0b10111011110000000000000000000000 0 = .ok (.fetchb) ∧
    decodeWords 0b1011110_010_110010_100010_0000_1_1_0000 0 = .ok (.strm 2 50 34 1 1) ∧
    decodeWords 0b1011111_010_110010_100010_0010_000001 0 = .ok (.sysopHarvest 2 50 34 2) ∧
    decodeWords 0b1011111_010_110010_100010_0010_000010 0 = .ok (.sysopUnpoison 2 50 34 2) := by decide
/-- Both words of the long forms (R54, R108 to R111, R116, R121, R143, R151, R152, R178, R196, R207, R266, R271, R305). -/
theorem test_words_long1 :
    decodeWords 0b1100000_010_110010_100010_010010_10_10 0b101010_00_000_0010_000_0_0_0_00000000000 = .ok (.imad 2 50 34 18 2 2 42 2) ∧
    decodeWords 0b1100001_010_110010_100010_010010_10_10 0b101010_00_000_0010_000_0_0_0_00000000000 = .ok (.bfi 2 50 34 18 2 2 42 2) ∧
    decodeWords 0b1100010_010_110010_100010_010010_10_10 0b101010_00_000_1010_000_0_0_0_00000000000 = .ok (.ffma 2 50 34 18 2 2 42 10) ∧
    decodeWords 0b1100011_010_110010_000000_000000_10_01 0xDEADBEEF = .ok (.movI 2 50 2 1 0xDEADBEEF) ∧
    decodeWords 0b1100100_010_110010_100010_000000_10_01 0xDEADBEEF = .ok (.iaddI 2 50 34 2 1 0xDEADBEEF) ∧
    decodeWords 0b1110000_010_101_011_100010_000000_10_01 0xDEADBEEF = .ok (.fcmpI 2 5 3 34 2 1 0xDEADBEEF) ∧
    decodeWords 0b1110001_010_101_011_100010_000000_10_01 0xDEADBEEF = .ok (.icmpI 2 5 3 34 2 1 0xDEADBEEF) ∧
    decodeWords 0b1100101_010_110010_100010_1001_00_0000 0b000000_01_011_0000_101_1_1_1_10000000001 =
      .ok (.ldo 2 50 34 9 1 3 5 1 1 1 1025) ∧
    decodeWords 0b1100110_010_110010_100010_1001_00_0000 0b000000_10_011_0000_101_0_1_0_10000000001 =
      .ok (.sto 2 50 34 9 2 3 5 0 1 0 1025) := by decide

theorem test_words_long2 :
    decodeWords 0b1100111_010_110010_100010_1001_1_0_0111 0b101010_11_101_0000_100_1_0_1_01111111111 =
      .ok (.atomo 2 50 34 9 1 7 42 3 5 4 1 0 1 1023) ∧
    decodeWords 0b1101100_010_000000_100010_1001_00_1001 0b101010_10_011_0000_100_1_1_0_10000000000 =
      .ok (.redo 2 34 9 9 42 2 3 4 1 1 0 1024) ∧
    decodeWords 0b1101000_010_0000_10_100010_010010_1_00_1 0b101010_00_000_0111_000_1_0_0_00000000000 =
      .ok (.mma 2 2 34 18 1 1 42 7 1) ∧
    decodeWords 0b1101001_010_0000_10_100010_010010_1_10_0 0b101010_00_000_0100_000_0_0_0_00000000000 =
      .ok (.mmaSp 2 2 34 18 1 2 0 42 4 0) ∧
    decodeWords 0b1101010_010_0000_10_100010_010010_0_01_1 0b101010_00000_1_011_000_1_0000000000000 =
      .ok (.mmaDec 2 2 34 18 0 1 1 42 1 3 1) ∧
    decodeWords 0b1101011_010_110010_100010_1001_10_0110 0b101010_10_100_0000_000_1_1_0_11111111111 =
      .ok (.cpx 2 50 34 9 2 6 42 2 4 1 1 0 2047) ∧
    decodeWords 0b1101101_010_000000_100010_1001_00_0000 0b101010_00_000_0000_000_1_0_0_00000000000 = .ok (.paddock 2 34 9 42 1) ∧
    decodeWords 0b1110010_010_000000_000000_000000_10_1_0 0xFFFFFF00 = .ok (.braL 2 2 1 0xFFFFFF00) ∧
    decodeWords 0b1110011_010_110010_000000_000000_00_1_0 0xFFFFFF00 = .ok (.callL 2 50 1 0xFFFFFF00) ∧
    decodeWords 0b1110100_010_110010_000000_0000_0_1_0000 0b101010101010101011_1_0000000010000 = .ok (.strmL 2 50 1 174763 1 16) ∧
    decodeWords 0b1111111_010_110010_100010_010010_1010 0 = .ok (.reservedMajor 0xFEB2892A 0) := by decide

/-- Words that the spec prints (chapters 6, 11, 12, 15 and 19). -/
theorem test_words_printed :
    decodeWords 0x81C20000 0 = .ok (.accTake 7 2) ∧ decodeWords 0x89C01000 0 = .ok (.region 7 0 4) ∧
    decodeWords 0x87D00005 0 = .ok (.accRd 7 16 0 0 5) ∧ decodeWords 0xD1C02028 0x00080000 = .ok (.mma 7 0 8 2 1 0 0 4 0) ∧
    decodeWords 0xD3C02020 0xA0000000 = .ok (.mmaSp 7 0 8 2 0 0 0 40 0 0) ∧
    decodeWords 0xD5C12041 0x50142000 = .ok (.mmaDec 7 1 8 4 0 0 1 20 1 2 1) ∧
    decodeWords 0xE5C00000 0x00040000 = .ok (.braL 7 0 0 0x40000) ∧ decodeWords 0xADC00180 0 = .ok (.fabEnter 7 6) ∧
    decodeWords 0xBDC03000 0 = .ok (.strm 7 0 12 0 0) ∧ decodeWords 0xCD810080 0x02810000 = .ok (.sto 6 1 0 2 2 4 4 0 0 0 0) ∧
    decodeWords 0xCBC23880 0x01811000 = .ok (.ldo 7 2 14 2 1 4 4 0 1 0 0) ∧
    decodeWords 0xCBC11DC0 0x01A11000 = .ok (.ldo 7 1 7 7 1 5 4 0 1 0 0) := by decide

/-- A word whose major is above 0x7E, or a reserved long major, decodes to the reserved row; its second word is kept for a long form (R69).
-/
theorem test_words_reserved :
    decodeWords 0xDC000000 5 = .ok (.reservedMajor 0xDC000000 5) ∧ isReservedMajor 0x6E = true ∧ isReservedMajor 0x60 = false := by decide

/-- The decoder takes an instruction's bytes, least significant first, and leaves the rest. -/
theorem test_decode_bytes :
    decode [0x50, 0x10, 0xC8, 0x01, 9] = .ok (.iadd 7 8 4 5 0 0, [9]) ∧
    decode [0, 0, 0xC0, 0xE5, 0, 0, 4, 0, 7] = .ok (.braL 7 0 0 0x40000, [7]) := by decide
/-! ### Single steps of the register instructions -/

/-- v4 and v5 of thread 0, and s4 and s5, hold two operands. -/
def operands (x y : Word) : State :=
  withFlock (fun f => putS (putS (putV (putV f 0 4 x) 0 5 y) 4 x) 5 y) base

/-- What an instruction leaves in v8 of thread 0, and what it leaves in the status. -/
def v8 (i : Instr) (s : State) : Word := getV (cur (after (exec i s))) 0 8
def flags (i : Instr) (s : State) : Word := (cur (after (exec i s))).status

theorem test_iadd_wraps : v8 (.iadd 7 8 4 5 0 0) (operands 0xFFFFFFFF 2) = 1 := by decide
theorem test_iadd_halves : v8 (.iadd 7 8 4 5 0 2) (operands 0x0001FFFF 1) = 0x00010000 := by decide
theorem test_isub_order : v8 (.isub 7 8 4 5 0 0) (operands 3 5) = 0xFFFFFFFE := by decide
theorem test_imul_low : v8 (.imul 7 8 4 5 0 0) (operands 0x10001 0x10001) = 0x00020001 := by decide
theorem test_logic :
    v8 (.andB 7 8 4 5 0 0) (operands 12 10) = 8 ∧ v8 (.orB 7 8 4 5 0 0) (operands 12 10) = 14 ∧
    v8 (.xorB 7 8 4 5 0 0) (operands 12 10) = 6 := by decide
theorem test_shift_by_width : v8 (.shl 7 8 4 5 0 0) (operands 3 33) = 6 ∧ v8 (.shr 7 8 4 5 0 1) (operands 0x80000000 31) = 0xFFFFFFFF := by
  decide
theorem test_extremes :
    v8 (.imin 7 8 4 5 0 1) (operands 0xFFFFFFFF 1) = 0xFFFFFFFF ∧ v8 (.imax 7 8 4 5 0 0) (operands 0xFFFFFFFF 1) = 0xFFFFFFFF ∧
    v8 (.iabsd 7 8 4 5 0 1) (operands 0xFFFFFFFF 1) = 2 := by decide
theorem test_bitcount :
    v8 (.bitcount 7 8 4 0 0 0) (operands 0xF0 0) = 4 ∧ v8 (.bitcount 7 8 4 1 0 0) (operands 0xF0 0) = 24 ∧
    v8 (.bitcount 7 8 4 2 0 0) (operands 0xF0 0) = 4 := by decide
/-- Four bits from position 4: B holds the position in bits 4:0 and the width in bits 13:8 (R107). -/
theorem test_bfe : v8 (.bfe 7 8 4 5 0 0) (operands 0x9F0 0x404) = 0xF ∧ v8 (.bfe 7 8 4 5 0 1) (operands 0x9F0 0x404) = 0xFFFFFFFF := by
  decide
theorem test_bfi : v8 (.bfi 7 8 4 4 0 0 5 0) (operands 0x12345678 0x404) = 0x12345688 := by decide
theorem test_mov : v8 (.mov 7 8 4 0 0) (operands 9 0) = 9 ∧ v8 (.mov 7 8 4 0 1) (operands 9 0) = 0 ∧ v8 (.mov 7 8 5 1 0) (operands 9 7) = 7 := by
  decide
theorem test_sel : v8 (.sel 7 8 4 5 0) (operands 9 7) = 9 ∧ v8 (.sel 0 8 4 5 0) (operands 9 7) = 7 := by decide
/-- Ties keep A (R113): the low halves differ, the high halves are equal. -/
theorem test_max2sel : v8 (.max2sel 7 8 4 5 3 0 0) (operands 0x00020001 0x00020003) = 0x00020003 := by decide
theorem test_max2sel_predicates :
    let s := after (exec (.max2sel 7 8 4 5 0 0 0) (operands 0x00020001 0x00020003))
    inMask (getP (cur s) 0) 0 = true ∧ inMask (getP (cur s) 1) 0 = false := by decide
theorem test_sreg_lane : getV (cur (after (exec (.sreg 7 8 1 0 0) base))) 31 8 = 31 := by decide
theorem test_imad_saturates :
    v8 (.imad 7 8 4 5 0 0 4 1) (operands 0xFFFFFFFF 2) = 0xFFFFFFFF ∧ flags (.imad 7 8 4 5 0 0 4 1) (operands 0xFFFFFFFF 2) = 16 := by decide
theorem test_immediates : v8 (.movI 7 8 0 0 77) base = 77 ∧ v8 (.iaddI 7 8 4 0 0 0xFFFFFFFF) (operands 5 0) = 4 := by decide

/-- 1 + 1, the largest finite times 2, infinity less infinity (R79, R92, R93). -/
theorem test_fadd : v8 (.fadd 7 8 4 5 0 0) (operands 0x3F800000 0x3F800000) = 0x40000000 := by decide +kernel
theorem test_fmul_overflow :
    v8 (.fmul 7 8 4 5 0 0) (operands 0x7F7FFFFF 0x40000000) = 0x7F800000 := by decide +kernel
theorem test_fsub_invalid :
    fdecode fmtF32 (v8 (.fsub 7 8 4 5 0 0) (operands 0x7F800000 0x7F800000)).toNat = .nan := by decide +kernel
/-- One rounding: (1 + 2^-12)^2 - 1 is exact. -/
theorem test_ffma_single_rounding :
    v8 (.ffma 7 8 4 4 0 0 5 0) (operands 0x3F800800 0xBF800000) = 0x3A000400 := by decide +kernel
theorem test_frcp : v8 (.frcp 7 8 4 0 0 0) (operands 0x40000000 0) = 0x3F000000 := by decide +kernel
theorem test_fscale : v8 (.fscale 7 8 4 5 0 0) (operands 0x3F800000 0xFFFFFFFF) = 0x3F000000 := by decide +kernel
/-- 2.5 rounds to 2 to nearest even and to 3 upward (R90). -/
theorem test_fround : v8 (.fround 7 8 4 0 0 0 0) (operands 0x40200000 0) = 0x40000000 := by decide +kernel
theorem test_pack : v8 (.pack 7 8 4 5 0 0) (operands 0x1234 0x5678) = 0x56781234 := by decide
theorem test_unpack : v8 (.unpack 7 8 4 3 0 1) (operands 0x0000FF00 0) = 0xFFFFFFFF := by decide
/-- An unordered compare (R116): lt is false and un is true on a NaN. -/
theorem test_fcmp_nan :
    getP (cur (after (exec (.fcmp 7 2 1 4 5 0 0) (operands 0x7FC00000 0x3F800000)))) 1 = 0 ∧
    inMask (getP (cur (after (exec (.fcmp 7 7 1 4 5 0 0) (operands 0x7FC00000 0x3F800000)))) 1) 0 = true := by decide +kernel
theorem test_icmp_signed :
    inMask (getP (cur (after (exec (.icmp 7 2 1 4 5 0 1) (operands 0xFFFFFFFF 0)))) 1) 0 = true ∧
    inMask (getP (cur (after (exec (.icmp 7 2 1 4 5 0 0) (operands 0xFFFFFFFF 0)))) 1) 0 = false := by decide
/-- p7 is never written (R60). -/
theorem test_p7_discards : getP (cur (after (exec (.icmp 7 1 7 4 4 0 0) base))) 7 = BitVec.allOnes 32 := by decide
theorem test_ballot : v8 (.ballot 7 8 7 0) base = 0xFFFFFFFF := by decide
theorem test_xfold_sum : v8 (.xfold 7 8 4 0 0 0) (withFlock (fun f => { f with v := [(128, 3), (159, 4)] }) base) = 7 := by decide
theorem test_xpick_reads_before : v8 (.xpick 7 8 4 31 2 0) (withFlock (fun f => { f with v := [(128, 3), (159, 4)] }) base) = 4 := by decide
theorem test_lead : getP (cur (after (exec (.lead 7 0 0 0) base))) 0 = 1 := by decide
theorem test_path_moves : (curPath (after (exec (.iadd 7 8 4 5 0 0) base))).pc = 68 ∧ (curPath (after (exec (.iadd 7 8 4 5 0 0) base))).left = 0 := by
  decide

/-! ### Traps and steps -/

/-- The cause that the trap of the placed workgroup records, 0 where it has none. -/
def trapped (s : State) : Nat := ((wgOf s 1 0).trap.map (·.cause)).getD 0

theorem test_illegal_opcode : trapped (after (exec (.iadd 7 8 4 5 3 0) base)) = 1 ∧ trapped (after (exec (.reservedMajor 0xFE000000 0) base)) = 1 := by
  decide
theorem test_register_budget : trapped (after (exec (.iadd 7 64 4 5 0 0) base)) = 5 := by decide
theorem test_trap_stops_launch :
    (launchOf (after (exec (.trapI 7 3) base)) 1).stop = some { status := 0x60, trapped := true, cause := 0x30, index := 0 } ∧
    (wgOf (after (exec (.trapI 7 3) base)) 1 0).phase = .stopping 3 := by decide
theorem test_second_trap_counts :
    trapped (after (exec (.trapI 7 4095) (after (exec (.trapI 7 3) base)))) = 0x30 ∧
    (wgOf (after (exec (.trapI 7 4095) (after (exec (.trapI 7 3) base)))) 1 0).later = 1 := by decide
theorem test_privilege : trapped (after (exec (.sysopHarvest 7 4 5 0) base)) = 4 := by decide
theorem test_step_movI :
    getV (cur (after (step (State.reset.withFetchWord 64 (0xC7C80000 + 0x12345678 * 2 ^ 32))))) 31 8 = 0x12345678 := by decide
/-! ### States and operands that meet the hypotheses of the statements -/

/-- DecodeOfEncodeIsTheInstruction, WordsHaveOneReading: fields at both ends of their ranges. -/
theorem test_meets_encodings :
    (fieldsFit (.ldo 7 63 63 15 3 7 7 1 1 1 2047) = true ∧ encode (.ldo 7 63 63 15 3 7 7 1 1 1 2047) ≠ []) ∧
    (fieldsFit (.iadd 0 0 0 0 0 0) = true ∧ encode (.iadd 0 0 0 0 0 0) ≠ []) ∧
    (0xE5C00000 < 2 ^ 32 ∧ 0xFFFFFFFF < 2 ^ 32 ∧ decodeWords 0xE5C00000 0xFFFFFFFF = .ok (.braL 7 0 0 0xFFFFFFFF)) := by decide

/-- ActiveThreadsAreGuardedLiveThreads: the last thread. -/
theorem test_meets_active : 31 < 32 := by decide

/-- The allocation covers the registers that a register instruction names: the last v register in class 00, an s register in class 10. -/
theorem test_meets_allocation :
    (∀ n ∈ Safety.named (dstOf 0 63) [srcOf 0 63, srcB 0 0, srcOf 0 1], n < (cur base).budget) ∧
    (∀ n ∈ Safety.named (dstOf 1 63) [srcOf 1 63, srcB 1 63, srcOf 1 1], n < (cur base).budget) ∧
    (∀ n ∈ Safety.named (dstOf 2 63) [srcOf 2 63, srcB 2 63, srcOf 2 1], n < (cur base).budget) := by decide

/-- IntegerArithmeticPerElement, IntegerExtremes: each class. -/
theorem test_meets_binary :
    ∀ c < 3, c < 3 ∧ ∀ n ∈ Safety.named (dstOf c 63) [srcOf c 62, srcB c 61], n < (cur base).budget := by decide

/-- BitCountsAndBitFields: both classes of bitcount and every count, both types of bfe, bfi. -/
theorem test_meets_bit_fields :
    (∀ c ∈ [0, 2], (c = 0 ∨ c = 2) ∧ (∀ b < 3, b < 3) ∧ ∀ n ∈ Safety.named (dstOf c 63) [srcOf c 62], n < (cur base).budget) ∧
    (∀ c < 3, ∀ t < 2, c < 3 ∧ t < 2 ∧ ∀ n ∈ Safety.named (dstOf c 63) [srcOf c 62, srcB c 61], n < (cur base).budget) ∧
    (∀ c < 3, c < 3 ∧ ∀ n ∈ Safety.named (dstOf c 63) [srcOf c 62, srcB c 61, srcOf c 60], n < (cur base).budget) := by decide

/-- MovesAndImmediates: each form of mov, mov.i, iadd.i, sel. -/
theorem test_meets_moves :
    (∀ f < 4, f < 4 ∧ ∀ k ∈ Safety.named (if f < 2 then .v 63 else .s 63) [if f = 0 ∨ f = 3 then .v 62 else .s 62], k < (cur base).budget) ∧
    (∀ c ∈ [0, 2], ∀ t < 2, (c = 0 ∨ c = 2) ∧ t < 2 ∧ ∀ k ∈ Safety.named (dstOf c 63) [], k < (cur base).budget) ∧
    (∀ c ∈ [0, 2], (c = 0 ∨ c = 2) ∧ ∀ k ∈ Safety.named (dstOf c 63) [srcOf c 62], k < (cur base).budget) ∧
    (∀ c < 3, c < 3 ∧ ∀ k ∈ Safety.named (dstOf c 63) [srcOf c 62, srcB c 61], k < (cur base).budget) := by decide

/-- The clauses on codes that are illegal-opcode, of these statements and of the compares, the predicates and the cross-lane ones: the first
such code of each field. -/
theorem test_meets_illegal :
    (∀ i ∈ [Instr.imin 7 8 4 5 3 0, .imax 7 8 4 5 3 0, .bitcount 7 8 4 0 1 0, .bitcount 7 8 4 3 0 0, .bfe 7 8 4 5 3 0, .bfe 7 8 4 5 0 2,
       .bfi 7 8 4 5 3 0 6 0, .bfi 7 8 4 5 0 1 6 0, .bfi 7 8 4 5 0 0 6 1, .movI 7 8 1 0 9, .movI 7 8 0 2 9, .iaddI 7 8 4 1 0 9, .sel 7 8 4 5 3,
       .imad 7 8 4 5 3 0 6 0, .imad 7 8 4 5 0 0 6 3, .imad 7 8 4 5 0 2 6 2, .imad 7 9 4 5 0 0 6 2, .imad 7 8 4 5 0 0 7 2,
       .icmp 7 0 1 4 5 3 0, .icmp 7 0 1 4 5 0 2, .icmp 7 6 1 4 5 0 0, .icmpI 7 0 1 4 1 0 9, .fcmp 7 0 1 4 5 3 0, .fcmp 7 0 1 4 5 0 1,
       .fcmpI 7 0 1 4 1 0 9, .fcmpI 7 0 1 4 0 1 9, .agree 7 1 2 3, .lead 7 1 4 0, .matchK 7 8 4 3, .xpick 7 8 4 5 0 3, .xpick 7 8 4 5 3 0,
       .xpick 7 8 4 32 2 0, .xfold 7 8 4 0 0 6], wellFormed i = false) ∧
    bits 0x5C000020 31 25 = 0x2E ∧ 2 ≤ bits 0x5C000020 9 4 := by decide

/-- MultiplyAddVariants: the modular and saturating forms, and the widening form with its pairs. -/
theorem test_meets_imad :
    (2 < 3 ∧ ∀ k ∈ Safety.named (dstOf 2 63) [srcOf 2 62, srcB 2 61, srcOf 2 60], k < (cur base).budget) ∧
    (1 < 2 ∧ 62 % 2 = 0 ∧ 60 % 2 = 0 ∧
      ∀ k ∈ Safety.named (dstOf 0 62) [srcOf 0 59, srcB 0 58, srcOf 0 60] ++ Safety.named (dstOf 0 63) [srcOf 0 61],
        k < (cur base).budget) := by decide

/-- AddCompareSelect: a pair of predicates, and none. -/
theorem test_meets_max2sel :
    (2 < 4 ∧ ∀ k ∈ Safety.named (.v 63) [.v 62, .s 61], k < (cur base).budget) ∧
    (3 < 4 ∧ ∀ k ∈ Safety.named (.v 63) [.v 62, .v 61], k < (cur base).budget) := by decide

/-- SpecialValuesRead: the last special value, and the status with its clear. -/
theorem test_meets_sreg :
    (16 ≤ 16 ∧ (1 = 1 → 2 ≤ 16) ∧ (0 = 0 ∨ 16 = 15) ∧ ∀ k ∈ Safety.named (.s 63) [], k < (cur base).budget) ∧
    (15 ≤ 16 ∧ (0 = 1 → 2 ≤ 15) ∧ (1 = 0 ∨ 15 = 15) ∧ ∀ k ∈ Safety.named (.v 63) [], k < (cur base).budget) := by decide

/-- FloatArithmeticPerElement, UnaryFloatsPerElement: each format, a rounding mode with and without flush. -/
theorem test_meets_float :
    (∀ c < 3, ∀ t < 3, c < 3 ∧ t < 3 ∧ ∀ n ∈ Safety.named (dstOf c 63) [srcOf c 62, srcB c 61, srcOf c 60], n < (cur base).budget) ∧
    (12 < 16 ∧ rmodeOf (12 % 8) = some .rna) ∧ (0 < 16 ∧ rmodeOf (0 % 8) = some .rn) ∧
    (∀ c ∈ [0, 2], (c = 0 ∨ c = 2) ∧ ∀ n ∈ Safety.named (dstOf c 63) [srcOf c 62], n < (cur base).budget) ∧
    (1 < 2 ∧ rmodeOf 4 = some .rna) := by decide

/-- FloatArithmeticPerElement, UnaryFloatsPerElement: an operand of each kind in each format, read through a flush where it is subnormal. -/
theorem test_meets_codes : ∀ f ∈ [fmtF32, fmtBf16, fmtF16],
    fdecode f (nanCode f + 1) = .nan ∧ fdecode f (infCode f) = .inf false ∧ fdecode f (infCode f + signWeight f) = .inf true ∧
    (∃ e, fdecode f (signWeight f) = .fin true 0 e) ∧ (∃ e, fdecode f (flushIn f true 1) = .fin false 0 e) ∧
    (∃ m e, m ≠ 0 ∧ fdecode f (flushIn f false 1) = .fin false m e) ∧
    (∃ m e, m ≠ 0 ∧ fdecode f (signWeight f + 2 ^ f.mbits) = .fin true m e) := by
  intro f hf
  fin_cases hf <;> exact ⟨by decide, by decide, by decide, ⟨_, rfl⟩, ⟨_, rfl⟩, ⟨_, _, by decide, rfl⟩, ⟨_, _, by decide, rfl⟩⟩

/-- FloatArithmeticPerElement: infinite products of both kinds, and 0 · ∞. -/
theorem test_meets_infinite_products :
    Safety.ProductInfinite (.inf true) (.inf false) true ∧ Safety.ProductInfinite (.fin true 1 0) (.inf true) false ∧
    Safety.ProductInvalid (.inf false) (.fin true 0 0) :=
  ⟨⟨true, false, rfl, .inl ⟨rfl, rfl⟩⟩, ⟨true, true, rfl, .inr ⟨1, 0, by decide, .inr ⟨rfl, rfl⟩⟩⟩, ⟨false, true, 0, .inl ⟨rfl, rfl⟩⟩⟩

/-- UnaryFloatsPerElement: a whole number, numbers far out on both sides, a power of two. -/
theorem test_meets_exponents :
    Safety.value (fdecode fmtF32 0x40400000) = ((3 : Int) : Rat) ∧ 1024 ≤ Safety.value (fdecode fmtF32 0x44800000) ∧
    Safety.value (fdecode fmtF32 0xC4800000) ≤ -1024 ∧ Safety.value (fdecode fmtF32 0x3F000000) = 2 ^ (-1 : Int) := by
  norm_num [Safety.value, fdecode, fmtF32, bits, bitAt]

/-- RoundingAndNansFollowTheirRules, ConversionsWriteTheirResults: values that Rounds sends to each of its ends: too large, between two
codes, tiny. -/
theorem test_meets_round_ends :
    Safety.tooLarge fmtE2m1 .rn 7 = true ∧ Safety.tooLarge fmtE2m1 .rz 7 = false ∧ Safety.tiny fmtE2m1 .rn (1 / 4) = true ∧
    Safety.tiny fmtE2m1 .rp 1 = false := by
  have six : fdecode fmtE2m1 (maxCode fmtE2m1) = .fin false 3 1 := by decide
  have four : fdecode fmtE2m1 (maxCode fmtE2m1 - 1) = .fin false 2 1 := by decide
  simp only [Safety.tooLarge, Safety.tiny, Safety.reaches, Safety.largest, six, four, Safety.value]
  norm_num [fmtE2m1, maxCode]

/-- ConversionsWriteTheirResults: the last formats, a list of finite values with the exponent of its largest, and one that is not finite. -/
theorem test_meets_scales :
    (4 < 5 ∧ 5 < 6 ∧ (6 ≤ 8 ∧ 8 < 9) ∧ 2 < 3 ∧ 254 < 255) ∧
    (∀ v ∈ [FVal.fin true 3 0, .fin false 0 5], Safety.Finite v) ∧ ¬ Safety.Finite .nan ∧
    (∃ v ∈ [FVal.fin true 3 0, .fin false 0 5], (2 : Rat) ^ (1 : Int) ≤ |Safety.value v|) ∧
    (∀ v ∈ [FVal.fin true 3 0, .fin false 0 5], |Safety.value v| < (2 : Rat) ^ ((1 : Int) + 1)) ∧ Safety.value (.fin false 0 5) = 0 := by
  refine ⟨by decide, ?_, ?_, ⟨_, List.mem_cons_self .., ?_⟩, ?_, ?_⟩ <;> simp [Safety.value, Safety.Finite] <;> norm_num

/-- RoundingAndNansFollowTheirRules: between two numbers, a code of each format, a NaN of each operation. -/
theorem test_meets_rounding :
    (0 < 1 ∧ (3 : Nat) % 2 ^ 1 ≠ 0) ∧ (0 < 1 ∧ (4 : Nat) % 2 ^ 1 = 0) ∧
    (∀ f ∈ [fmtF32, fmtBf16, fmtF16, fmtE4m3, fmtE5m2, fmtE2m1],
      1 < 2 ^ (1 + f.ebits + f.mbits) ∧ ∃ m < 16, fdecode f 1 = .fin false m (-(f.bias : Int) - f.mbits + 1)) ∧
    fdecode fmtF32 (faddCode fmtF32 0x7FC12345 0).1 = .nan ∧ fdecode fmtF32 (fminmaxCode fmtF32 true 0x7FC12345 0x7FC00001) = .nan := by
  decide +kernel

/-- ConversionsWriteTheirResults: the last code of every field. -/
theorem test_meets_conversions :
    (4 < 5 ∧ rmodeOf 4 = some .rna ∧ ∀ n ∈ Safety.named (.v 63) [.v 62], n < (cur base).budget) ∧ 8 < 9 ∧
    (2 < 3 ∧ ∀ n ∈ Safety.named (dstOf 2 63) [srcOf 2 62, srcB 2 61], n < (cur base).budget) ∧
    (∀ t < 9, 1 < (if t = 8 then 8 else if t = 0 ∨ t = 1 ∨ t = 4 ∨ t = 5 then 2 else 4)) ∧
    7 < (if (8 : Nat) = 8 then 8 else if (8 : Nat) = 0 ∨ (8 : Nat) = 1 ∨ (8 : Nat) = 4 ∨ (8 : Nat) = 5 then 2 else 4) ∧
    (∀ n ∈ Safety.named (.s 63) [.s 62], n < (cur base).budget) ∧ 3 < 4 ∧ 2 < 3 := by decide

/-- ComparesWriteTheirPredicate: every condition in every class, with the largest immediate. -/
theorem test_meets_compares :
    (∀ c < 3, ∀ n ∈ [srcOf c 63, srcB c 62].flatMap srcRegs, n < (cur base).budget) ∧ (2 < 3 ∧ 1 < 2 ∧ 5 < 6 ∧ 7 < 8) ∧
    (0xFFFFFFFF < 2 ^ 32 ∧ 2 ≠ 1) := by decide

/-- PredicatesCombineAgreeAndLead, CrossLaneResults: the last code of every field. -/
theorem test_meets_lanes :
    (3 < 4 ∧ 2 < 3 ∧ ((1 : Nat) = 1 ∨ 1 = 0 ∧ 63 = 0) ∧ ((1 : Nat) = 1 → 63 < (cur base).budget)) ∧
    ((0 = 1 ∨ 0 = 0 ∧ 0 = 0) ∧ (0 = 1 → 0 < (cur base).budget)) ∧
    (∀ n ∈ Safety.named (.v 63) [.v 62], n < (cur base).budget) ∧
    (2 < 3 ∧ 2 < 3 ∧ (2 = 2 → 31 < 32) ∧ ∀ n ∈ Safety.named (.v 63) [.v 62, .s 31], n < (cur base).budget) ∧
    (5 < 6 ∧ ∀ n ∈ Safety.named (.s 63) [.v 62], n < (cur base).budget) := by decide
/-! ### Steps, checks and paths -/

/-- A second workgroup of the launch, on another core, and a held breakpoint. -/
def pair : State := { base with wgs := base.wgs ++ [{ noWg with launch := 1, index := 1, core := 1, phase := .resident }] }

/-- The path at the end of a clause whose yield hint is set, over a stacked path, with a page for its frame. -/
def hinted : State :=
  withFlock (fun f => { f with path0 := some { curPath base with hint := true }, stack := [pathAt 128 3] })
    { base with
      launches := base.launches.map fun l => { l with frames := 0x10000 }
      tlb := [{ dom := 0, va := 0x60000, size := 0x10000, leaf := BitVec.ofNat 128 (pinLeaf false), absent := none, pinned := true }]
      paddocks := [(5, pinReserve)] }

/-- StepRunsTheDecodedInstruction. -/
theorem test_meets_step :
    let s := State.reset.withFetchWord 32 0x01C81050
    let s0 := { s with agenda := [], core := 0, slot := 0 }
    let s1 := turnTaker s0
    let s2 := { s1 with second := lowerSlot (cur s1) }
    0 < 576 ∧ 0 < 64 ∧ s.agenda = [.issue 0 0] ∧ (cur s0).yielded = false ∧ mayIssue s0 0 0 = true ∧
    pathOf (cur s1) (lowerSlot (cur s1)) = some (curPath s) ∧ (curPath s).wait = .none ∧ (curPath s).left ≠ 0 ∧
    (fetchInstr s2).2 = some [0x01C81050] ∧ decodeWords 0x01C81050 0 = .ok (.iadd 7 8 4 5 0 0) ∧
    (after (exec (.iadd 7 8 4 5 0 0) (fetchInstr s2).1)).mgmt.errDue = [] := by decide +kernel

/-- A loaded object that holds the word at 0x10000, of which the device has kept an old value; the core holds a middle one. -/
def patched : State :=
  let s := { paged with
    mem := memPuts [] (Config.bankLoc 13824 0) [7], fresh := 3, codeSeen := [(icacheKey 0 0x10000, [(2, 5)])]
    objects := paged.objects.map fun o => { o with len := 0x20000 } }
  setCore 0 { coreAt s 0 with icache := [(icacheKey 0 0x10000, 6)] } s

/-- A fetch finds what the core holds, or any value kept; after icinv of any flock it reads the word anew, and a value kept before is found
until a fetchb of a path whose flock did the icinv (R280, R281, R353). -/
theorem test_values_of_code :
    let found (s : State) (n : Nat) : Option Nat := (fetchWord 0x10000 (fetchOld 0 0 false 0x10000 n s)).2
    let kept := keepCode 0 0x10000 patched
    let inv := dropWords (fun _ => true) 0 (noteDrop (fun _ => true) kept)
    let fenced := fencePath inv
    (curObj paged).va = 0 ∧ (fetchWord 0x10000 patched).2 = some 6 ∧ found kept 0 = some 5 ∧ found kept 1 = some 7 ∧
    (fetchWord 0x10000 inv).2 = some 7 ∧ found inv 0 = some 5 ∧ found fenced 0 = some 7 ∧
    found (fencePath (dropWords (fun _ => true) 0 kept)) 0 = some 5 := by decide +kernel

/-- The words of an object at an address that is no multiple of 4 are met by a range that touches any byte of theirs (R280). -/
theorem test_word_met : (wordMet 0 [(4, 4)] 2, wordMet 0 [(4, 4)] 6, wordMet 0 [(4, 4)] 8, wordMet 0 [(4, 4)] 0, wordMet 1 [(4, 4)] 6) =
    (true, true, false, false, false) := by decide

/-- FetchedWordsDecodeOrTrap: a word fetched ahead, a word held, a word in a page that is not held, words that decode to no instruction. -/
theorem test_meets_fetch :
    (let s := withFlock (fun f => { f with ahead := [(aheadKey 64 false, 5)] }) base
     s.second = false ∧ smapFind (cur s).ahead (aheadKey 64 s.second) = some 5) ∧
    (smapFind (cur base).ahead (aheadKey 64 base.second) = none ∧ smapFind (cur paged).ahead (aheadKey 0x10000 paged.second) = none) ∧
    (smapFind (coreAt base base.core).icache (icacheKey (curLaunch base).dom ((curObj base).va + 64)) = some 0) ∧
    (let p := pageFor (curAgent paged) .fetch ((curObj paged).va + 0x10000) paged
     smapFind (coreAt paged paged.core).icache (icacheKey (curLaunch paged).dom ((curObj paged).va + 0x10000)) = none ∧
     p.2 = .ok (pinLeaf false) ∧
     elementBad (verifyElement (pinLeaf false) 0x10000 4 p.1) (pinLeaf false) 0x10000 4 = false) ∧
    (let s := State.reset.withFetchWord 32 0x2DC81020
     let s0 := { s with agenda := [], core := 0, slot := 0 }
     let s1 := turnTaker s0
     let s2 := { s1 with second := lowerSlot (cur s1) }
     s.agenda = [.issue 0 0] ∧ mayIssue s0 0 0 = true ∧ pathOf (cur s1) (lowerSlot (cur s1)) = some (curPath s) ∧
     (curPath s).wait = .none ∧ (curPath s).left ≠ 0 ∧ (fetchInstr s2).2 = some [0x2DC81020] ∧
     decodeWords 0x2DC81020 0 = .error (.fixedBits 0x16)) := by decide +kernel

/-- StepTakesTheNextTurn: a device event, time, the turns of the last flock and island, and a due event. -/
theorem test_meets_turns :
    (let s := { State.reset with agenda := [.event .moduleReset, .elapse 5] }
     s.agenda = .event .moduleReset :: [.elapse 5] ∧ fieldsFit .moduleReset = true) ∧
    (∀ u ∈ [Turn.elapse 5, .fetchAhead 575 63 true 4, .fetchOld 575 63 true 4 0, .keepCode 0 64, .dropCode 575 0 64, .dropTranslation 0 0x10000, .heat 63 9000, .cxlRead 0x40 64],
      ({ State.reset with agenda := [u] } : State).agenda = u :: []) ∧ (575 < 576 ∧ 63 < 64) ∧
    (let s := { State.reset with todo := [.packetDispatch] }
     s.agenda = [] ∧ s.todo = .packetDispatch :: [] ∧ heldBack s .packetDispatch = false) := by decide

/-- UnassignedCodesTrap: an unassigned class, and a reserved major. -/
theorem test_meets_unassigned :
    (encode (.iadd 7 8 4 5 3 0) ≠ [] ∧ legalForm (.iadd 7 8 4 5 3 0) = false) ∧
    (encode (.reservedMajor 0xFE000000 0) ≠ [] ∧ legalForm (.reservedMajor 0xFE000000 0) = false) ∧
    0xFE000000 < 2 ^ 32 ∧ isReservedMajor (bits 0xFE000000 31 25) = true := by decide

/-- FirstTrapStopsItsLaunch: a first trap with another workgroup resident; a second trap in a later clock, one of a flock not below the
first in the same clock, and one of a flock below it. -/
theorem test_meets_trap :
    ((findWg pair 1 0).any (fun w => w.trap == none && w.phase == .resident) = true ∧ (cur pair).launch = 1 ∧ (cur pair).wg = 0) ∧
    ((pair.launches.find? fun x => x.num == 1).any (fun x => x.stop == none) = true ∧ pair.mgmt.hold = false ∧
      (wgOf pair 1 1).phase = .resident ∧ (flockAt pair 0 0).launch = 1 ∧ (flockAt pair 0 0).wg = 0 ∧
      (flockAt pair 0 0).index = (trapRec pair 0x30 1 []).flock) ∧
    (let t := after (exec (.trapI 7 3) pair)
     let u := { t with time := t.time + 1 }
     (findWg t 1 0).any (fun w => w.trap.any (fun first => first.flock == 0) && !w.holding && w.stopAt == t.time) = true ∧
     (findWg u 1 0).any (fun w => w.trap.isSome && !w.holding && w.stopAt != u.time) = true ∧ (trapRec t 0x30 1 []).flock = 0) ∧
    (let t := trapAt 1 0 { trapRec pair 0x30 1 [] with flock := 2 } pair
     (findWg t 1 0).any (fun w => w.trap.any (fun first => decide ((trapRec t 0x30 1 []).flock < first.flock)) && !w.holding &&
       w.stopAt == t.time) = true) := by decide +kernel
theorem test_lower_flock_leads :
    let t := takeTrap (trapRec pair 0x30 1 []) (trapAt 1 0 { trapRec pair 0x10 1 [] with flock := 2 } pair)
    trapped t = 0x30 ∧ (wgOf t 1 0).later = 1 := by decide +kernel

/-- CompletedInstructionsMoveAndSwapPaths: a path that stays, for each reason, and one that is swapped out; a yield point with a stacked
path, by a yield and by the count, and one that changes nothing. -/
theorem test_meets_completion :
    (pathOf (cur base) base.second = some (curPath base) ∧ (curPath base).hint = false) ∧
    (pathOf (cur hinted) hinted.second = some (curPath hinted) ∧ 0 < (curPath hinted).left) ∧
    (let s := withFlock (fun f => { f with stack := [] }) hinted
     pathOf (cur s) s.second = some (curPath s) ∧ (cur s).stack = [] ∧ (curPath s).hint = true ∧ (curPath s).left ≤ 1) ∧
    (pathOf (cur hinted) hinted.second = some (curPath hinted) ∧ (curPath hinted).hint = true ∧ (curPath hinted).left ≤ 1 ∧
      (cur hinted).stack = pathAt 128 3 :: []) ∧
    (pathOf (cur hinted) false = some (curPath hinted) ∧ (cur hinted).stack = pathAt 128 3 :: [] ∧ 4096 ≤ 4096 - (cur hinted).swapBase) ∧
    ((cur base).stack = [] ∧ 4095 - (cur hinted).swapBase < 4096) := by decide +kernel

/-- The swapped path goes under the stack, its stack is written to the frame, and the path below runs (R254, R255). -/
theorem test_swap :
    let t := after (exec .fetchb hinted)
    (curPath t).pc = 128 ∧ (cur t).stack.map (·.pc) = [68] ∧ memGet t.mem (Config.bankLoc 13824 0x400) = 68 ∧
    memGet t.mem (Config.bankLoc 13824 0x408) = 0xFF := by decide +kernel
theorem test_yields_turn : (cur (after (exec .fetchb (withFlock (fun f => { f with stack := [] }) hinted)))).yielded = true := by decide +kernel
/-! ### Memory -/

def lanesOf (q : Ask) (s : State) : List Reach :=
  match (checkLanes q s).2 with
  | .ok ls => ls
  | _ => []

/-- Accesses to memory through b0 and to the window through b4. -/
def ldAsk (r : Nat) : Ask :=
  askLanes (.ld 7 8 0 r 0 0 4 0) (active paged 7) r (indexOf paged false 0 0) (dataBytes 4) false true false .read rcdRead true
def ldspAsk : Ask :=
  askLanes (.ldsp 7 8 0 4 0 0 4 0) (active paged 7) 4 (indexOf paged false 0 0) (dataBytes 4) false false true .read rcdRead false
def ldoAsk : Ask :=
  askLanes (.ldo 7 8 0 0 1 4 4 0 0 0 1) (active paged 7) 0 (indexOf paged false 0 (dispOf 1)) (dataBytes 4) false true true .read
    (fun k => rcdRead k && scopeFits 4 k) true
def stAsk : Ask :=
  askLanes (.st 7 0 0 0 0 0 4 0) (active paged 7) 0 (indexOf paged false 0 0) (dataBytes 4) false true false .write rcdWrite false
def stspAsk : Ask :=
  askLanes (.stsp 7 0 0 4 0 0 4 0) (active paged 7) 4 (indexOf paged false 0 0) (dataBytes 4) false false true .write rcdWrite false
def stoAsk : Ask :=
  askLanes (.sto 7 0 0 0 2 5 4 0 0 0 2047) (active paged 0) 0 (indexOf paged false 0 (dispOf 2047)) (dataBytes 4) false true true .write
    (fun k => rcdWrite k && scopeFits 5 k) false
def atomAsk : Ask :=
  askLanes (.atom 7 0 0 0 0 1 0) (active paged 7) 0 (indexOf paged false 0 0) 4 false true false .atomic grantsAtomic false
def atomspAsk : Ask :=
  askLanes (.atomsp 7 0 0 4 0 1 0) (active paged 7) 4 (indexOf paged false 0 0) 4 false false true .atomic grantsAtomic false
def redAsk : Ask :=
  askLanes (.red 7 0 0 0 0 0) (active paged 7) 0 (indexOf paged false 0 0) 4 false true false .atomic grantsReduction false
def feAsk : Ask :=
  { askLanes (.stfe 7 0 0 3 0 1 0) (active paged 7) 3 (indexOf paged false 0 0) 4 false true false .write rcdWrite false with
    fullEmpty := true }
def ldfeAsk : Ask :=
  { askLanes (.ldfe 7 0 0 3 0 1 0) (active paged 7) 3 (indexOf paged false 0 0) 4 false true false .atomic
      (fun k => rcdRead k && rcdAtomic k) false with fullEmpty := true }

def ldbAsk : Ask :=
  { askRange (.ldb 7 9 0 1 0) (active paged 7) 1 4 (getS (cur paged) 0).toNat 8 .read rcdRead with formats := some [0, 4], align := 32 }
def cbAsk : Ask :=
  { askRange (.cbload 7 3 0 2) (active paged 7) 2 16 (getS (cur paged) 0).toNat 2 .read rcdRead with formats := some [0, 6], late := true }

/-- A codebook's run stays in one row of its record: the last that does, and one that goes beyond (R126). -/
theorem test_codebook_run :
    let f (i : Nat) : State := withFlock (fun f => { putS f 2 (BitVec.ofNat 32 i) with
      b := smapPut f.b 2 (record 0x10000 1 32 7 + BitVec.ofNat 256 (2 ^ 128 + 32 * 2 ^ 152)) }) paged
    trapped (after (exec (.cbload 7 3 2 2) (f 17))) = 0x10 ∧ trapped (after (exec (.cbload 7 3 2 2) (f 16))) = 0 := by decide +kernel

/-- A store and a load that follows it: thread 31's word stands at its place, and the completion delivers it. -/
theorem test_store : memGet (after (exec (.st 7 0 0 0 0 0 4 0) paged)).mem (Config.bankLoc 13824 124) = 31 := by decide +kernel
theorem test_load :
    let s := after (exec (.ld 7 8 0 0 0 0 4 0) (after (exec (.st 7 0 0 0 0 0 4 0) paged)))
    getV (cur s) 31 8 = 0 ∧
    getV (cur (after (exec (.longLatencyCompletion 0 0 ((cur s).pending.getLastD noPending).uid) s))) 31 8 = 31 := by decide +kernel
/-- Thirty-two additions to one word (R183, R185), each returning the sum before it. -/
theorem test_atomic_order :
    let s := withFlock (fun f => { f with v := (List.range 32).map (fun t => (64 + t, 1)) }) paged
    let t := after (exec (.atom 7 2 1 0 0 1 0) s)
    memGet t.mem (Config.bankLoc 13824 0) = 32 ∧ ((cur t).pending.flatMap (·.vw)).getLast? = some (95, 31) := by decide +kernel
/-- A load of an empty word waits at it, and a store fills an empty word (R165). -/
theorem test_full_empty :
    let s := withFlock (fun f => { f with p := [(0, 1)] }) paged
    (after (exec (.ldfe 0 8 0 3 0 1 0) s)).feQueue.length = 1 ∧
    (after (exec (.stfe 0 0 0 3 0 0 0) s)).feFull = [(Config.bankLoc 13824 0x10000) / 4] := by decide +kernel
theorem test_window : (winBytes (curWg (after (exec (.stsp 7 0 0 4 0 0 4 0) paged))) 124 4) = [31, 0, 0, 0] := by decide +kernel
theorem test_out_of_bounds : trapped (after (exec (.ld 7 8 0 0 0 0 4 0) (withFlock (fun f => { f with v := [(5, 64)] }) paged))) = 0x10 := by
  decide +kernel

/-- Thread 0 of the placed flock awaits an empty word, and the flock then issues an instruction. -/
def owing : State := after (exec (.ldfe 0 8 0 3 0 1 0) (withFlock (fun f => { f with p := [(0, 1)] }) paged))
def owingLoad : State := after (exec (.ld 7 9 0 0 0 0 4 0) owing)
def owingStore : State := after (exec (.st 7 0 0 0 0 0 4 0) owing)
/-- The completion of an instruction that is held is tried. -/
def tried (s : State) : State := after (exec (.longLatencyCompletion 0 0 (((s.held.map (·.what.uid)).head?).getD 0)) s)

/-- A load after an ldfe of one of its threads that is not served issues and is held whole: its completion does nothing until the word is
full, and then performs it (R55, R181, R187, R215). -/
theorem test_held_load :
    owingLoad.held.length = 1 ∧ (curPath owingLoad).pc = (curPath owing).pc + 4 ∧ tried owingLoad = owingLoad ∧
    (let t := tried { owingLoad with feQueue := [], mem := [(Config.bankLoc 13824 124, 7)] }
     t.held = [] ∧ getV (cur t) 31 9 = 7) := by decide +kernel
/-- A fence behind an ldfe of thread 0 stands before the later accesses of every thread of the path, stores and loads alike (R189). -/
theorem test_fence_path_wide :
    let s := withFlock (fun f => { f with p := [(0, 2)] }) (after (exec (.fence 5 3) owing))
    (s.held.map (·.what.mask)) = [BitVec.allOnes 32] ∧ (after (exec (.st 0 0 0 0 0 0 4 0) s)).held.length = 2 ∧
    (after (exec (.ld 0 9 0 0 0 0 4 0) s)).held.length = 2 := by decide +kernel
/-- A higher thread's request to a word waits at its core for the lower thread's, which an earlier ldfe keeps there (R187). -/
theorem test_request_order :
    let r : FeReq := { uid := 9, loc := Config.bankLoc 13824 0x10080, core := 0, slot := 0, thread := 0, kind := 2, data := 7, va := 0 }
    let s := feSend { r with thread := 1 } (feSend r owing)
    s.feRetry.map (·.thread) = [0, 1] ∧ s.feQueue.length = 1 := by decide +kernel

/-- LongLatencyWorkIsIssuedAndCompleted: a load issued, and outstanding; one that is held, while it waits and when it waits no more. -/
theorem test_meets_long_latency :
    flagFull base 0 = false ∧ (∀ h ∈ base.held, h.core ≠ 0) ∧ (cur base).pending = [] ∧
    (∀ s ∈ [owingLoad, { owingLoad with feQueue := [] }],
      (∀ q ∈ (flockAt s 0 0).pending, ∀ h ∈ s.held, q.uid = h.what.uid → q.fe = none) ∧
      (s.held.map fun h => (h.core, h.slot, h.what.op.act)) = [(0, 0, .load)] ∧
      (s.held.all fun h => ((flockAt s 0 0).pending.find? fun q => q.uid == h.what.uid).any fun p => p.lines == []) = true ∧
      performs s 0 0 = true) ∧
    (∀ h ∈ owingLoad.held, ∃ e ∈ openOps owingLoad 0 0, blocks e h.what = true) ∧
    (∀ h ∈ owingLoad.held, ∀ e ∈ openOps { owingLoad with feQueue := [] } 0 0, blocks e h.what = false) ∧
    performs { owingLoad with wgs := owingLoad.wgs.map fun w => { w with misses := [{ va := 0, kind := 0, level := 0, rcd := trapRec base 0 0 [] }] } } 0 0 = false ∧
    (let s := after (exec (.ld 7 8 0 0 0 0 4 0) paged)
     let p := (cur s).pending.headD noPending
     (flockAt s 0 0).pending.find? (fun q => q.uid == p.uid) = some p ∧ p.lines = [] ∧ p.lane = none ∧ p.pad = none ∧ p.fe = none ∧
     p.vm = []) := by decide +kernel

/-- The clauses on instructions with no active thread, of these statements: each class of instruction under a false guard. -/
theorem test_meets_idle :
    let s := withFlock (fun f => { f with p := [] }) paged
    active s 0 = 0 ∧ Safety.Accepts (.ld 0 8 0 0 0 0 4 0) (dataRegs 4 8 ++ [0]) s ∧
    Safety.Accepts (.sto 0 0 0 0 2 5 4 0 0 0 2047) (dataRegs 4 0 ++ [0]) s ∧ Safety.Accepts (.atomsp 0 0 0 4 0 1 0) [0, 0] s ∧
    Safety.Accepts (.red 0 0 0 0 0 0) [0, 0] s ∧ Safety.Accepts (.ldfe 0 0 0 3 0 1 0) [0, 0] s ∧ Safety.Accepts (.stfe 0 0 0 3 0 1 0) [0, 0] s ∧
    Safety.Accepts (.ldb 0 9 0 1 0) [] s ∧ Safety.Accepts (.cbload 0 3 0 2) [] s ∧ Safety.Accepts (.cache 0 1 0 0 0 3) [] s ∧
    Safety.Accepts (.prefetch 0 1 0 0 0 1) [] s ∧ Safety.Accepts (.mma 0 0 8 5 0 1 0 0 0) (aRegs 0 8 0) s ∧
    Safety.Accepts (.mmaSp 0 0 8 5 0 0 1 24 0 0) (aRegs 0 8 24 ++ (List.range 8).map (24 + ·)) s ∧ Safety.Accepts (.cp 0 3 0 0 0 4) [] s ∧
    Safety.Accepts (.cpColl 0 3 0 0 0 4) [] s ∧ Safety.Accepts (.mcast 0 3 0 0 0 4) [] s ∧ Safety.Accepts (.gather 0 3 0 7 0 0 6) [0] s ∧
    Safety.Accepts (.cpx 0 3 0 0 1 4 0 0 5 0 1 0 0) [] s ∧ Safety.Accepts (.coll 0 3 0 4 0 7) [] s := by
  unfold Safety.Accepts
  decide +kernel

/-- The clauses on accesses that are held, of these statements: each access behind an ldfe that is not served. -/
theorem test_meets_held :
    (∀ x ∈ [(ldAsk 0, loadAct false), (stAsk, storeAct false), (atomAsk, atomicAct false false), (redAsk, redAct false), (feAsk, stfeAct),
        (ldbAsk, loadAct false)],
      (checkLanes x.1 owing).2 = .ok (lanesOf x.1 owing) ∧ (checkLanes x.1 owing).1 = owing ∧ owing.performing = false ∧
      keptBehind owing (askOp x.1 x.2 (lanesOf x.1 owing) owing) = true) ∧
    (∀ x ∈ [(Instr.ld 7 8 0 0 0 0 4 0, dataRegs 4 8 ++ [0]), (.st 7 0 0 0 0 0 4 0, dataRegs 4 0 ++ [0]), (.atom 7 0 0 0 0 1 0, [0, 0]),
        (.red 7 0 0 0 0 0, [0, 0]), (.stfe 7 0 0 3 0 1 0, [0, 0]), (.ldb 7 9 0 1 0, [])],
      legalForm x.1 = true ∧ (∀ n ∈ x.2, n < (cur owing).budget) ∧ active owing 7 ≠ 0 ∧ flagFull owing 0 = false) ∧
    ((checkLanes cbAsk owing).2 = .ok (lanesOf cbAsk owing) ∧
      keptBehind (checkLanes cbAsk owing).1 (askOp cbAsk (loadAct false) (lanesOf cbAsk owing) (checkLanes cbAsk owing).1) = true) ∧
    keptBehind owingStore (flockOp owingStore maintainAct (active owingStore 7)) = true := by decide +kernel

/-- LoadsAndStoresComplete: a load and a store in memory and in the window, an acquiring load, and a releasing store whose lanes reach no
element. -/
theorem test_meets_loads :
    (4 < 6 ∧ Safety.Passes (.ld 7 8 0 0 0 0 4 0) (ldAsk 0).m 0 (dataRegs 4 8 ++ [0]) paged ∧
      (checkLanes (ldAsk 0) paged).2 = .ok (lanesOf (ldAsk 0) paged) ∧ (lanesOf (ldAsk 0) paged).length = 32 ∧
      Safety.InOrder (ldAsk 0) (loadAct false) (lanesOf (ldAsk 0) paged) (checkLanes (ldAsk 0) paged).1 ∧
      rcdScratch (getB (cur (checkLanes (ldAsk 0) paged).1) (ldAsk 0).reg).toNat = false ∧
      Safety.Ordered (checkLanes (ldAsk 0) paged).1 0 true false false (lanesOf (ldAsk 0) paged) ∧
      poisonTrap (ldAsk 0) (verifyLanes (ldAsk 0) (lanesOf (ldAsk 0) paged) (checkLanes (ldAsk 0) paged).1) (lanesOf (ldAsk 0) paged) = none) ∧
    (Safety.Passes (.ldsp 7 8 0 4 0 0 4 0) ldspAsk.m 0 (dataRegs 4 8 ++ [0]) paged ∧
      (checkLanes ldspAsk paged).2 = .ok (lanesOf ldspAsk paged) ∧
      Safety.InOrder ldspAsk (loadAct false) (lanesOf ldspAsk paged) (checkLanes ldspAsk paged).1 ∧ (lanesOf ldspAsk paged).length = 32 ∧
      rcdScratch (getB (cur (checkLanes ldspAsk paged).1) ldspAsk.reg).toNat = true) ∧
    (Safety.Passes (.ldo 7 8 0 0 1 4 4 0 0 0 1) ldoAsk.m 0 (dataRegs 4 8 ++ [0]) paged ∧
      (checkLanes ldoAsk paged).2 = .ok (lanesOf ldoAsk paged) ∧
      Safety.InOrder ldoAsk (loadAct true) (lanesOf ldoAsk paged) (checkLanes ldoAsk paged).1 ∧ (lanesOf ldoAsk paged).length = 32 ∧
      rcdScratch (getB (cur (checkLanes ldoAsk paged).1) ldoAsk.reg).toNat = false ∧
      Safety.Ordered (checkLanes ldoAsk paged).1 4 true false false (lanesOf ldoAsk paged) ∧
      poisonTrap ldoAsk (verifyLanes ldoAsk (lanesOf ldoAsk paged) (checkLanes ldoAsk paged).1) (lanesOf ldoAsk paged) = none) := by
  unfold Safety.Passes Safety.Accepts Safety.InOrder Safety.Ordered Safety.orderUnits
  decide +kernel

theorem test_meets_stores :
    (Safety.Passes (.st 7 0 0 0 0 0 4 0) stAsk.m 0 (dataRegs 4 0 ++ [0]) paged ∧
      (checkLanes stAsk paged).2 = .ok (lanesOf stAsk paged) ∧
      Safety.InOrder stAsk (storeAct false) (lanesOf stAsk paged) (checkLanes stAsk paged).1 ∧ (lanesOf stAsk paged).length = 32 ∧
      rcdScratch (getB (cur (checkLanes stAsk paged).1) stAsk.reg).toNat = false ∧
      Safety.Ordered (checkLanes stAsk paged).1 0 false true true (lanesOf stAsk paged) ∧
      combineBad (checkLanes stAsk paged).1 (fun _ => true) (lanesOf stAsk paged) = none) ∧
    (Safety.Passes (.stsp 7 0 0 4 0 0 4 0) stspAsk.m 0 (dataRegs 4 0 ++ [0]) paged ∧
      (checkLanes stspAsk paged).2 = .ok (lanesOf stspAsk paged) ∧
      Safety.InOrder stspAsk (storeAct false) (lanesOf stspAsk paged) (checkLanes stspAsk paged).1 ∧ (lanesOf stspAsk paged).length = 32 ∧
      rcdScratch (getB (cur (checkLanes stspAsk paged).1) stspAsk.reg).toNat = true) ∧
    (let s := withFlock (fun f => { f with v := [(4, 9)], p := [(0, 16)] }) paged
     let q := askLanes (.sto 0 0 0 0 2 5 4 0 0 0 2047) (active s 0) 0 (indexOf s false 0 (dispOf 2047)) (dataBytes 4) false true true .write
       (fun k => rcdWrite k && scopeFits 5 k) false
     Safety.Passes (.sto 0 0 0 0 2 5 4 0 0 0 2047) q.m 0 (dataRegs 4 0 ++ [0]) s ∧ (checkLanes q s).2 = .ok (lanesOf q s) ∧
     (lanesOf q s).map (·.idx) = [8] ∧ Safety.InOrder q (storeAct true) (lanesOf q s) (checkLanes q s).1 ∧ rcdScratch (getB (cur (checkLanes q s).1) q.reg).toNat = false ∧
     Safety.Ordered (checkLanes q s).1 5 false true true (lanesOf q s) ∧ combineBad (checkLanes q s).1 (fun _ => true) (lanesOf q s) = none) := by
  unfold Safety.Passes Safety.Accepts Safety.InOrder Safety.Ordered Safety.orderUnits
  decide +kernel

/-- StoresChangeTheirBytesAlone: two elements side by side on a page that is pinned, and a byte outside both. -/
theorem test_meets_store_bytes :
    ((lanesOf stAsk paged).take 2).map (fun l => (l.dropped, leafHome l.leaf, leafLoc l.leaf l.va)) =
      [(false, 1, Config.bankLoc 13824 0), (false, 1, Config.bankLoc 13824 4)] ∧
    Config.bankLoc 13824 4 + 4 ≤ Config.bankLoc 13824 8 := by decide +kernel

/-- A dirty line of paddock 0, and the leaf of a page at its frame. -/
def heldLine : Line :=
  { pad := 0, base := 0x50000, data := List.replicate 128 7, dirty := false, key := none, checks := [], st := .unshared, copies := [], sharers := 0, wts := 0,
    rts := 0, partials := [] }
def lined : State := { paged with lines := [heldLine] }
def padLeaf : Nat := 0x1003F + 5 * 2 ^ 48

/-- Paddock 6 in combine mode, with a line that holds a partial of core 0. -/
def combining : State :=
  { paged with
    paddocks := [(6, { pinReserve with rcd := BitVec.ofNat 512 (6 + 2 ^ 27 + 2 * 2 ^ 21) })]
    lines := [{ heldLine with pad := 6, partials := [(0, [(4, 5)])] }] }

theorem test_combine_load :
    (loadBytes none (padLeaf + 6 * 2 ^ 17) 4 4 combining).2 = leBytes 4 (0x07070707 + 5) ∧
    leNat (((foldPartial 0 false (List.replicate 8 7) [(4, 5)]).drop 4).take 4) = 0x07070707 + 5 := by decide +kernel

/-- LoadsAndStoresReachTheirHome: a held line, whole and at its last byte, a page outside paddocks, and a line with a partial. -/
theorem test_meets_home :
    (leafHome padLeaf = 2 ∧ padMode lined (leafPad padLeaf) ≠ 2 ∧ findLine lined 0 0x50000 = some heldLine) ∧
    leafHome (pinLeaf false) ≠ 2 ∧
    (leafHome (padLeaf + 6 * 2 ^ 17) = 2 ∧ leafPad (padLeaf + 6 * 2 ^ 17) = 6 ∧ padMode combining 6 = 2 ∧
      (findLine combining 6 (lineBase combining 6 (leafLoc (padLeaf + 6 * 2 ^ 17) 4))).any (fun l => l.partials != []) = true ∧ 4 * 1 + 4 ≤ 8) ∧
    (leafPad padLeaf = 0 ∧ lineBase lined 0 (leafLoc padLeaf 127) = 0x50000 ∧
      leafLoc padLeaf 127 - 0x50000 + [(1 : Byte)].length ≤ heldLine.data.length ∧ padPolicy lined 0 = 0) := by decide +kernel

/-- AtomicsFollowTheirTableAndComplete: the widths, and an atomic in memory and in the window, and a reduction. -/
theorem test_meets_atomics :
    ((32 = 32 ∧ 14 < 15) ∧ (64 = 64 ∧ 11 < 12)) ∧
    (Safety.Passes (.atom 7 0 0 0 0 1 0) atomAsk.m 0 [0, 0] paged ∧ (checkLanes atomAsk paged).2 = .ok (lanesOf atomAsk paged) ∧
      Safety.InOrder atomAsk (atomicAct false false) (lanesOf atomAsk paged) (checkLanes atomAsk paged).1 ∧
      (lanesOf atomAsk paged).length = 32 ∧ rcdScratch (getB (cur (checkLanes atomAsk paged).1) atomAsk.reg).toNat = false ∧
      Safety.Ordered (checkLanes atomAsk paged).1 4 true true true (lanesOf atomAsk paged) ∧
      combineBad (checkLanes atomAsk paged).1 (fun _ => true) (lanesOf atomAsk paged) = none ∧
      poisonTrap atomAsk (verifyLanes atomAsk (lanesOf atomAsk paged) (checkLanes atomAsk paged).1) (lanesOf atomAsk paged) = none) ∧
    (Safety.Passes (.atomsp 7 0 0 4 0 1 0) atomspAsk.m 0 [0, 0] paged ∧ (checkLanes atomspAsk paged).2 = .ok (lanesOf atomspAsk paged) ∧
      Safety.InOrder atomspAsk (atomicAct false false) (lanesOf atomspAsk paged) (checkLanes atomspAsk paged).1 ∧
      (lanesOf atomspAsk paged).length = 32 ∧ rcdScratch (getB (cur (checkLanes atomspAsk paged).1) atomspAsk.reg).toNat = true) ∧
    (Safety.Passes (.red 7 0 0 0 0 0) redAsk.m 0 [0, 0] paged ∧ (checkLanes redAsk paged).2 = .ok (lanesOf redAsk paged) ∧
      (lanesOf redAsk paged).length = 32 ∧ Safety.InOrder redAsk (redAct false) (lanesOf redAsk paged) (checkLanes redAsk paged).1 ∧
      Safety.Ordered (checkLanes redAsk paged).1 4 false true true (lanesOf redAsk paged) ∧
      combineBad (checkLanes redAsk paged).1 (fun pad => !combineAccepts (checkLanes redAsk paged).1 0 4 pad) (lanesOf redAsk paged) = none ∧
      poisonTrap redAsk (verifyLanes redAsk (lanesOf redAsk paged) (checkLanes redAsk paged).1) (lanesOf redAsk paged) = none) := by
  unfold Safety.Passes Safety.Accepts Safety.InOrder Safety.Ordered Safety.orderUnits
  decide +kernel

/-- FullEmptyRequestsAndInstructionsComplete: each kind of request on a full and on an empty word, a taking load, a strict store. -/
theorem test_meets_full_empty :
    (let s := { paged with feFull := [100] }
     s.feFull.contains (400 / 4) = true ∧ s.feFull.contains (404 / 4) = false ∧
     (∀ r ∈ [({ uid := 0, loc := 400, core := 0, slot := 0, thread := 0, kind := 2, data := 0, va := 0 } : FeReq)],
       feBad r s = false ∧ feBad { r with kind := 1 } s = false ∧ feBad { r with loc := 404 } s = false ∧
       feBad r { s with poison := (poisonSector 1 0 0 s 12).poison } = true) ∧
     feTry { uid := 0, loc := 400, core := 0, slot := 0, thread := 0, kind := 2, data := 0, va := 0 } s = none ∧
     feTry { uid := 0, loc := 404, core := 0, slot := 0, thread := 0, kind := 0, data := 0, va := 0 } s = none ∧ s.feQueue = []) ∧
    (let s := withFlock (fun f => { f with pending := List.replicate 4 { noPending with fe := some noFe } }) paged
     4 ≤ (cur s).pending.countP (·.fe.isSome) ∧ Safety.Passes (.ldfe 7 0 0 3 0 1 0) (active s 7) 0 [0, 0] s ∧
     Safety.Passes (.stfe 7 0 0 3 0 1 0) (active s 7) 0 [0, 0] s) ∧
    (1 < 2 ∧ (cur paged).pending.countP (·.fe.isSome) < 4 ∧ Safety.Passes (.ldfe 7 0 0 3 0 1 0) ldfeAsk.m 0 [0, 0] paged ∧
      (checkLanes ldfeAsk paged).2 = .ok (lanesOf ldfeAsk paged) ∧ (lanesOf ldfeAsk paged).length = 32 ∧
      Safety.Ordered (checkLanes ldfeAsk paged).1 4 true false true (lanesOf ldfeAsk paged) ∧
      poisonTrap ldfeAsk (verifyLanes ldfeAsk (lanesOf ldfeAsk paged) (checkLanes ldfeAsk paged).1) (lanesOf ldfeAsk paged) = none) ∧
    (Safety.Passes (.stfe 7 0 0 3 0 1 0) feAsk.m 0 [0, 0] paged ∧ (checkLanes feAsk paged).2 = .ok (lanesOf feAsk paged) ∧
      (lanesOf feAsk paged).length = 32 ∧ Safety.Ordered (checkLanes feAsk paged).1 4 false true true (lanesOf feAsk paged) ∧
      poisonTrap feAsk (verifyLanes feAsk (lanesOf feAsk paged) (checkLanes feAsk paged).1) (lanesOf feAsk paged) = none ∧
      Safety.InOrder feAsk stfeAct (lanesOf feAsk paged) (checkLanes feAsk paged).1 ∧
      strictBad (verifyLanes feAsk (lanesOf feAsk paged) (checkLanes feAsk paged).1) (lanesOf feAsk paged) = none) ∧
    (let r : FeReq := { uid := 5, loc := Config.bankLoc 13824 0x10000, core := 0, slot := 0, thread := 0, kind := 0, data := 0, va := 0 }
     (∃ x ∈ ({ paged with feQueue := [{ r with uid := 4 }] } : State).feQueue, x.core = r.core ∧ x.slot = r.slot ∧ x.thread = r.thread ∧
       x.uid < r.uid) ∧ openOps paged 0 0 = [] ∧ paged.feRetry = [] ∧
     (∃ x ∈ ({ paged with feRetry := [r] } : State).feRetry, x.uid = r.uid ∧ x.loc = r.loc ∧ x.thread < 1) ∧
     1024 ≤ ((List.replicate 1024 r).countP fun x => homeSlice x.loc == homeSlice r.loc)) := by
  unfold Safety.Passes Safety.Accepts Safety.InOrder Safety.Ordered Safety.orderUnits
  decide +kernel

def cacheAsk : Ask := askMaintain (.cache 7 1 0 0 0 3) (active paged 7) paged 1 0 0

/-- RecordLoadsFencesAndMaintenanceComplete: ldb, cbload, the last fence, cache, prefetch, tick. -/
theorem test_meets_records :
    (Safety.Passes (.ldb 7 9 0 1 0) (active paged 7) 0 [] paged ∧ (checkLanes ldbAsk paged).2 = .ok (lanesOf ldbAsk paged) ∧
      (lanesOf ldbAsk paged).length = 4 ∧
      Safety.InOrder ldbAsk (loadAct false) (lanesOf ldbAsk paged) (checkLanes ldbAsk paged).1 ∧
      poisonTrap ldbAsk (verifyLanes ldbAsk (lanesOf ldbAsk paged) (checkLanes ldbAsk paged).1) (lanesOf ldbAsk paged) = none) ∧
    (Safety.Accepts (.cbload 7 3 0 2) [] paged ∧ active paged 7 ≠ 0 ∧ (checkLanes cbAsk paged).2 = .ok (lanesOf cbAsk paged) ∧
      (lanesOf cbAsk paged).length = 16 ∧
      keptBehind (checkLanes cbAsk paged).1 (askOp cbAsk (loadAct false) (lanesOf cbAsk paged) (checkLanes cbAsk paged).1) = false ∧
      poisonTrap cbAsk (verifyLanes cbAsk (lanesOf cbAsk paged) (checkLanes cbAsk paged).1) (lanesOf cbAsk paged) = none) ∧
    (1 ≤ 5 ∧ 5 < 6 ∧ 1 ≤ 3 ∧ 3 < 4 ∧ keptBehind paged (fenceOp paged 3 (liveMask (cur paged) (curPath paged))) = false) ∧
    keptBehind owing (fenceOp owing 3 (liveMask (cur owing) (curPath owing))) = true ∧
    ((checkLanes cacheAsk paged).1 = paged ∧ keptBehind paged (flockOp paged maintainAct (active paged 7)) = false ∧
      (checkLanes cacheAsk owingStore).2 = .ok (lanesOf cacheAsk owingStore) ∧ (checkLanes cacheAsk owingStore).1 = owingStore ∧
      owingStore.performing = false) ∧
    (active paged 7 ≠ 0 ∧ flagFull paged 0 = false ∧ (checkLanes cacheAsk paged).2 = .ok (lanesOf cacheAsk paged)) ∧
    (1 < 2 ∧ active paged 7 ≠ 0 ∧ active (withFlock (fun f => { f with p := [] }) paged) 0 = 0) := by
  unfold Safety.Passes Safety.Accepts Safety.InOrder
  decide +kernel
/-! ### Frames, tiles, products and copies -/

/-- Records for bytes and rows beside those of `withPages`: b5 the window's bytes, b6 32 rows of one word in the window, b7 64 rows of one
word in memory. -/
def stocked : State :=
  withFlock (fun f => { f with b := f.b ++ [(5, record 0 0 4096 15),
    (6, record 0 2 1 15 + BitVec.ofNat 256 (31 * 2 ^ 128 + 2 ^ 152)), (7, record 0x10000 2 1 7 + BitVec.ofNat 256 (63 * 2 ^ 128 + 2 ^ 152))] })
    paged

/-- RegisterInstructionsKeepTheRest, RegistersBeyondTheAllocationTrap: an instruction of each layout; the first and the last register at the
allocation. -/
theorem test_meets_frames :
    (Safety.registersNamed (.ffma 7 8 4 5 0 0 6 0) = some [8, 4, 5, 6] ∧ (curPath base).hint = false) ∧
    (Safety.registersNamed (.imad 7 8 4 5 0 0 6 2) = some [8, 9, 4, 5, 6, 7] ∧ (cur base).stack = []) ∧
    (Safety.registersNamed (.iadd 7 64 4 5 0 0) = some ([] ++ 64 :: [4, 5]) ∧ legalForm (.iadd 7 64 4 5 0 0) = true ∧ (cur base).budget ≤ 64) ∧
    (Safety.registersNamed (.iadd 7 8 63 64 0 0) = some ([8, 63] ++ 64 :: []) ∧ (∀ k ∈ [8, 63], k < (cur base).budget)) := by decide

/-- A tile that another flock holds, and one whose release is awaited. -/
def otherTile : State := setTile 0 2 { noTile with ctl := tileCtl false false false 0 5 true } base
def leavingTile : State := setTile 0 1 { noTile with ctl := tileCtl false false false 0 5 true, last := some 1, releasing := true } base

theorem test_tile_taken : holds (tileAt (after (exec (.accTake 7 2) base)) 0 2) 0 = true ∧
    (curPath (after (exec (.accTake 7 2) otherTile))).wait = .tile := by decide

/-- Thread 0 of the placed flock awaits an empty word; and it then issues a product whose B stands in its window, which is held. -/
def owingB : State := after (exec (.ldfe 0 8 0 3 0 1 0) (withFlock (fun f => { f with p := [(0, 1)] }) stocked))
def owingMma : State := after (exec (.mma 7 0 8 5 0 1 0 0 0) owingB)

/-- A product behind an ldfe that is not served issues, with its tile, and is held; B is what its window holds when it is performed, for
later stores to the bytes of B wait for it, and so does acc.zero (R141, R143, R187, R216). -/
theorem test_held_mma :
    owingMma.held.length = 1 ∧ (curPath owingMma).pc = (curPath owingB).pc + 8 ∧ holds (tileAt owingMma 0 0) 0 = true ∧
    (let s := after (exec (.stsp 7 0 0 4 0 0 4 0) owingMma)
     s.held.length = 2 ∧ (curPath (after (exec (.accZero 7 0) s))).wait = .issue ∧
     (s.held.map fun h => waits (openOps { s with feQueue := [] } 0 0) h.what) = [false, true]) := by decide +kernel

/-- A product that another flock of the core issues after a held one is held behind it, and mma.dec of that flock, which its own earlier
operations do not keep, completes after it (R142). -/
def secondMma (i : Instr) : State := after (exec i { setFlock 0 1 { cur stocked with p := [], index := 1 } owingMma with slot := 1 })
theorem test_unit_order :
    (let s := secondMma (.mma 7 1 8 5 0 1 0 0 0)
     s.held.map (·.slot) = [0, 1] ∧ s.held.map (heldReady { s with feQueue := [] }) = [true, false] ∧
     (let t := after (exec (.longLatencyCompletion 0 0 ((s.held.map (·.what.uid)).headD 0)) { s with feQueue := [] })
      t.held.map (·.slot) = [1] ∧ t.held.all (heldReady t) = true)) ∧
    (let s := secondMma (.mmaDec 7 1 8 5 0 0 1 4 1 0 0)
     (flockAt s 0 1).pending.map (fun p => (p.product, unitBusy s 0 p.uid)) = [(true, true)] ∧
     (flockAt (after (exec (.longLatencyCompletion 0 1 (((flockAt s 0 1).pending.map (·.uid)).headD 0)) s)) 0 1).pending ≠ []) := by
  decide +kernel

/-- LongLatencyWorkIsIssuedAndCompleted: a product held behind another flock's, and one that has been made before it completes. -/
theorem test_meets_unit :
    ((secondMma (.mma 7 1 8 5 0 1 0 0 0)).held.map (·.what.op.act) = [.mma, .mma] ∧
      (secondMma (.mma 7 1 8 5 0 1 0 0 0)).held.map (fun h => unitBusy (secondMma (.mma 7 1 8 5 0 1 0 0 0)) 0 h.what.uid) = [false, true]) ∧
    (let s := secondMma (.mmaDec 7 1 8 5 0 0 1 4 1 0 0)
     ((flockAt s 0 1).pending.all fun p => p.product && unitBusy s 0 p.uid && p.lines == [] && p.lane.isNone && p.pad.isNone && p.fe.isNone) = true ∧
     s.held.map (·.slot) = [0]) := by decide +kernel

/-- TilesChangeHands: a tile that can be taken, with the largest region of the field; one that cannot; one that is released. -/
theorem test_meets_tiles :
    (active base 7 ≠ 0 ∧ Safety.CanTake 2 base ∧ (getS (cur base) 0).toNat < 32 ∧ (getS (cur base) 0).toNat % 4 ≠ 3 ∧
      regionFits (curLaunch base) base.core (getS (cur base) 0).toNat = true ∧
      keptBehind (Safety.took 2 base) (tileUse (Safety.took 2 base) (active base 7) 2) = false) ∧
    (Safety.CanTake 0 owingMma ∧ (getS (cur owingMma) 0).toNat = 0 ∧ regionFits (curLaunch owingMma) owingMma.core 0 = true ∧
      keptBehind (Safety.took 0 owingMma) (tileUse (Safety.took 0 owingMma) (active owingMma 7) 0) = true) ∧
    (¬Safety.CanTake 2 otherTile ∧ otherTile.performing = false) ∧
    ((tileAt leavingTile 0 1).releasing = true ∧ (flockAt leavingTile 0 (tileHolder (tileAt leavingTile 0 1))).pending = []) := by
  unfold Safety.CanTake
  decide +kernel

/-- AccumulationIsExactUnlessSticky: 1.5 added to an element of an empty segment is 3 · 2^-1. -/
theorem test_meets_accumulation :
    let r := (accAdd false segZero 3 (.fin false 3 (-1))).1
    segZero.norm = false ∧ 3 < segZero.els.length ∧ (segZero.els.getD 3 elemZero).special = 0 ∧ (r.els.getD 3 elemZero).sticky = false ∧
    (r.els.getD 4 elemZero).sticky = false := by decide +kernel

/-- MatrixProductsComplete: B in the window, for mma and for mma.sp; B in a handle that is filling. -/
theorem test_meets_products :
    (keptBehind (Safety.took 0 stocked) (matrixUse (Safety.took 0 stocked) (active stocked 7) 0 0 1 5 (depthOf 0)) = false ∧
      keptBehind (Safety.took 0 stocked) (matrixUse (Safety.took 0 stocked) (active stocked 7) 0 0 1 5 (depthOf 0 * 4 / 2)) = false) ∧
    (∀ s ∈ [owingB, owingMma], ∀ n ∈ [depthOf 0, depthOf 0 * 4 / 2],
      Safety.CanTake 0 s ∧ s.performing = false ∧ flagFull s 0 = false ∧ active s 7 ≠ 0 ∧ (cur s).budget = 64 ∧
      keptBehind (Safety.took 0 s) (matrixUse (Safety.took 0 s) (active s 7) 0 0 1 5 n) = true ∧
      (match readB s (active s 7) 0 1 5 n with | .ok .. => true | _ => false) = true) ∧
    (let s := setHandle 0 5 { emptyHandle with st := .filling } stocked
     Safety.Passes (.mma 7 0 8 5 0 0 0 0 0) (active s 7) 0 (aRegs 0 8 0) s ∧
     (handleAt s s.core 5).st = .filling ∧ Safety.CanTake 0 s ∧
     Safety.Passes (.mmaSp 7 0 8 5 0 0 0 24 0 0) (active s 7) 0 (aRegs 0 8 24 ++ (List.range 8).map (24 + ·)) s) ∧
    (Safety.Passes (.mma 7 0 8 5 0 1 0 0 0) (active stocked 7) 0 (aRegs 0 8 0) stocked ∧
      (match readB stocked (active stocked 7) 0 1 5 (depthOf 0) with | .ok .. => true | _ => false) = true ∧ Safety.CanTake 0 stocked) ∧
    (Safety.Passes (.mmaSp 7 0 8 5 0 0 1 24 0 0) (active stocked 7) 0 (aRegs 0 8 24 ++ (List.range 8).map (24 + ·)) stocked ∧
      (match readB stocked (active stocked 7) 0 1 5 (depthOf 0 * 4 / 2) with | .ok .. => true | _ => false) = true) := by
  unfold Safety.Passes Safety.Accepts Safety.CanTake
  decide +kernel

/-- B with one stored entry, 1.0 in row 0 of column 0. -/
def sparse : State := updWg 1 0 (fun w => { w with window := [(0, 1), (128, 0x80), (129, 0x3F)] }) stocked

/-- TermDecompositionCompletesOrTraps: an entry that a term takes, and, with no term allowed and nothing lost allowed, one that is dropped
beyond the bound. -/
theorem test_meets_decomposition :
    Safety.Passes (.mmaDec 7 0 8 5 0 0 1 4 1 0 0) (active sparse 7) 0 (aRegs 0 8 0) sparse ∧
      waits (openOps sparse 0 0) { flockOp sparse mmaAct (active sparse 7) with tile := some 0 } = false ∧
    (Safety.Passes (.mmaDec 7 0 8 5 0 0 1 4 1 0 0) (active owingB 7) 0 (aRegs 0 8 0) owingB ∧
      waits (openOps owingB 0 0) { flockOp owingB mmaAct (active owingB 7) with tile := some 0 } = true) ∧
    (match readRaw sparse (active sparse 7) 1 5 8 16 with | .ok x => x.2 == [(0, 0)] | _ => false) = true ∧
    (let all : List DecEntry := [{ k := 0, n := 0, code := 0x3F80 }]
     storedEntries (fun _ => 0x3F80) [(0, 0)] = all ∧ (decompose fmtBf16 2 4 8 4 true all).2.2 = [] ∧
     (decompose fmtBf16 2 4 8 0 true all).2.2 = all ∧ boundHolds fmtBf16 0 all all = false) ∧ Safety.CanTake 0 sparse := by
  unfold Safety.Passes Safety.Accepts Safety.CanTake
  decide +kernel

/-- Tile 0 of core 24 as the normaliser of a region of two K-rows, and the partial of core 0 that it merges. -/
def reducing : State :=
  let s := { base with core := 24, launches := base.launches.map fun l => { l with fh := 2 } }
  let s := setCore 24 (coreAt base 0) s
  setTile 0 0 { noTile with ctl := tileCtl true false false 1 0 false, last := some 1 }
    (setTile 24 0 { noTile with ctl := tileCtl false false false 1 0 true, last := some 1 } s)

/-- AccumulatorReadsAndCompressComplete: a read without a merge and one that merges, groups of four and of eight, and compress. -/
theorem test_meets_reads :
    (Safety.Passes (.accRd 7 16 0 0 31) (active base 7) 0 ((List.range 16).map (16 + ·)) base ∧ Safety.CanTake 0 base ∧
      tileRegion (tileAt (Safety.took 0 base) 0 0) = 0 ∧
      keptBehind (Safety.took 0 base) (tileUse (Safety.took 0 base) (active base 7) 0) = false) ∧
    (Safety.Passes (.accRd 7 16 0 0 31) (active owingMma 7) 0 ((List.range 16).map (16 + ·)) owingMma ∧ Safety.CanTake 0 owingMma ∧
      owingMma.performing = false ∧ keptBehind (Safety.took 0 owingMma) (tileUse (Safety.took 0 owingMma) (active owingMma 7) 0) = true) ∧
    (Safety.Passes (.accRd 7 16 0 0 31) (active reducing 7) 0 ((List.range 16).map (16 + ·)) reducing ∧ Safety.CanTake 0 reducing ∧
      (let u := Safety.took 0 reducing
       let x := tileAt u reducing.core 0
       tileRegion x ≠ 0 ∧ isNormaliser (curLaunch u) reducing.core (tileRegion x) = true ∧ tileMerged x = false ∧
       partialCores (curLaunch u) reducing.core (tileRegion x) = [0] ∧ qualifies u (curLaunch u) (tileRegion x) 0 0 = true)) ∧
    (2 ≤ 4 ∧ 1 < 2) ∧
    Safety.Passes (.compress 7 24 8 10 0 0 0 0) (active base 7) 0
      ((List.range 4).map (24 + ·) ++ (List.range 8).map (8 + ·) ++ (List.range 1).map (40 + ·)) base := by
  unfold Safety.Passes Safety.Accepts Safety.CanTake
  decide +kernel

/-- The buffers of a reduction across cores follow one another in its handle (R141, R203). An index at the outer extent is out of bounds
though rows have no elements, unless .clamp drops the row (R201). -/
theorem test_copy_places :
    destRecord (record 0 2 2 15) [record 0x100 2 3 15] 7 = ((record 0 2 2 15).toNat, 7) ∧
    destRecord (record 0 2 2 15) [record 0x100 2 3 15] 9 = ((record 0x100 2 3 15).toNat, 1) ∧
    (let r := (record 0x10000 2 0 7).toNat
     let p := (record 0 2 0 15).toNat
     boundsRow p false false (rowPairing r p false [0, 1]) = some (1, true) ∧
     boundsRow p true false (rowPairing r p true [0, 1]) = none ∧ rowPairing r p true [0, 1] = []) := by decide +kernel

/-- A deferred request is issued again with the record of its issue, though its b register names another word since (R166). -/
theorem test_reissue_record :
    let word := BitVec.ofNat 32 ((encode (.ldfe 7 5 0 3 0 0 0)).headD 0)
    let d : FeInstr := { word := word, mask := 1, idxs := [2], datas := [] }
    let s := withFlock (fun f => { f with b := [(3, record 0x20100 2 64 7)] }) paged
    let t := reissue 0 0 (some { uid := 9, origin := none, rcd := record 0x20000 2 64 7 }) (none, d) s
    (t.feQueue.map fun r => r.va) = [0x20008] ∧ getB (cur t) 3 = record 0x20100 2 64 7 := by decide +kernel

/-- CopiesAreAccepted: a copy in, a slice and a multicast of b0 and b4, rows through b7 and b6, the long form, and a collective. -/
theorem test_meets_copies :
    (Safety.Passes (.cp 7 3 0 0 0 4) (active stocked 7) 0 [] stocked ∧
      copyTrap stocked (active stocked 7) 0 4 (blockWho (active stocked 7) 0) false false false false (wholeBlock stocked 0 4 0) = none ∧ handleFree stocked 3 = true) ∧
    (let r := (getB (cur stocked) 0).toNat
     let p := (getB (cur stocked) 4).toNat
     let ps := blockPairing r p 0 fun q => q % max (curLaunch stocked).f 1 == (cur stocked).index
     copyTrap stocked (active stocked 7) 0 4 (blockWho (active stocked 7) 0) false false false false ps = none ∧ (handleAt stocked 0 3).st = .free ∧
     exitedFlock stocked = none) ∧
    maskCores stocked (2 ^ 64 - 1) ≠ [] ∧
    (let rows := (threadsOf (active stocked 7)).map fun t => (getV (cur stocked) t 0).toNat
     let r := (getB (cur stocked) 7).toNat
     let q := (getB (cur stocked) 6).toNat
     Safety.Passes (.gather 7 3 0 7 0 0 6) (active stocked 7) 0 [0] stocked ∧
     copyTrap stocked (active stocked 7) 7 6 (rowWho (active stocked 7) rows) false false (rcdInner r != rcdInner q) (decide (rcdOuter q < rows.length))
       (rowPairing r q false rows) = none ∧
     copyTrap stocked (active stocked 7) 7 6 (rowWho (active stocked 7) rows) true false (rcdInner r != rcdInner q) (decide (rcdOuter q < rows.length))
       (rowPairing r q false rows) = none) ∧
    (3 < 4 ∧ Safety.Passes (.cpx 7 3 0 0 1 4 0 0 5 0 1 0 0) (active stocked 7) 0 [] stocked ∧
      copyTrap stocked (active stocked 7) 0 4 (blockWho (active stocked 7) 0) true false false false (wholeBlock stocked 0 4 0) = none) ∧
    (Safety.Passes (.coll 7 3 0 4 0 7) (active stocked 7) 0 [] stocked ∧ collTrap stocked (active stocked 7) (collRecords stocked 0 4) = none) := by
  unfold Safety.Passes Safety.Accepts
  decide +kernel

/-- CopiesAreAccepted: a slice joins an open round of another flock. -/
theorem test_meets_slice :
    let s := setHandle 0 3 { emptyHandle with st := .filling, owner := some (1, 0), slices := [(1, [])] } stocked
    (handleAt s 0 3).st = .filling ∧ (handleAt s 0 3).owner = some ((cur s).launch, (cur s).wg) ∧ (handleAt s 0 3).slices ≠ [] ∧
    (handleAt s 0 3).job = none ∧ ∀ e ∈ (handleAt s 0 3).slices, e.1 ≠ (cur s).index := by decide +kernel

/-- A copy in under way, and the same where its page may not be read. -/
def copying : State := after (exec (.cp 7 3 0 0 0 4) stocked)
def failing : State :=
  { copying with tlb := [{ dom := 0, va := 0x10000, size := 0x10000, leaf := BitVec.ofNat 128 (pinLeaf false - 2), absent := none, pinned := true }] }

theorem test_copy_lands :
    let t := after (exec (.copyLastByteLanded 0 3) { copying with mem := [(Config.bankLoc 13824 5, 9)] })
    (handleAt t 0 3).st = .full ∧ winBytes (wgOf t 1 0) 5 1 = [9] := by decide +kernel
theorem test_copy_fault :
    let t := after (exec (.copyPageFailure 0 3) (after (exec (.copyLastByteLanded 0 3) failing)))
    (handleAt t 0 3).st = .full ∧ (handleAt t 0 3).fault = true ∧ (handleAt t 0 3).cause = 0x14 ∧
    trapped (after (exec (.cpwait 7 3 0) t)) = 0x1B := by decide +kernel

/-- A multicast that has been read, to core 0. -/
def sent : State :=
  { base with mcasts := [{ uid := 9, launch := 1, handle := 3, core := 0, job := none, cores := [0], data := [], fail := none, image := emptyHandle, after := [],
                           reach := 0 }] }

/-- HandlesAndTransfersComplete: a handle that is full, free, or in the other state; hstat with and without stepping 2; transfers that end
and that fail; a delivery. -/
theorem test_meets_handles :
    (let s := setHandle 0 3 { emptyHandle with st := .full, owner := some (1, 0) } base
     active s 7 ≠ 0 ∧ foreignHandle s 3 = false ∧ (handleAt s 0 3).st = .full ∧ (handleAt s 0 3).fault = false) ∧
    (foreignHandle base 3 = false ∧ (handleAt base 0 3).st = .free ∧ matrixReads base 3 = false) ∧
    matrixReads { owingMma with held := owingMma.held.map fun h => { h with ins := .mma 7 0 8 3 0 0 0 0 0 } } 3 = true ∧
    (∀ x ∈ [HState.full, .free], let s := setHandle 0 3 { emptyHandle with st := x, owner := some (1, 0), fault := true, cause := 0x14 } base
     active s 7 ≠ 0 ∧ foreignHandle s 3 = false ∧ (handleAt s 0 3).st = x ∧ (handleAt s 0 3).fault = true) ∧
    (let s := setHandle 0 3 { emptyHandle with st := .full, owner := some (7, 0) } base
     foreignHandle s 3 = true) ∧
    (base.mgmt.stepping = 2 ∧ (curObj base).stepping ≠ 2) ∧
    (let s := { base with objects := base.objects.map fun o => { o with stepping := 2 } }
     s.mgmt.stepping = 2 ∧ (curObj s).stepping = 2) ∧
    ((handleAt copying 0 3).coll = none ∧ (jobRuns copying 0 3).any (fun j => (runCopy 0 3 j copying).2 == .ended) = true) ∧
    ((handleAt failing 0 3).coll = none ∧ (jobRuns failing 0 3).any (fun j => (runCopy 0 3 j failing).2 == .fails 0x14 0x10000) = true) ∧
    (let s := setHandle 0 3 { emptyHandle with st := .filling, after := [(0, 1)] } { base with feQueue := owing.feQueue }
     (handleAt s 0 3).coll = none ∧ afterDone s (handleAt s 0 3).after = false) ∧
    ((sent.mcasts.find? fun m => m.uid == 9 && m.cores.contains 0).map (·.job) = some none ∧ (lowestResident sent 1 0).isSome = true ∧
      (handleAt sent 0 3).st = .free) := by
  decide +kernel

/-- A definition record of paddock 1 without shares, and a record with id 0, that a privileged flock reads. -/
def defining (b : Byte) : State :=
  { stocked with launches := stocked.launches.map (fun l => { l with priv := true }), mem := if b = 0 then [] else [(Config.bankLoc 13824 0, b)] }
def padAsk (s : State) : Ask :=
  { askRange (.paddock 7 0 1 9 0) (active s 7) 1 8 (getS (cur s) 0).toNat 8 .read rcdRead with formats := some [0, 4] }
def padRecord (s : State) : Nat :=
  leNat (readRange (padAsk s) (lanesOf (padAsk s) s) (verifyLanes (padAsk s) (lanesOf (padAsk s) s) (checkLanes (padAsk s) s).1)).2

/-- PaddockInstructionCompletes: without the privilege; with it, a record that is refused and one that is not. -/
theorem test_meets_paddock :
    (active base 7 ≠ 0 ∧ (curLaunch base).priv = false) ∧
    (∀ b ∈ [(0 : Byte), 1], (curLaunch (defining b)).priv = true ∧ flagFull (defining b) 0 = false ∧
      (checkLanes (padAsk (defining b)) (defining b)).2 = .ok (lanesOf (padAsk (defining b)) (defining b)) ∧
      Safety.InOrder (padAsk (defining b)) (loadAct false) (lanesOf (padAsk (defining b)) (defining b))
        (checkLanes (padAsk (defining b)) (defining b)).1 ∧
      poisonTrap (padAsk (defining b)) (verifyLanes (padAsk (defining b)) (lanesOf (padAsk (defining b)) (defining b))
        (checkLanes (padAsk (defining b)) (defining b)).1) (lanesOf (padAsk (defining b)) (defining b)) = none ∧
      recRefusal (defining b) (· == 0) (padRecord (defining b)) = if b = 0 then some 0x01 else none) ∧
    (let s := { defining 1 with feQueue := owing.feQueue, fresh := 1 }
     (checkLanes (padAsk s) s).2 = .ok (lanesOf (padAsk s) s) ∧
     ¬ Safety.InOrder (padAsk s) (loadAct false) (lanesOf (padAsk s) s) (checkLanes (padAsk s) s).1) := by
  unfold Safety.InOrder
  decide +kernel
/-! ### Control flow -/

/-- A function at code offset 128 that needs eight registers, and a target set of it and of the placed word. -/
def coded : State :=
  { base with objects := base.objects.map fun o =>
      { o with entries := [{ off := 128, kind := 1, budget := 8, flocks := 0, scratch := 0, binds := [] }], sets := [[128, 64]] } }
def fnEntry : Entry := { off := 128, kind := 1, budget := 8, flocks := 0, scratch := 0, binds := [] }

/-- Half of the threads have predicate 0. -/
def halved (s : State) : State := withFlock (fun f => { f with p := [(0, 0xFFFF)] }) s

theorem test_bra_divides :
    let t := after (exec (.bra 0 16 0 0) (halved base))
    (cur t).path0.map (fun p => (p.pc, p.mask)) = some (68, 0xFFFF0000) ∧ (cur t).path1.map (fun p => (p.pc, p.mask)) = some (128, 0xFFFF) := by
  decide +kernel
/-- Hint 11 with the next clause header as target: the threads that go and those that stay make one group, and hintmiss is set (R266). -/
theorem test_bra_hintmiss :
    (let t := after (exec (.bra 0 1 3 0) (halved base))
     (cur t).status = BitVec.ofNat 32 flHintmiss ∧ (cur t).path1 = none) ∧
    (cur (after (exec (.bra 7 1 3 0) base))).status = 0 := by decide +kernel
theorem test_bra_negated :
    ((cur (after (exec (.bra 0 16 0 1) (halved base)))).path1.map fun p => (p.pc, p.mask)) = some (128, 0xFFFF0000) := by decide +kernel
theorem test_bra_outside : trapped (after (exec (.bra 7 0x3FFFF 0 0) (withFlock (fun f => { f with path0 := some (pathAt 0 1) }) base))) = 1 := by
  decide +kernel
theorem test_call_links :
    let t := after (exec (.callI 0 5 16 0) (halved coded))
    getV (cur t) 15 5 = 68 ∧ getV (cur t) 16 5 = 0 ∧ (cur t).path1.map (·.pc) = some 128 := by decide +kernel
theorem test_ret : (curPath (after (exec (.ret 7 5 0) (withFlock (fun f => putVs f 5 (BitVec.allOnes 32) fun _ => 256) base)))).pc = 256 := by
  decide +kernel
theorem test_brx_beyond : (curPath (after (exec (.brx 7 5 0 0 0 1) (withFlock (fun f => putS f 5 2) coded)))).pc = 68 := by decide +kernel

/-- Three groups with the other slot taken: the second lies below the third (R265). -/
theorem test_places :
    (placePaths 0 false [(64, 1), (128, 2), (256, 4)] { cur base with path1 := some (pathAt 8 8), stack := [pathAt 4 16] }).stack.map (·.pc) =
      [256, 128, 4] := by decide

/-- TransfersMoveThreadsByTarget: groups, places with the other slot taken and empty, each transfer with room and without. -/
theorem test_meets_transfers :
    (0 < 32 ∧ inMask (3 : Mask) 0 = true ∧ (0 : Nat) = 0) ∧
    (pathOf (cur base) true = none ∧ pathOf { cur base with path1 := some (pathAt 8 1) } true ≠ none) ∧
    (inCode base ((curPath base).pc + 4 * toSigned 18 16) = true ∧ inCode base ((curPath base).pc + 4 * toSigned 18 0x3FF00) = false) ∧
    ((0x40 : Nat) % 4 = 0 ∧ inCode base ((curPath base).pc + toSigned 32 0x40) = true) ∧
    (0 < (curObj coded).sets.length ∧ 5 < (cur coded).budget ∧
      ∀ t ∈ threadsOf (active coded 7), ((curObj coded).sets.getD 0 [])[(getV (cur coded) t 5).toNat]? = some 128 ∧
        inCode coded 128 = true ∧ functionAt coded 128 = some fnEntry ∧ fnEntry.budget ≤ (cur coded).budget) ∧
    (5 < (cur coded).budget ∧ inCode coded ((curPath coded).pc + 4 * toSigned 12 16) = true ∧
      functionAt coded ((curPath coded).pc + 4 * toSigned 12 16).toNat = some fnEntry ∧
      inCode coded ((curPath coded).pc + toSigned 32 0x40) = true ∧
      functionAt coded ((curPath coded).pc + toSigned 32 0x40).toNat = some fnEntry) ∧
    (∀ t ∈ threadsOf (active base 7), inCode base (getV (cur base) t 5).toNat = true) ∧
    (inMask (activeNeg (halved base) 0 0) 0 = true ∧ inMask (liveMask (cur (halved base)) (curPath (halved base))) 16 = true ∧
      inMask (activeNeg (halved base) 0 0) 16 = false ∧ (∀ t < 32, inMask (liveMask (cur base) (curPath base)) t = inMask (activeNeg base 7 0) t) ∧
      1 < (Safety.groups (halved base) 0xFFFF fun _ => 128).length) ∧
    ((cur base).stack.length + pushCount (cur base) false 2 ≤ Config.stackLimit ∧
      Config.stackLimit < (List.replicate 64 (pathAt 0 1)).length +
        pushCount { cur base with path1 := some (pathAt 8 1) } false (Safety.groups (halved base) 0xFFFF fun _ => 128).length) := by
  decide +kernel

/-- A path at a header of a clause of one word; the header is at offset 64 and the word at 68. -/
def clausal (header word : Nat) : State :=
  let s := placeWords [header, word] State.reset
  withFlock (fun f => { f with cf := [(0, 1)], path0 := some (pathAt 64 (BitVec.allOnes 32)) }) s

theorem test_clause_enters :
    let t := after (exec .clauseStart (clausal 0xC0001FE0 0x01C81050))
    (curPath t).pc = 68 ∧ (curPath t).left = 1 ∧ (curPath t).setA = 15 := by decide +kernel
theorem test_clause_waits : (curPath (after (exec .clauseStart (clausal 0xC0003FE0 0x01C81050)))).wait = .flags 1 := by
  decide +kernel
/-- A path is blocked by the watchdog's count where only deferred requests keep its clause waiting, and not once every flag reads zero
(R378). -/
theorem test_waits_deferred :
    let s := after (exec (.ldfe 0 8 0 3 0 1 0) (withFlock (fun f => { f with p := [(0, 1)], path0 := f.path0.map fun p => { p with setA := 0 } }) paged))
    waitsDeferred s (cur s) 1 = true ∧ waitsDeferred s (cur s) 2 = false ∧
    waitsDeferred s { cur s with pending := noPending :: (cur s).pending.map fun p => { p with flag := some 3 } } 9 = true ∧
    waitsDeferred s { cur s with pending := (cur s).pending.map fun p => { p with fe := none } } 1 = false := by decide +kernel
theorem test_clause_illegal : trapped (after (exec .clauseStart (clausal 0x40001FE0 0x01C81050))) = 2 := by decide +kernel

/-- ClauseStartsEnterTheirClause: a header that is not legal; one whose clause is not legal (a lone first word of a long form); one that
enters, and one that waits for flag 0; two paths at one header. -/
theorem test_meets_clauses :
    (∀ x ∈ [(0x40001FE0, 0x01C81050), (0xC0001FE0, 0xC1C81050), (0xC0001FE0, 0x01C81050), (0xC0003FE0, 0x01C81050)],
      let s := clausal x.1 x.2
      let s0 := mergeCur s
      pathOf (cur s) s.second = some (pathAt 64 (BitVec.allOnes 32)) ∧ (fetchWord (curPath s0).pc s0).2 = some x.1 ∧
      (peekWords 1 ((curPath s0).pc + 4) (fetchWord (curPath s0).pc s0).1).2 = some [x.2]) ∧
    headerLegal 0x40001FE0 = false ∧ headerLegal 0xC0001FE0 = true ∧ clauseWords [0xC1C81050] = false ∧ clauseWords [0x01C81050] = true ∧
    (∀ k < 12, (0xC0001FE0).testBit (13 + k) = false) ∧ (0xC0003FE0).testBit 13 = true ∧
    getCf (cur (clausal 0xC0003FE0 0x01C81050)) 0 = 1 ∧
    ((pathAt 64 1).pc = (pathAt 64 2).pc ∧ (pathAt 64 1).left = 0 ∧ (pathAt 64 2).left = 0 ∧ (pathAt 64 1).hint = false ∧
      (pathAt 64 2).hint = false) := by decide +kernel

theorem test_exit_all : (cur (after (exec (.exitI 7 0) base))).exited = BitVec.allOnes 32 ∧
    .flockRetirement 0 0 ∈ (after (exec (.exitI 7 0) base)).todo := by decide +kernel
theorem test_retirement :
    let t := after (exec (.flockRetirement 0 0) (after (exec (.exitI 7 0) base)))
    flockAt t 0 0 = emptyFlock ∧ (wgOf t 1 0).slots = [] ∧ .workgroupCompletion 1 0 ∈ t.todo := by decide +kernel

/-- ExitsRetireTheirFlock: some of the threads, all of them, a flock that retires. -/
theorem test_meets_exits :
    (pathOf (cur (halved base)) base.second = some (curPath base) ∧ activeNeg (halved base) 0 0 ≠ 0 ∧
      ((cur base).exited ||| activeNeg (halved base) 0 0) ≠ BitVec.allOnes 32) ∧
    (activeNeg base 7 0 ≠ 0 ∧ ((cur base).exited ||| activeNeg base 7 0) = BitVec.allOnes 32) ∧
    (let s := after (exec (.exitI 7 0) base)
     (flockAt s 0 0).launch ≠ 0 ∧ (flockAt s 0 0).exited = BitVec.allOnes 32 ∧ (flockAt s 0 0).pending = [] ∧
     (coreAt s 0).fabric = none) := by decide +kernel

/-- A fabric without operators, controlled by flock 1. -/
def idleFabric : Fabric :=
  { image := 0, length := 64, control := 1, ops := [], switches := [], depth := [], queues := [], lanes := [], flying := [], draining := none }

/-- The placed flock waits at barrier 3, with and without a thread that has not come. -/
def waiting (m : Mask) : State :=
  withFlock (fun f => { f with arrived := [(3, m)], path0 := some { curPath base with wait := .bar 3 } }) base

theorem test_bar_releases : (curPath (after (exec (.bar 3) base))).wait = .none ∧ (curPath (after (exec (.bar 3) base))).pc = 68 := by
  decide +kernel
theorem test_nap : (curPath (after (exec (.nap 7 5 0) base))).wait = .nap 80 := by decide +kernel

/-- MeetingPointsComplete: the last barrier; a barrier that is not complete and one that is; a yield and naps of both forms; a nap that is
over, and each wait that lets a path be swapped. -/
theorem test_meets_meeting :
    15 < 16 ∧
    (let s := waiting 1
     ∃ x ∈ (wgOf s 1 0).slots, smapGet 0 (flockAt s (wgOf s 1 0).core x).arrived 3 ||| (flockAt s (wgOf s 1 0).core x).exited ≠ BitVec.allOnes 32) ∧
    (let s := waiting (BitVec.allOnes 32)
     (∀ x ∈ (wgOf s 1 0).slots, smapGet 0 (flockAt s (wgOf s 1 0).core x).arrived 3 ||| (flockAt s (wgOf s 1 0).core x).exited = BitVec.allOnes 32) ∧
     (∃ x ∈ (wgOf s 1 0).slots, smapGet 0 (flockAt s (wgOf s 1 0).core x).arrived 3 ≠ 0) ∧ (wgOf s 1 0).slots.Nodup ∧
     ((wgOf s 1 0).slots.all fun x => (openOps s (wgOf s 1 0).core x).all fun e => e.mask &&& smapGet 0 (flockAt s (wgOf s 1 0).core x).arrived 3 == 0) =
       true ∧
     (curPath s).hint = false ∧ pathOf (cur s) true = none) ∧
    (let s := { waiting (BitVec.allOnes 32) with feQueue := owing.feQueue }
     ((wgOf s 1 0).slots.any fun x => (openOps s (wgOf s 1 0).core x).any fun e => e.mask &&& smapGet 0 (flockAt s (wgOf s 1 0).core x).arrived 3 != 0) =
       true ∧ barrierCheck 1 0 3 s = s) ∧
    (pathOf (cur base) base.second = some (curPath base) ∧ active base 7 ≠ 0 ∧ (0 = 0 ∨ 4095 % 64 = 0) ∧ (1 = 0 ∨ 4032 % 64 = 0)) ∧
    (Wait.nap 0 = .nap 0 ∧ 0 ≤ clockOf base 0) ∧
    (pathOf (flockAt (waiting 1) 0 0) false = some { curPath base with wait := .bar 3 } ∧ parked (waiting 1) 0 0 = false) ∧
    (let s := setFabric 0 idleFabric base
     parked s 0 0 = true ∧ pathOf (flockAt s 0 0) false = some (curPath base)) := by
  decide +kernel

/-- TrapsAndSystemInstructionsComplete: an active thread; a range, empty and of one element; with and without the privilege. -/
theorem test_meets_system :
    active base 7 ≠ 0 ∧ Safety.ExtentOk stocked 0 1 0 ∧
    (let s := withFlock (fun f => putS f 4 1) (defining 0)
     Safety.ExtentOk s 4 1 0 ∧ (curLaunch s).priv = true ∧ (getS (cur s) 4).toNat ≠ 0 ∧
     keptBehind s (flockOp s maintainAct (active s 7)) = false ∧
     keptBehind { s with held := owingStore.held, fresh := 9 } (flockOp { s with held := owingStore.held, fresh := 9 } maintainAct (active s 7)) = true ∧
     (let ps := (pagesFor (curAgent s) .read (extentUnits (rangeBytes s 4 1 0)) s).2
      let sec := Config.bankLoc 13824 0 / 32
      unpoisonSpots ps (rangeBytes s 4 1 0) s = [] ∧
      unpoisonSpots ps (rangeBytes s 4 1 0) { s with poison := [sec] } = [(pinLeaf false, 0x10000)] ∧
      ∀ w ∈ [s, { s with held := owingStore.held, fresh := 9 }],
        keptBehind w { flockOp w (storeAct false) (active s 7) with places := [(0, Config.bankLoc 13824 0, 32)] } = !(w.held == [])) ∧
     sysopPages (active s 7) (pagesFor (curAgent s) .read (extentUnits (rangeBytes s 4 1 0)) s).2
       (pagesFor (curAgent s) .read (extentUnits (rangeBytes s 4 1 0)) s).1 = none) ∧
    (curLaunch base).priv = false := by
  unfold Safety.ExtentOk
  decide +kernel

/-! ### Spatial mode -/

/-- An image of one idle operator, in the page of b1. -/
def imaged : State :=
  { stocked with mem := memPuts [] (Config.bankLoc 13824 0) (leBytes 72
      (0x5CA7FAB0 + 2 ^ 32 + 2 ^ 48 + 72 * 2 ^ 96 + 64 * 2 ^ 160 + idleOp * 2 ^ 512)) }
def imageAsk (n : Nat) : Ask := { askRange (.fabEnter 7 1) (active imaged 7) 1 n 0 8 .read rcdRead with permFirst := true }
def imageHead : State × List Byte := readRange (imageAsk 8) (lanesOf (imageAsk 8) imaged) imaged
def imageBytes : State × List Byte := readRange (imageAsk 9) (lanesOf (imageAsk 9) imageHead.1) imageHead.1
def idleImage : Image := { ops := [idleOp], switches := [], entries := [] }

/-- A core in spatial mode: lane 0 is a source to queue 0, lane 1 adds queues 0 and 1 to queue 2, lane 2 is a sink from queue 2. -/
def meadow : Fabric :=
  { image := 0x10000, length := 88, control := 0,
    ops := [BitVec.ofNat 64 (0x10 * 2 ^ 58 + 0x7F * 2 ^ 51 + 0x7F * 2 ^ 44 + 2 ^ 33), BitVec.ofNat 64 (2 ^ 58 + 2 ^ 44 + 2 * 2 ^ 37 + 2 ^ 33),
      BitVec.ofNat 64 (0x11 * 2 ^ 58 + 2 * 2 ^ 51 + 0x7F * 2 ^ 44)],
    switches := [], depth := [(0, 4), (1, 4), (2, 4)], queues := [], lanes := [], flying := [], draining := none }
def running (f : Fabric) : State := setFabric 0 f stocked

/-- A command for a kind and a lane with record b4 and one element, that is its chain's last, to lane 0. -/
def streamWord (kind lane rcd : Nat) : BitVec 128 :=
  BitVec.ofNat 128 (kind * 2 ^ 30 + lane * 2 ^ 24 + rcd * 2 ^ 20 + 2 ^ 8 + 2 ^ 32 + 2 ^ 48 + 2 ^ 64)
def streamCmd (kind lane : Nat) : StrmCmd :=
  { cmd := streamWord kind lane 4, rcd := record 0 2 64 15, book := [], sreg := some 5, uid := some 9, pc := 64, mask := 1, accepted := true, long := false }
def streaming (lane : Nat) (x : Lane) : Fabric := setLane lane x meadow
def word (x : Nat) : QEntry := dataEntry x
def queued (e : QEntry) : Fabric := setQueue 2 [e] (streaming 2 { emptyLane with cmds := [streamCmd 1 2], running := true })

theorem test_image : parseImage imageBytes.2 512 = some idleImage ∧ chooseDepths imageBytes.1 imageBytes.1.core idleImage = some [] := by
  decide +kernel
/-- A length that is no multiple of 8 is refused with reason 0x01, after the pages of the image (R314; log entry 38). -/
theorem test_image_length :
    let s := { imaged with mem := memPuts imaged.mem (Config.bankLoc 13824 12) [70] }
    ((wgOf (after (exec (.fabEnter 7 1) s)) 1 0).trap.map fun r => (r.cause, r.detail.toNat % 256)) = some (0x20, 1) := by decide +kernel
/-- An image whose sink has a queue, in an octet whose blocks resident flocks hold: refused with reason 0x02 (R296). -/
def crowded : State :=
  withFlock (fun f => { f with budget := 512 })
    { stocked with mem := memPuts [] (Config.bankLoc 13824 0) (leBytes 80 (0x5CA7FAB0 + 2 ^ 32 + 2 ^ 48 + 2 ^ 64 + 80 * 2 ^ 96 + 72 * 2 ^ 128 +
        64 * 2 ^ 160 + (0x11 * 2 ^ 58 + 0x7F * 2 ^ 44) * 2 ^ 512 + (2 ^ 13 + 2) * 2 ^ 576)) }
theorem test_no_room :
    ((parseImage (readRange (imageAsk 10) (lanesOf (imageAsk 10) crowded) crowded).2 512).map fun im => chooseDepths crowded 0 im) = some none ∧
    ((wgOf (after (exec (.fabEnter 7 1) crowded)) 1 0).trap.map fun r => (r.cause, r.detail.toNat % 256)) = some (0x20, 2) ∧
    parseImage (leBytes 80 0) 512 = none := by decide +kernel
theorem test_enters : (coreAt (after (exec (.fabEnter 7 1) imaged)) 0).fabric.map (·.image) = some 0x10000 := by decide +kernel
theorem test_refused :
    (wgOf (after (exec (.fabEnter 7 1) (running meadow))) 1 0).trap.map (·.cause) = some 0x20 := by decide +kernel

theorem test_stream_long_refused :
    ((wgOf (after (exec (.strmL 7 0 0 0 0 16) stocked)) 1 0).trap.map fun r => (r.cause, r.detail.toNat % 256)) = some (0x20, 4) := by
  decide +kernel

/-- SpatialInstructionsComplete: a core in spatial mode; an image that loads. -/
theorem test_meets_enter :
    (active imaged 7 ≠ 0 ∧ (coreAt (running meadow) 0).fabric ≠ none) ∧
    (8 = imageElems (getB (cur imaged) 1).toNat 64 ∧ 9 = imageElems (getB (cur imaged) 1).toNat 72 ∧
      9 = imageElems (getB (cur imaged) 1).toNat 65 ∧ 64 = imageElems (getB (cur imaged) 1).toNat 513) ∧
    ((coreAt imaged imaged.core).fabric = none ∧ rcdSize (getB (cur imaged) 1).toNat = 3 ∧ rcdBase (getB (cur imaged) 1).toNat % 64 = 0 ∧
      baseAligned (getB (cur imaged) 1).toNat = true) ∧
    (∀ n ∈ [8, 9], ∀ s ∈ [imaged, imageHead.1], keptBehind s (askOp (imageAsk n) (loadAct false) (lanesOf (imageAsk n) s) s) = false) ∧
    ((∀ n ∈ [1, 2, 3, 4], (curWg imaged).phase ≠ .stopping n) ∧
      (curWg { imaged with wgs := imaged.wgs.map fun w => { w with phase := .stopping 1 } }).phase = .stopping 1) ∧
    ((checkLanes (imageAsk 8) imaged).2 = .ok (lanesOf (imageAsk 8) imaged) ∧ (checkLanes (imageAsk 8) imaged).1 = imaged ∧
      poisonTrap (imageAsk 8) (verifyLanes (imageAsk 8) (lanesOf (imageAsk 8) imaged) imaged) (lanesOf (imageAsk 8) imaged) = none ∧
      verifyLanes (imageAsk 8) (lanesOf (imageAsk 8) imaged) imaged = imaged ∧ imgNat imageHead.2 12 4 = 72) ∧
    ((checkLanes (imageAsk 9) imageHead.1).2 = .ok (lanesOf (imageAsk 9) imageHead.1) ∧ (checkLanes (imageAsk 9) imageHead.1).1 = imageHead.1 ∧
      poisonTrap (imageAsk 9) (verifyLanes (imageAsk 9) (lanesOf (imageAsk 9) imageHead.1) imageHead.1)
        (lanesOf (imageAsk 9) imageHead.1) = none ∧
      verifyLanes (imageAsk 9) (lanesOf (imageAsk 9) imageHead.1) imageHead.1 = imageHead.1) := by decide +kernel

/-- SpatialInstructionsComplete: leaving, from SIMT mode, with a command under way, and with none; stream commands from s registers and from
the code object. -/
theorem test_meets_streams :
    (coreAt stocked 0).fabric = none ∧
    (∃ e ∈ (streaming 2 { emptyLane with cmds := [streamCmd 1 2] }).lanes, e.2.cmds ≠ []) ∧ (∀ e ∈ meadow.lanes, e.2.cmds = []) ∧
    flagFull (running meadow) 0 = false ∧
    (cmdMisfit meadow (streamWord 1 2 4) = false ∧ cmdTrap (running meadow) 1 (streamWord 1 2 4) = none ∧
      (laneAt meadow (cmdLane (streamWord 1 2 4))).cmds.length < 4) ∧
    (let s := { running meadow with
       objects := (running meadow).objects.map (fun o => { o with va := 0x10000 })
       mem := memPuts [] (Config.bankLoc 13824 64) (leBytes 16 (streamWord 1 2 4).toNat) }
     (match pageFor (curAgent s) .read 0x10040 s with
      | (_, .ok x) => elementBad s x 0x10040 16 == false &&
          (loadBytes (some (verifyElement x 0x10040 16 s).core) x 0x10040 16 (verifyElement x 0x10040 16 s)).2 ==
            leBytes 16 (streamWord 1 2 4).toNat
      | _ => false) = true ∧ (curObj s).va + 0 * 8192 + 64 = 0x10040) := by decide +kernel

theorem test_fires : ((fire 1 (setQueue 0 [word 0x3F800000] (setQueue 1 [word 0x40000000] meadow))).map (queueAt · 2)) =
    some [word 0x40400000] := by decide +kernel

/-- OperatorsFireAndStreamsMove: an operator with room and two inputs. -/
theorem test_meets_firing :
    let f := setQueue 0 [word 0x3F800000] (setQueue 1 [word 0x40000000] meadow)
    (fire 1 f).isSome = true ∧ (coreAt (running f) 0).fabric = some f ∧ 1 ≤ opKind (opAt f 1) ∧ opKind (opAt f 1) ≤ 6 ∧
    opA (opAt f 1) ≠ noQueue ∧ opB (opAt f 1) ≠ noQueue ∧ opA (opAt f 1) ≠ opB (opAt f 1) ∧ opA (opAt f 1) ∉ route (opAt f 1) ∧
    opB (opAt f 1) ∉ route (opAt f 1) ∧ (queueAt f (opA (opAt f 1))).head? = some (word 0x3F800000) ∧
    (queueAt f (opB (opAt f 1))).head? = some (word 0x40000000) ∧
    ∀ q ∈ route (opAt f 1), (queueAt f q).length < smapGet 0 f.depth q := by decide +kernel

/-- OperatorsFireAndStreamsMove: a command that starts, a token under way, the end marker, and an element in memory. -/
theorem test_meets_sources :
    mayStart (streaming 0 { emptyLane with cmds := [streamCmd 0 0] }) 0 = true ∧
    sourceWaits base 0 (streaming 0 { emptyLane with cmds := [streamCmd 0 0] }) 0 = false ∧
    (let c := { streamCmd 0 0 with cmd := BitVec.ofNat 128 ((streamWord 0 0 0).toNat + 2 ^ 18 + 2 ^ 15) }
     let f := streaming 0 { emptyLane with cmds := [c] }
     opKind (opAt f 0) = 0x10 ∧ cmdOrder c.cmd = true ∧ c.uid = some 9 ∧ sourceWaits owing 0 f 0 = true ∧ f.control = 0 ∧
     ((openOps owing 0 f.control).any fun e => decide (e.uid < 9) && e.op.act == .ldfe && e.mask != 0) = true) ∧ 0 ∈ ({ meadow with flying := [0] } : Fabric).flying ∧
    (let f := streaming 0 { emptyLane with cmds := [streamCmd 0 0], running := true, pos := 1 }
     opKind (opAt f 0) = 0x10 ∧ (route (opAt f 0)).all (hasRoom f) = true ∧ (laneAt f 0).pos = cmdCount (streamCmd 0 0).cmd) ∧
    (let c : StrmCmd := { streamCmd 0 0 with cmd := streamWord 0 0 0, rcd := record 0x10000 2 64 7 }
     let f := streaming 0 { emptyLane with cmds := [c], running := true }
     (laneAt f 0).pos ≠ cmdCount c.cmd ∧
     (match findElement (controlAgent (running f) 0 f) .read c.rcd.toNat (cmdIndex c.cmd 0) (running f) with
      | (_, .page ..) => true
      | _ => false) = true) := by decide +kernel

/-- A sink whose command releases at the first word of the page at 0x10000, where an acquire of another core is pending that excludes it. -/
def clashFabric : Fabric :=
  let c : StrmCmd := { streamCmd 1 2 with
    cmd := BitVec.ofNat 128 ((streamWord 1 2 0).toNat + 2 ^ 18 + 2 * 2 ^ 15), rcd := record 0x10000 2 64 7 }
  setQueue 2 [markerEntry 3] (streaming 2 { emptyLane with cmds := [c], running := true })
def clashing : State :=
  { running clashFabric with sync := [{ unit := Config.bankLoc 13824 0 / 128, rel := none, acq := some (2, { core := 9, cluster := 9, shape := 0 }) }] }

theorem test_sink_clash : (laneAt (((coreAt (after (exec (.sinkTake 0 2) clashing)) 0).fabric).getD meadow) 2).stuck.map (·.cause) = some 0x17 := by
  decide +kernel

/-- OperatorsFireAndStreamsMove: a sink takes an error token, data within and beyond its command, a marker without and with order; a source
and a sink complete. -/
theorem test_meets_sinks :
    (∀ e ∈ [errorEntry, word 7, markerEntry 3], inputHead (queued e) (opAt (queued e) 2) (opA (opAt (queued e) 2)) = some e) ∧
    opKind (opAt (queued (word 7)) 2) = 0x11 ∧ (laneAt (queued (word 7)) 2).pos < cmdCount (streamCmd 1 2).cmd ∧
    cmdOrder (streamCmd 1 2).cmd = false ∧
    cmdOrder (BitVec.ofNat 128 ((streamWord 1 2 4).toNat + 2 ^ 18 + 3 * 2 ^ 15)) = true ∧
    (match findElement (controlAgent clashing 0 clashFabric) .write (record 0x10000 2 64 7).toNat 0 clashing with
      | (_, .stops _) => false
      | (u, w) => (sinkClash 0 1 2 w u).isSome) = true ∧
    (match findElement (controlAgent (running (queued (word 7))) 0 (queued (word 7))) .write (record 0 2 64 15).toNat 0
        (running (queued (word 7))) with
      | (_, .window off) => off == 0
      | _ => false) = true ∧
    (let f := streaming 2 { emptyLane with cmds := [streamCmd 1 2], running := true, ended := true, moved := 1 }
     let s := setFlock 0 0 { cur stocked with pending := [{ noPending with uid := 9 }] } (running f)
     (laneAt f 2).cmds = [streamCmd 1 2] ∧ (laneAt f 2).ended = true ∧
     (flockAt s 0 0).pending.find? (fun p => p.uid == 9) = some { noPending with uid := 9 }) ∧
    (laneAt (streaming 0 { emptyLane with cmds := [streamCmd 0 0], running := true, markerSent := true }) 0).markerSent = true := by
  decide +kernel
theorem test_sink_window :
    winBytes (wgOf (after (exec (.sinkTake 0 2) (running (queued (word 0x1234))))) 1 0) 0 2 = [0x34, 0x12] := by decide +kernel
theorem test_stream_status :
    let f := streaming 2 { emptyLane with cmds := [streamCmd 1 2], running := true, ended := true, moved := 1, short := true }
    let s := setFlock 0 0 { cur stocked with pending := [{ noPending with uid := 9 }] } (running f)
    let t := after (exec (.streamCommandCompletion 0 2) s)
    getS (flockAt t 0 0) 5 = 0x10040 ∧ .controlTokenArrival 0 0 ∈ t.todo := by decide +kernel

/-! ### Lines, paddocks and pages -/

/-- A line of paddock 0 that holds one entry of a table. -/
def tableLine (base slot entry : Nat) : Line := { heldLine with pad := 0, base := base, data := leBytes 128 (entry * 2 ^ (8 * slot)), dirty := false }

/-- Tables of domain 0, held in lines, for the page at 0x10000. -/
def tabled : State :=
  let next (a : Nat) : Nat := 1 + 3 * 128 + a / 512 * 2 ^ 53
  { stocked with lines := [tableLine 0 0 (next 0x40000), tableLine 0x40000 0 (next 0x80000), tableLine 0x80000 0 (next 0x82000),
      tableLine 0x82000 16 (pinLeaf false)] }

/-- Paddock 5 with a resize whose lines and shares are given. -/
def resizing (departing arriving : List Nat) (folding zero : List Nat := []) : State :=
  let z : Resize :=
    { old := pinReserve.rcd, departing := departing, leaving := [], arriving := arriving, windows := [], folding := folding, zero := zero
      isNew := false, signal := none }
  { base with paddocks := [(5, { pinReserve with resize := some z })] }

def request : FeReq := { uid := 9, loc := Config.bankLoc 13824 0, core := 0, slot := 0, thread := 0, kind := 2, data := 7, va := 0 }

theorem test_walk : leafOf tabled 0 0x10000 = some (pinLeaf false, 0x82010) := by decide +kernel
/-- A quarter that lost its page's pin is empty, and the next access through the old translation pins the page again, once (R165). -/
theorem test_pins_again :
    let s := (pageFor (curAgent paged) .read 0x20000
      { paged with tlb := paged.tlb.map fun e => { e with pinned := false }, feFull := [1] }).1
    let gone := clearPins (fun _ _ => true) s
    let again := (pageFor (curAgent paged) .read 0x20000 gone).1
    s.pins ≠ [] ∧ gone.pins = [] ∧ again.pins = s.pins ∧
    (pageFor (curAgent paged) .read 0x20000 { again with feFull := [7] }).1.feFull = [7] := by decide +kernel
/-- At cluster scope a core of another cluster is not included, though that cluster may begin at the same core (R210, R228). -/
theorem test_cluster :
    let one : Issuer := { core := 0, cluster := 0, shape := 0 }
    let eight : Issuer := { core := 3, cluster := 0, shape := 4 }
    includes 3 one eight = false ∧ includes 3 eight one = true ∧ includes 3 eight { eight with core := 27 } = true ∧
    includes 3 eight { eight with core := 4 } = false := by decide
/-- A copy that writes a sector whole verifies none of its old bytes; one that ends within it does (R372). -/
theorem test_copy_renews :
    let s := { stocked with checks := [(Config.bankLoc 13824 0x40 / 32, some 1)] }
    let go (n : Nat) : State := (deviceCopy { dom := 0, priv := true, core := Config.coreCount } n 0x10000 0x10040 s).1
    (go 32).poison = [] ∧ (go 31).poison = [Config.bankLoc 13824 0x40 / 32] := by decide +kernel
theorem test_reissue : (after (exec (.fullEmptyReissue 9) { base with feRetry := [request] })).feRetry = [] := by decide +kernel
theorem test_eviction : findLine (after (exec (.paddockLineEviction 0 0) tabled)) 0 0 = none := by decide +kernel

/-- LinesPaddocksAndPagesMoveOn: a returned request; an updating line and one that is not; a line that leaves, a share that arrives, a
resize that has ended, of a paddock that stays and of one that goes; an automatic tick; a home change. -/
theorem test_meets_lines :
    (let s := { base with feRetry := [request] }
     s.feRetry.find? (fun r => r.uid == 9 && !feBefore s r) = some request) ∧
    (let s := { base with lines := [{ heldLine with pad := 0, base := 0, st := .updating }] }
     findLine s 0 0 = some { heldLine with pad := 0, base := 0, st := .updating }) ∧
    (findLine tabled 0 0).map (·.st) = some .unshared ∧
    (∀ s ∈ [resizing [0] [], resizing [] [] [0], resizing [] [] [] [0], resizing [] [30], resizing [] []],
      ((smapFind s.paddocks 5).bind (·.resize)).isSome = true) ∧
    (∀ s ∈ [resizing [0] [], resizing [] [] [0], resizing [] [] [] [0]],
      ((smapFind s.paddocks 5).bind (·.resize)).any (fun z => (z.departing ++ z.folding ++ z.zero).contains 0) = true) ∧
    ((smapFind (resizing [] [30]).paddocks 5).bind (·.resize)).any
      (fun z => z.arriving.contains 30 && !windowInBank (resizing [] [30]) z 30 && z.zero == []) = true ∧
    (let s := { base with autoOn := true, isles := [(0, { clk := 1024, tenths := 0, autoBase := 0 })] }
     s.autoOn = true ∧ 0 < owedTicks s 0) ∧
    (let h : HomeChange := { dom := 0, va := 0x10000, leaf := BitVec.ofNat 128 (pinLeaf false + 2 ^ 114), queue := 0, seq := 0, signal := 0, qdom := 0 }
     let s := { tabled with homeChanges := [h] }
     s.homeChanges.find? (fun h => h.dom == 0 && h.va == 0x10000) = some h ∧
     leafOf { s with homeChanges := s.homeChanges.filter fun k => !(k.dom == 0 && k.va == 0x10000) } 0 0x10000 = some (pinLeaf false, 0x82010)) ∧
    Memory.wf State.reset.mem = true ∧ State.reset.lines = [] ∧ leafSize (pinLeaf false) = leafSize (pinLeaf false + 2 ^ 114) ∧
    0x10000 % pageSize (leafSize (pinLeaf false)) = 0 := by decide +kernel

/-! ### Queues and packets -/

/-- Queue 3 of domain 0, with 64 slots, mapped, and the next packet read. -/
def queueWith (prio : Nat) (head : Option (List Byte)) : Queue :=
  { noQueueYet with desc := BitVec.ofNat 512 (1 + 6 * 2 ^ 14 + prio * 2 ^ 19), held := true, hw := some 0, head := head }
def queueing (x : Queue) : State := setQueueAt 3 x { stocked with mgmt := { Mgmt.reset with fwState := 2, owner := some .portA, qTable := 0x10000 } }

/-- A packet of queue 3 of a kind, with the 64-bit fields given, at their offsets. -/
def packetOf (kind : Nat) (fields : List (Nat × Nat)) (priv : Bool) : Packet :=
  { queue := 3, seq := 0, kind := kind, dom := 0, priv := priv, prio := 0,
    body := leBytes 128 (kind + (fields.map fun f => f.2 * 2 ^ (8 * f.1)).sum), done := 0, tag := none }
def packeted (p : Packet) (s : State) : State := { s with packets := [p] }

theorem test_doorbell : (queueOf (after (exec (.doorbellWrite .portA 3 0 65) (queueing (queueWith 0 none)))) 3).stopped = true := by
  decide +kernel
/-- R245, R246: equal effective priorities, the longer wait first; at 4 ms a queue goes before one of priority 7. -/
theorem test_dispatch_order :
    let x (prio waited : Nat) : Queue := { queueWith prio (some (leBytes 64 4)) with waited := waited, hw := none }
    let chosen (a b : Queue) : Option Nat := (dispatchChoice { queueing a with queues := [(3, a), (5, b)] }).map (·.1.1)
    (chosen (x 1 800000) (x 4 300000), chosen (x 4 300000) (x 1 800000), chosen (x 7 0) (x 0 4000000), chosen (x 7 0) (x 0 3999999),
      chosen (x 2 0) (x 2 0)) = (some 5, some 3, some 5, some 3, some 3) := by decide +kernel
theorem test_dispatch :
    let t := after (exec .packetDispatch (queueing (queueWith 0 (some (leBytes 64 4)))))
    t.packets.map (·.kind) = [4] ∧ .signalPacket 3 ∈ t.todo ∧ (queueOf t 3).flights = [0] := by decide +kernel

/-- QueuesTakeTheirPackets: an index that is not new, one beyond the ring, the last that is not, of a queue with a hardware slot and of one
that takes one; the owner; a choice; an idle slot. -/
theorem test_meets_queues :
    (let s := queueing { queueWith 0 none with hw := none }
     (queueOf s 3).hw = none ∧ (queueOf s 3).held = true ∧ qServes s (queueOf s 3) = true ∧ (queueOf s 3).wr < 64 ∧ 64 ≤ (queueOf s 3).rd + 64 ∧
     (doorbellSlot (setQueueAt 3 { queueOf s 3 with wr := 64 } s)).isSome = true) ∧
    (let s := queueing (queueWith 0 none)
     fwReady s = true ∧ (queueOf s 3).held = true ∧ qServes s (queueOf s 3) = true ∧ 0 ≤ (queueOf s 3).wr ∧
     (queueOf s 3).rd + qSlots (queueOf s 3).desc.toNat = 64 ∧ (queueOf s 3).hw ≠ none ∧ Safety.Owns .portA s ∧
     s.queues.find? (fun e => e.2.hw == some 0) = some (3, queueWith 0 none) ∧ dispatchable s 3 (queueWith 0 none) = false) ∧
    (let x := queueWith 0 (some (leBytes 64 4))
     dispatchChoice (queueing x) = some ((3, x), false) ∧ queueOf (queueing x) 3 = x) ∧
    (let x := { queueWith 0 (some (leBytes 64 4)) with waited := 4000000 }
     dispatchChoice (queueing x) = some ((3, x), true) ∧ queueOf (queueing x) 3 = x) ∧
    (queueWith 0 none).idleAt + 2000000 ≤ 2000000 := by
  unfold Safety.Owns
  decide +kernel

/-- A code object with one kernel entry, at address 0. -/
def kernelled : State :=
  { stocked with objects := [{ noObj with num := 1, codeSize := 4096, entries := [{ off := 64, kind := 0, budget := 8, flocks := 1, scratch := 0, binds := [] }] }] }
def launchPacket : Packet := packetOf 1 [(4, 1), (0x1A, 0x101)] false

theorem test_launch : ((after (exec (.launchPacket 3) (packeted launchPacket kernelled))).launches.map fun l => (l.num, l.n, l.b)) = [(1, 1, 64), (2, 1, 8)] := by
  decide +kernel
theorem test_signal : (memGets (after (exec (.signalPacket 3) (packeted (packetOf 4 [(8, 0x10000), (0x10, 0x1234)] false) stocked))).mem
    (Config.bankLoc 13824 0) 2) = [0x34, 0x12] := by decide +kernel
theorem test_copy_packet : memGet (after (exec (.copyPacket 3) (packeted (packetOf 2 [(8, 0x10000), (0x10, 0x10040), (0x18, 2)] false)
    { stocked with mem := [(Config.bankLoc 13824 1, 9)] }))).mem (Config.bankLoc 13824 65) = 9 := by decide +kernel

/-- A field of 1 to 24 cores on each side (R8, R239): an extent of 0 does not fit, nor does one beyond the last column. -/
theorem test_launch_field : let fits (x w : Nat) : Bool := !launchMisfit (packetOf 1 [(4, 1), (0x18, x), (0x1A, w), (0x1B, 1)] false).body
    (fits 0 0, fits 0 1, fits 0 24, fits 23 1, fits 1 24) = (false, true, true, true, false) := by decide +kernel
/-- PacketsHaveTheirEffect: a field of extent 0, and one that leaves the cores. -/
theorem test_meets_field : ∀ x ∈ [(4, 1), (0x18, 24)], let p := packetOf 1 [(4, 1), x, (0x1B, 1)] false
    Safety.PacketReady (packeted p kernelled) 3 1 0x30 0xF false p ∧ (packetNat p.body 0x1A 1 = 0 ∨ 24 < packetNat p.body 0x18 1) := by
  unfold Safety.PacketReady
  decide +kernel

/-- PacketsHaveTheirEffect: a launch that fits, a copy, a barrier and a signal. -/
theorem test_meets_packets :
    (let p := launchPacket
     let u := dropPacket p (packeted p kernelled)
     Safety.PacketReady (packeted p kernelled) 3 1 0x30 0xF false p ∧ launchMisfit p.body = false ∧
     (launchEntry u p).any (fun e => decide (e.2.budget ≤ (launchFrom u p e.1 e.2).b) &&
       (fieldCores (launchFrom u p e.1 e.2)).any (emptyFits u (launchFrom u p e.1 e.2)) && e.2.binds.all fun b => b.form != 0) = true) ∧
    (let p := packetOf 2 [(8, 0x10000), (0x10, 0x10040), (0x18, 2)] false
     Safety.PacketReady (packeted p stocked) 3 2 0x20 0 false p ∧
     (deviceCopy { dom := p.dom, priv := true, core := Config.coreCount } 2 0x10000 0x10040 (dropPacket p (packeted p stocked))).2.2 =
       .ended) ∧
    (let p := packetOf 3 [] false
     Safety.PacketReady (packeted p stocked) 3 3 0x30 0 false p ∧ ∀ k < 5, packetNat p.body (8 + 8 * k) 8 % 8 = 0) ∧
    (let p := packetOf 4 [(8, 0x10000), (0x10, 0x1234)] false
     let u := (deviceReadNat 0 true 0x10000 8 (dropPacket p (packeted p stocked)))
     Safety.PacketReady (packeted p stocked) 3 4 0x18 1 false p ∧ u.2 = some 0 ∧ (deviceWrite 0 true 0x10000 (leBytes 8 0x1234) u.1).2 = true) := by
  unfold Safety.PacketReady
  decide +kernel

/-- PacketsHaveTheirEffect: records that are refused and that are not, a home change, and privileged types on a queue that is not. -/
theorem test_meets_privileged :
    (∀ r ∈ [0, 1],
      let p := packetOf 5 [(64, r)] true
      Safety.PacketReady (packeted p stocked) 3 5 0x30 0 true p ∧
      recRefusal (dropPacket p (packeted p stocked)) (packetActs p) (packetNat p.body 64 64) = if r = 0 then some 0x01 else none) ∧
    (let y := pinLeaf false + 2 ^ 114
     let p := packetOf 6 [(8, 0x10000), (0x18, y)] true
     Safety.PacketReady (packeted p tabled) 3 6 0x30 0 true p ∧ packetNat p.body 0x18 16 = y ∧ packetNat p.body 8 8 = 0x10000 ∧
     packetActs p 0 = true ∧ y.testBit 0 = true ∧ leafBad y (3 - leafSize y) = false ∧ leafOwner y = 0 ∧ tabled.homeChanges = [] ∧
     leafSize (pinLeaf false) = leafSize y ∧ 0x10000 % pageSize (leafSize y) = 0) ∧
    nextPacket (packeted (packetOf 5 [] false) stocked) 3 5 = some (packetOf 5 [] false) ∧
    nextPacket (packeted (packetOf 6 [] false) stocked) 3 6 = some (packetOf 6 [] false) := by
  unfold Safety.PacketReady
  decide +kernel

/-! ### Workgroups -/

/-- A launch of one workgroup of one flock, that has not begun. -/
def starting : State :=
  { State.reset with
    launches := [{ noLaunch with num := 1, obj := 1, n := 1, f := 1, b := 8, fw := 1, fh := 1, args := [7] }]
    objects := [{ noObj with num := 1, codeSize := 4096, entries := [{ off := 64, kind := 0, budget := 8, flocks := 1, scratch := 0, binds := [] }] }] }
def place0 : List Place := [{ slot := 0, octet := 0, block := 0 }]

/-- The placed workgroup with its flock gone. -/
def emptied : State := setFlock 0 0 emptyFlock (updWg 1 0 (fun w => { w with slots := [] }) base)

theorem test_admission :
    let t := after (exec (.workgroupAdmission 1 0 place0) starting)
    getS (flockAt t 0 0) 0 = 7 ∧ (flockAt t 0 0).path0 = some (pathAt 64 (BitVec.allOnes 32)) ∧ (wgOf t 1 0).slots = [0] := by decide +kernel
theorem test_completion : (launchOf (after (exec (.workgroupCompletion 1 0) emptied)) 1).ended = true := by decide +kernel

/-- The memory of a frame at 0x10000 for that launch: its header, and in its fabric's part an image at 0x18000, that is one idle operator.
-/
def frameMem : List Host.Cell :=
  memPuts (memPuts (memPuts [] (Config.bankLoc 13824 0) (leBytes 48
      (frameMagic + 2 ^ 64 + 2 ^ 128 + 8 * 2 ^ 136 + frameSize 1 8 0 * 2 ^ 320)))
    (Config.bankLoc 13824 0x1000) (leBytes 16 (0x18000 + 72 * 2 ^ 64)))
    (Config.bankLoc 13824 0x8000) (leBytes 72 (0x5CA7FAB0 + 2 ^ 32 + 2 ^ 48 + 72 * 2 ^ 96 + 64 * 2 ^ 160 + idleOp * 2 ^ 512))

/-- The workgroup saved, and first in its core's order; every address lies in the page of the frame. -/
def framed (spatial : Bool) : State :=
  { starting with
    launches := starting.launches.map fun l => { l with priv := true, frames := 0x10000, next := 1 }
    wgs := [{ noWg with launch := 1, phase := .resumed 0, keptSlots := [(0, 0)], spatial := spatial }]
    paddocks := [(5, pinReserve)], mem := frameMem
    tlb := [{ dom := 0, va := 0, size := 2 ^ 57, leaf := BitVec.ofNat 128 (pinLeaf false), absent := none, pinned := true }] }

theorem framed_page (b : Bool) (va : Nat) (h : va < 2 ^ 57) : devicePage 0 true .read va (framed b) = (framed b, some (pinLeaf false)) := by
  have hx : (BitVec.ofNat 128 (pinLeaf false)).toNat = pinLeaf false := by decide +kernel
  have ht : Machine.translate 0 va (framed b) = (framed b, .leaf (pinLeaf false)) := by
    unfold Machine.translate
    rw [if_neg (by omega)]
    have : tlbFind (framed b) 0 va = some { dom := 0, va := 0, size := 2 ^ 57, leaf := BitVec.ofNat 128 (pinLeaf false), absent := none, pinned := true } := by
      simpa [tlbFind, framed] using h
    rw [this]
    simp only [hx]
  have hs : ∀ pa, granuleSealed (framed b) pa = false := fun pa => by simp [granuleSealed, frameEntry, framed, starting, State.reset, smapGet, smapFind, bitAt]
  have ho : ∀ pa, granuleOwner (framed b) pa = 0 := fun pa => by simp [granuleOwner, frameEntry, framed, starting, State.reset, smapGet, smapFind, bitAt]
  have hc : checkLeaf (framed b) { dom := 0, priv := true, core := Config.coreCount } .read (pinLeaf false) va = none := by
    have hp : permissionOk (framed b) { dom := 0, priv := true, core := Config.coreCount } .read (pinLeaf false) va = true := by
      unfold permissionOk
      simp only [hs]
      cases b <;> decide +kernel
    have hd : domainOk (framed b) { dom := 0, priv := true, core := Config.coreCount } (pinLeaf false) va = true := by
      unfold domainOk
      simp only [ho]
      cases b <;> decide +kernel
    have hb : bankShare (framed b) Config.coreCount (pinLeaf false) = none := by cases b <;> decide +kernel
    unfold checkLeaf
    simp only [hp, hd, hb]
    rfl
  have hp : pinFirst (pinLeaf false) 0 va (framed b) = framed b := by
    have : tlbFind (framed b) 0 va =
        some { dom := 0, va := 0, size := 2 ^ 57, leaf := BitVec.ofNat 128 (pinLeaf false), absent := none, pinned := true } := by
      simpa [tlbFind, framed] using h
    simp only [pinFirst, this, if_true]
  unfold devicePage pageFor
  simp only [ht, hc, hp]

theorem framed_read (b : Bool) (n va : Nat) (h : va + n ≤ 2 ^ 57) :
    deviceRead 0 true n va (framed b) =
      (framed b, some ((List.range n).map fun k => memGet frameMem (leafLoc (pinLeaf false) (va + k)))) := by
  have hh : leafHome (pinLeaf false) = 1 := by decide +kernel
  have hm : leafMaterial (framed b) (pinLeaf false) = none := by simp [leafMaterial, hh]
  have hg : ∀ sec, foreignSector (framed b) none sec = false := fun sec => by
    simp [foreignSector, keysDiffer, sectorKey, framed, starting, State.reset, smapGet, smapFind]
  have hf : ∀ sec, sectorFails (framed b) none sec = false := fun sec => by
    have hc : smapGet none (framed b).checks sec = none := rfl
    simp [sectorFails, hg, hc]
  have hr : ∀ loc, memUnder (framed b) none loc = memGet frameMem loc := fun loc => by
    have hx : (framed b).mem = frameMem := by simp only [framed]
    simp [memUnder, hg, hx]
  have hp : ∀ sec, isPoisoned (framed b) sec = false := fun sec => by simp [isPoisoned, framed, starting, State.reset]
  induction n generalizing va with
  | zero => rfl
  | succ n ih =>
    have he : elementBad (framed b) (pinLeaf false) va 1 = false := by
      simp [elementBad, anyPoison, hp, homeFails, hh, hm, hf]
    have hv : verifyElement (pinLeaf false) va 1 (framed b) = framed b := by
      simp [verifyElement, failingSectors, homeFails, hh, hm, hf]
    have hl : loadBytes none (pinLeaf false) va 1 (framed b) = (framed b, [memGet frameMem (leafLoc (pinLeaf false) va)]) := by
      simp [loadBytes, hh, hm, hr, upFrom]
    unfold deviceRead
    rw [framed_page b va (by omega)]
    simp only [hv, he, hl, ih (va + 1) (by omega)]
    simp [List.range_succ_eq_map, Nat.add_comm, Nat.add_left_comm]

theorem field_of_range (f : Nat → Byte) (n off m : Nat) (h : off + m ≤ n) :
    fieldOf ((List.range n).map f) off m = leNat ((List.range m).map fun k => f (off + k)) := by
  unfold fieldOf
  congr 1
  apply List.ext_getElem
  · simp; omega
  · intro k _ _
    simp

/-- The part of a frame that a fabric's restore reads. -/
def fabricPart : List Byte := (List.range 0xF000).map fun k => memGet frameMem (leafLoc (pinLeaf false) (0x11000 + k))

theorem fabric_part : fieldOf fabricPart 0 8 = 0x18000 ∧ fieldOf fabricPart 8 4 = 72 := by
  unfold fabricPart
  rw [field_of_range _ _ _ _ (by decide), field_of_range _ _ _ _ (by decide)]
  decide +kernel

/-- WorkgroupsComeAndGo: an admission, a completion, a save, and a restore in SIMT mode. -/
theorem test_meets_workgroups :
    ((launchOf starting 1).num = 1 ∧ nextCore starting (launchOf starting 1) = some 0 ∧ place0.length = (launchOf starting 1).f ∧
      placesFree (blocksOf (launchOf starting 1).b) place0 (takenPlaces starting 0) = true) ∧
    ((wgOf emptied 1 0).phase = .resident ∧ (wgOf emptied 1 0).slots = [] ∧ handlesSettled emptied (wgOf emptied 1 0) = true ∧
      (emptied.launches.find? fun x => x.num == 1).isSome = true) ∧
    (let s := updWg 1 0 (fun w => { w with phase := .stopping 1 }) base
     (wgOf s 1 0).phase = .stopping 1 ∧ controls s (wgOf s 1 0) = false ∧ awaitsResize s (wgOf s 1 0) = false ∧ s.held = []) ∧
    ((wgOf (framed false) 1 0).spatial = false ∧
      (beginRestore (launchOf (framed false) 1) (wgOf (framed false) 1 0) place0 (framed false)).2.isSome = true) := by decide +kernel

/-- WorkgroupsComeAndGo: a restore in spatial mode. -/
theorem test_meets_restore :
    ∃ (u u1 u2 : State) (h b x : List Byte) (i : Image), let s := framed true
      beginRestore (launchOf s 1) (wgOf s 1 0) place0 s = (u, some h) ∧ (wgOf s 1 0).spatial = true ∧
      getPiece (launchOf s 1) 0 0x1000 0xF000 u = (u1, some b) ∧
      deviceRead (launchOf s 1).dom (launchOf s 1).priv (fieldOf b 8 4) (fieldOf b 0 8) u1 = (u2, some x) ∧ imgNat x 12 4 = fieldOf b 8 4 ∧
      parseImage x (fieldOf b 8 4) = some i ∧
      fabricFits u2 (wgOf s 1 0).core (launchOf s 1) place0 i (fun q => bits (fieldOf b (0x1840 + 4 * q) 4) 11 0) = true := by
  have hd : (launchOf (framed true) 1).dom = 0 := by decide +kernel
  have hp : (launchOf (framed true) 1).priv = true := by decide +kernel
  have hv : frameVa (launchOf (framed true) 1) 0 + 0x1000 = 0x11000 := by decide +kernel
  refine ⟨framed true, framed true, framed true, (List.range 64).map fun k => memGet frameMem (leafLoc (pinLeaf false) (0x10000 + k)), fabricPart,
    (List.range 72).map fun k => memGet frameMem (leafLoc (pinLeaf false) (0x18000 + k)), idleImage, by decide +kernel, by decide +kernel, ?_, ?_, ?_, ?_, ?_⟩
  · unfold getPiece
    rw [hd, hv]
    exact framed_read true 0xF000 0x11000 (by decide)
  · rw [fabric_part.1, fabric_part.2, hd, hp]
    exact framed_read true 72 0x18000 (by decide)
  · rw [fabric_part.2]
    decide +kernel
  · rw [fabric_part.2]
    decide +kernel
  · have : ∀ g : Nat → Nat, fabricFits (framed true) 0 (launchOf (framed true) 1) place0 idleImage g = true := by
      intro g
      have he : idleImage.entries = [] := rfl
      simp only [fabricFits, he, List.filter_nil, List.map_nil, List.sum_nil]
      decide +kernel
    exact this _

/-- A core whose draining fabric has nothing left to do. -/
def drained : State := running { meadow with draining := some 0 }

/-- WorkgroupsComeAndGo: a drain that is over, and a quantum. -/
theorem test_meets_drain :
    (coreAt drained 0).fabric = some { meadow with draining := some 0 } ∧ drainOver drained { meadow with draining := some 0 } = true ∧
    awaitsResize drained (wgOf drained (controlFlock drained 0 meadow).launch (controlFlock drained 0 meadow).wg) = false ∧
    (coreAt (mapFabric 0 landTokens ((List.range 3).foldl (fun s l => streamCompletes 0 l s) drained)) 0).fabric.isSome = true ∧
    ({ base with time := 100000 } : State).quantum < 100000 / 100000 := by decide +kernel

/-! ### Faults, the watchdog, management -/

/-- A ring that takes entries, and the placed workgroup saved for a page. -/
def faulting (written : Bool) : State :=
  updWg 1 0 (fun w => { w with phase := .saved 2, tags := [4] })
    { stocked with
      mgmt := { Mgmt.reset with fwState := 2, owner := some .portA, faultRing := 0x10 }
      faults := [{ tag := 4, va := 0x30000, dom := 0, kind := 0, level := 0, who := .wg 1 0, rcd := none, written := written }] }

theorem test_resume : (wgOf (after (exec (.faultResumeWrite .portB 4) (faulting true))) 1 0).phase = .resumed 0 := by decide +kernel
/-- A workgroup saved with a copy in handle 3 that waits for a page under tag 4, whose launch has stopped. -/
def pastSaved (p : Phase) : State :=
  let j : CopyJob := { copyJob base false 4 0 [] with tag := some 4 }
  updWg 1 0 (fun w => { w with phase := p, keptJobs := [(3, { emptyHandle with st := .filling, job := some j })] }) (faulting true)

/-- The failed resume of a copy's page reaches a saved workgroup, and is ignored where that has stopped for good (R257, R359). -/
theorem test_resume_ignored :
    (waitsOn 4 (handleAt (pastSaved .stopped) 0 3) = false ∧
      ∀ w ∈ (pastSaved .stopped).wgs, w.core = 0 ∧ waitsOn 4 (smapGet emptyHandle w.keptJobs 3) = true ∧ w.phase = .stopped) ∧
    (smapGet emptyHandle (wgOf (resumeCopy 0 3 4 0 true (pastSaved .stopped)) 1 0).keptJobs 3).fault = false ∧
    (smapGet emptyHandle (wgOf (resumeCopy 0 3 4 0 true (pastSaved (.saved 1))) 1 0).keptJobs 3).fault = true := by decide +kernel

theorem test_watchdog : ((wgOf (after (exec (.watchdogRunLimit 1 0)
    { base with time := 1, launches := base.launches.map (fun l => { l with runMs := 0 }) })) 1 0).trap.map fun r => (r.cause, r.detail)) =
    some (0x3F, 2) := by decide +kernel

/-- FaultsResumeAndWatchdogsTrap: the owner, an entry held back, a written entry of a saved workgroup, and both limits. -/
theorem test_meets_faults :
    Safety.Owns .portA (faulting true) ∧ ((faulting false).faults.find? fun e => !e.written).isSome = true ∧ ringOpen (faulting false) = true ∧
    fwReady (faulting true) = true ∧ ((faulting true).faults.find? fun e => e.tag == 4 % 2 ^ 32 && e.written).isSome = true ∧
    (wgOf (faulting true) 1 0).phase = .saved 2 ∧ 4 ∈ (wgOf (faulting true) 1 0).tags ∧
    (let s := updWg 1 0 (fun w => { w with blocked := 10 ^ 9 }) base
     blockedOut s (wgOf s 1 0) = true ∧ (wgOf s 1 0).watched = false) ∧
    (let s := { base with time := 10 ^ 15 }
     ranOut s (wgOf s 1 0) = true ∧ (wgOf s 1 0).watched = false) ∧
    (let s := updWg 1 0 (fun w => { w with watched := true }) base
     (wgOf s 1 0).watched = true) := by
  unfold Safety.Owns
  decide +kernel

def owned (m : Mgmt → Mgmt) : State := { stocked with mgmt := m { Mgmt.reset with fwState := 2, owner := some .portA } }

theorem test_tick : (after (exec .cfgOwnTickDecision (after (exec (.cfgOwnRead .portB) (after (exec (.cfgOwnRead .portA) base)))))).mgmt.owner =
    some .portA := by decide +kernel
theorem test_islands : limitOf (after (exec (.islandLimitWrite .portA true 0b1001) (owned id))) 33 = .cool := by decide +kernel

/-- An island with sensor reading x, a step that it has and one that it owes, since time 0. -/
def island (x : Nat) (has owes : Speed) (ns : Nat) : State :=
  { owned (fun m => { m with speed := .full, sensors := [(63, x)], thermal := [(63, has)], steps := [(63, owes)] }) with time := ns }
def dropped (s : State) : Speed := thermalOf (after (exec (.thermalStepDown 63) s)) 63

/-- An island drops a mode for each 1 ms above 100 °C, though its sensor has fallen when the event is taken, and rises after 10 ms below 90
°C; one that has exceeded 110 °C in Cool mode stops the module (R26). -/
theorem test_thermal_drops :
    let hot := island 10001 .full .full 0
    dropped (heat 63 8000 (elapse 1000000 hot)) = .balanced ∧ dropped (elapse 999999 hot) = .full ∧
    dropped (after (exec (.thermalStepDown 63) (elapse 3000000 hot))) = .cool := by decide +kernel
theorem test_thermal_rises :
    thermalOf (after (exec (.thermalStepUp 63) (elapse 10000000 (island 8999 .balanced .balanced 0)))) 63 = .full ∧
    (after (exec (.thermalStop 63) (heat 63 8000 (heat 63 11500 (owned id))))).mgmt.thermalStop = true := by decide +kernel

/-- OwnershipAndSpeedFollowTheirRules: an island that is hot, cool and between, one that exceeds 110 °C; one that owes a drop, a rise, and
nothing; one that stops the module. -/
theorem test_meets_thermal :
    (let s := island 10001 .full .full 2000000
     10000 < sensorOf s 63 ∧ smapGet 0 s.mgmt.hotSince 63 + 1000000 * 2 ≤ s.time ∧ (owedStep s 63).code + 2 = 2) ∧
    (let s := island 8999 .cool .cool 10000000
     sensorOf s 63 < 9000 ∧ (thermalOf s 63).code ≤ (owedStep s 63).code ∧ (slower s.mgmt.speed (limitOf s 63)).code < (owedStep s 63).code ∧
     (s.time - smapGet 0 s.mgmt.coolSince 63) / 10000000 = 1) ∧
    (∀ x ∈ [9000, 10000], let s := island x .full .balanced 0
     9000 ≤ sensorOf s 63 ∧ sensorOf s 63 ≤ 10000 ∧ (thermalOf s 63).code ≤ (owedStep s 63).code) ∧
    (let s := owned fun m => { m with sensors := [(63, 11001)] }
     11000 < sensorOf s 63 ∧ effectiveSpeed s 63 = .cool ∧ (thermalOf s 63).code ≤ (owedStep s 63).code ∧ s.mgmt.thermalStop = false) ∧
    ((thermalOf (island 0 .full .balanced 0) 63).code < (owedStep (island 0 .full .balanced 0) 63).code) ∧
    (let s := island 0 .balanced .full 0
     (owedStep s 63).code < (thermalOf s 63).code ∧ (slower s.mgmt.speed (limitOf s 63)).code < (thermalOf s 63).code) ∧
    63 ∈ (owned fun m => { m with stops := [63] }).mgmt.stops ∧ 63 ∉ (owned id).mgmt.stops := by decide +kernel

/-- OwnershipAndSpeedFollowTheirRules: with and without an owner, a reader, a lapse; an island that may speed up, and one at Cool. -/
theorem test_meets_ownership :
    (owned id).mgmt.owner ≠ none ∧ base.mgmt.owner = none ∧ ({ base with portA := { PortRegs.reset with reading := true } } : State).portA.reading = true ∧
    (owned fun m => { m with lapse := true }).mgmt.lapse = true ∧ Safety.Owns .portA (owned id) ∧ (0b110 : Nat) % 4 ≠ 3 ∧ 63 < 64 ∧
    (let s := owned fun m => { m with speed := .full, thermal := [(63, .balanced)] }
     (slower s.mgmt.speed (limitOf s 63)).code ≤ (thermalOf s 63).code - 1) ∧
    effectiveSpeed (owned id) 63 = .cool ∧ 7 < 8 := by
  unfold Safety.Owns
  decide +kernel

theorem test_aperture : (portRegs (after (exec (.apertureRead .portA 0x10001 1) { stocked with mem := [(Config.bankLoc 13824 1, 9)] })) .portA).out = 9 ∧
    memGet (after (exec (.apertureWrite .portA 0x10001 { bytes := [7], poisoned := false }) stocked)).mem (Config.bankLoc 13824 1) = 7 := by decide +kernel
/-- A write that comes poisoned leaves its sector poisoned (R370). -/
theorem test_poisoned_write :
    isPoisoned (after (exec (.apertureWrite .portA 0x10001 { bytes := [7], poisoned := true }) stocked)) (Config.bankLoc 13824 0 / 32) = true := by
  decide +kernel
theorem test_invalidation :
    let t := after (exec (.tlbInvGoWrite .portA 0) (owned id))
    t.tlb = [] ∧ (portRegs t .portA).tlbBusy.isSome = true ∧ (portRegs (after (exec (.tlbInvalidationDone .portA) t)) .portA).tlbDone = 1 := by
  decide +kernel

/-- Held lines with the tables of domain 0 from physical address 0 on: a leaf without its accessed bit for address 0x10000 stands at
0x82010. -/
def walked : State :=
  let line (base : Nat) (e : Nat) : Line := { heldLine with base := base, data := leBytes 32 e ++ List.replicate 96 0, st := .shared }
  let next (pa : Nat) : Nat := 1 + 3 * 2 ^ 7 + pa / 512 * 2 ^ 53
  { base with lines := [line 0 (next 0x40000), line 0x40000 (next 0x80000), line 0x80000 (next 0x82000),
      line 0x82000 ((pinLeaf false - 32) * 2 ^ 128)] }

/-- A walk that sets an accessed bit writes its entry at the home: the entry's page is noted as written, and the line's sharers are to be
updated (R221, R230). A table entry at physical address 0 that fails its check value is poisoned (R372). -/
theorem test_walk_writes :
    (let t := Machine.translate 0 0x10000 walked
     t.2 = .leaf (pinLeaf false) ∧ t.1.dirty = [0x80000] ∧ physRead t.1 0x82010 16 = leBytes 16 (pinLeaf false) ∧
     (findLine t.1 0 0x82000).map (·.st) = some .updating) ∧
    (let s := { walked with lines := walked.lines.map fun l => if l.base = 0 then { l with checks := [(0, some 1)] } else l }
     let t := Machine.translate 0 0x10000 s
     t.2 = .bad 0 ∧ isPoisoned t.1 0 = true) := by decide +kernel

/-- A translation of 2 MiB that meets the range goes whole, so an access to another of its units is awaited (R335). -/
theorem test_awaits_whole_pages :
    let e : TlbEntry := { dom := 0, va := 0x200000, size := 0x200000, leaf := 0, absent := none, pinned := false }
    let s := { stocked with tlb := [e] }
    let t := setCur { cur s with pending := [{ noPending with uid := 9, units := [0x25] }] } s
    (usersOf 0 0x20 1 t).uids = [9] ∧ (usersOf 0 0x20 1 { t with tlb := [] }).uids = [] := by decide +kernel

/-- WindowAccessesTakeEffect: the port that does not own the configuration and the one that does; a page that reads and one that does not, a
write of each; an invalidation that begins, and one that ends. -/
theorem test_meets_window :
    (fwReady (owned id) = true ∧ (owned id).mgmt.owner ≠ some .portB) ∧ Safety.Owns .portA (owned id) ∧
    ((devicePage 0 true .read 0x10000 stocked).2 = some (pinLeaf false) ∧
      (devicePage 0 true .read (2 ^ 57) { stocked with mgmt := { stocked.mgmt with apBase := 2 ^ 21 } }).2 = none) ∧
    (let t := deviceWrite 0 true 0x10000 [7] stocked
     t.2 = true ∧ (devicePage 0 true .write 0x10000 t.1).2 = some (pinLeaf false)) ∧
    ((deviceWrite 0 true 0x10000 [7] stocked).2 = true ∧
      (deviceWrite 0 true (2 ^ 57) [7] { stocked with mgmt := { stocked.mgmt with apBase := 2 ^ 21 } }).2 = false) ∧
    (portRegs (owned id) .portA).tlbBusy = none ∧
    (let t := after (exec (.tlbInvGoWrite .portA 0) (owned id))
     (portRegs t .portA).tlbBusy ≠ none ∧ t.feQueue ++ t.feRetry = [] ∧ (portRegs t .portA).tlbNext = [] ∧
     openAccesses t ((portRegs t .portA).tlbBusy.getD (0, 0, 0)).1 = []) := by
  unfold Safety.Owns
  decide +kernel

theorem test_poison : isPoisoned (after (exec (.uncorrectableMemoryError 0x1234 none false) base)) (0x1234 / 32) = true := by decide +kernel
theorem test_state_error : trapped (after (exec (.uncorrectableCoreStateError 0 0 5) base)) = 0x1A := by decide +kernel

theorem test_agent_loss :
    let t := after (exec (.agentLoss 0x50020) lined)
    findLine t 0 0x50000 = none ∧ isPoisoned t (0x50060 / 32) = true ∧ isPoisoned t (0x50080 / 32) = false := by decide +kernel

/-- ErrorsPoisonOrTrap: the last bank, a flock with its workgroup, no ring; a lost agent with and without a held line. -/
theorem test_meets_errors :
    lineOver base 0x50020 = none ∧ lineOver lined 0x5007F = some heldLine ∧
    16127 < 16128 ∧ base.mgmt.errRing = 0 ∧ (flockAt base 0 0).launch ≠ 0 ∧ findWg base (flockAt base 0 0).launch (flockAt base 0 0).wg ≠ none := by
  decide +kernel

theorem test_reset_keeps : (after (exec .moduleReset { paged with mem := [(4, 9)] })).mem = [(4, 9)] ∧
    (after (exec .moduleReset paged)).launches = [] := by decide +kernel
/-- Firmware first reads the image, and then fails on an empty flash. -/
theorem test_boot_fails :
    let t := after (exec .firmwareVerificationDone State.reset)
    State.reset.mgmt.fwState = 0 ∧ t.mgmt.fwState = 1 ∧ (after (exec .firmwareVerificationDone t)).mgmt.fwState = 0x80 := by decide +kernel

/-! ### Commands -/

/-- A header of which the body is not staged yet stands as no image of its format (R344); the last chunk completes it. -/
theorem test_staging :
    let s := stageChunk 0 (leBytes 128 (0x5CA7B007 + 2 ^ 32 + 64 * 2 ^ 64)) State.reset
    s.mgmt.staging = some [(0, 128)] ∧ imageState s = 0x81 ∧ (after (exec .moduleReset s)).mgmt.staging = some [(0, 128)] ∧
    (stageChunk 128 (leBytes 64 1) s).mgmt.staging = none := by decide +kernel

/-- MBOX_DATA of port A with a number in it. -/
def holding (data n : Nat) : State := { owned id with portA := { PortRegs.reset with mbox := { Mbox.reset with data := putBytes [] 0 (leBytes n data) } } }
def cmdOf (code n : Nat) : Nat := code + 256 * n

/-- The same over the tables of domain 0, with the smallest code object at 0x10000: its header alone. -/
def objected (data n : Nat) : State :=
  { holding data n with lines := tabled.lines, mem := memPuts [] (Config.bankLoc 13824 0) (leBytes 64 (0x5CA71500 + 2 ^ 32)) }

theorem test_domain : domActive (after (exec (.setDomain .portA (cmdOf 0x10 66)) (holding (5 + 2 ^ 16 + 2 ^ 64) 66))) 5 = true := by decide +kernel
theorem test_frames : granuleOwner (after (exec (.assignFrames .portA (cmdOf 0x12 15)) (holding (0x10000 + 2 ^ 64 + 5 * 2 ^ 96) 15))) 0x10000 = 5 := by
  decide +kernel
theorem test_unknown : (portRegs (after (exec (.mboxUnknownCommand .portA 0xFF) (owned id))) .portA).mbox.status = 0x81 := by decide +kernel
theorem test_load_object : ((after (exec (.loadCodeObject .portA (cmdOf 0x40 15)) (objected (0x10000 * 2 ^ 24 + 64 * 2 ^ 88) 15))).objects.map
    fun o => (o.va, o.number)) = [(0, 0), (0x10000, 1)] := by decide +kernel
theorem test_unload : ((after (exec (.unloadCodeObject .portA (cmdOf 0x41 4)) (holding 0 4))).objects) = [] := by decide +kernel
theorem test_teardown : domActive (after (exec (.tearDownDomain .portA (cmdOf 0x11 2)) { holding 5 2 with domains := [(0, 3), (5, 1)] })) 5 = false := by
  decide +kernel

/-- CommandsTakeEffectAndEnd: the commands on domains, accepted, with what each asks. -/
theorem test_meets_commands :
    (∀ x ∈ [5 + 2 ^ 16 + 2 ^ 64, 0], let s := holding x 66
      Safety.CommandTaken .portA (cmdOf 0x10 66) 0x10 true 66 s ∧
      descRefused (Safety.begun .portA (cmdOf 0x10 66) s) (mboxNat (Safety.begun .portA (cmdOf 0x10 66) s) .portA 0 2)
        (mboxNat (Safety.begun .portA (cmdOf 0x10 66) s) .portA 2 64) = decide (x = 0)) ∧
    (Safety.CommandTaken .portA (cmdOf 0x11 2) 0x11 true 2 (holding 5 2) ∧
      mboxNat (Safety.begun .portA (cmdOf 0x11 2) (holding 5 2)) .portA 0 2 = 5 ∧
      (∀ l ∈ (stopDomain 5 (Safety.begun .portA (cmdOf 0x11 2) (holding 5 2))).launches, l.dom = 5 → l.ended = true) ∧
      commandDone (clearDomain 5 (stopDomain 5 (Safety.begun .portA (cmdOf 0x11 2) (holding 5 2)))) = true ∧
      commandDone (clearDomain 5 { holding 5 2 with
        feRetry := [request], cores := owing.cores, launches := base.launches.map (fun l => { l with dom := 5 }) }) = false ∧
      (stopDomain 5 { holding 5 2 with launches := base.launches.map (fun l => { l with dom := 5 }) }).launches.any
        (fun l => l.dom == 5 && !l.ended) = true) := by
  unfold Safety.CommandTaken
  decide +kernel

/-- CommandsTakeEffectAndEnd: the commands on frames and keys. -/
theorem test_meets_keys :
    (let s := holding (0x10000 + 2 ^ 64 + 5 * 2 ^ 96) 15
     let u := Safety.begun .portA (cmdOf 0x12 15) s
     Safety.CommandTaken .portA (cmdOf 0x12 15) 0x12 true 15 s ∧ mboxNat u .portA 0 8 = 0x10000 ∧ mboxNat u .portA 8 4 = 1 ∧
     mboxNat u .portA 12 2 = 5 ∧ mboxNat u .portA 14 1 = 0 ∧ keyOf u 0 = some none ∧ granuleKept u 5 0x10000 = false) ∧
    (let s := holding 1 67
     Safety.CommandTaken .portA (cmdOf 0x13 67) 0x13 true 67 s ∧ keyOf (Safety.begun .portA (cmdOf 0x13 67) s) 1 = none ∧
     mboxNat (Safety.begun .portA (cmdOf 0x13 67) s) .portA 1 2 < 1024 ∧
     Safety.CommandTaken .portA (cmdOf 0x14 1) 0x14 true 1 s ∧ smapFind [(1, { owner := 0, material := 0 : Key })] 1 ≠ none) := by
  unfold Safety.CommandTaken
  decide +kernel

/-- CommandsTakeEffectAndEnd: the refusals of frames and keys, at owners 1,023 and 1,024 and scrub fields 1 and 2 (log entry 58). -/
theorem test_meets_key_refusals :
    (∀ x ∈ [(0x10000 + 2 ^ 64 + 1023 * 2 ^ 96, 1023, 0), (0x10000 + 2 ^ 64 + 1024 * 2 ^ 96, 1024, 0), (0x10000 + 2 ^ 64 + 2 ^ 112, 0, 1),
        (0x10000 + 2 ^ 64 + 2 * 2 ^ 112, 0, 2)],
      let s := holding x.1 15
      let u := Safety.begun .portA (cmdOf 0x12 15) s
      Safety.CommandTaken .portA (cmdOf 0x12 15) 0x12 true 15 s ∧ (mboxNat u .portA 12 2, mboxNat u .portA 14 1) = x.2 ∧
      (portRegs (after (exec (.assignFrames .portA (cmdOf 0x12 15)) s)) .portA).mbox.status = (if x.2 = (1023, 0) then 0 else 0x82)) ∧
    (∀ x ∈ [1 + 1023 * 256, 1 + 1024 * 256],
      let s := holding x 67
      Safety.CommandTaken .portA (cmdOf 0x13 67) 0x13 true 67 s ∧ mboxNat (Safety.begun .portA (cmdOf 0x13 67) s) .portA 1 2 = x / 256 ∧
      (portRegs (after (exec (.loadKey .portA (cmdOf 0x13 67)) s)) .portA).mbox.status = (if x / 256 = 1023 then 0 else 0x82)) ∧
    (let s := holding 1 1
     Safety.CommandTaken .portA (cmdOf 0x14 1) 0x14 true 1 s ∧ smapFind (Safety.begun .portA (cmdOf 0x14 1) s).keys 1 = none ∧
     (portRegs (after (exec (.eraseKey .portA (cmdOf 0x14 1)) s)) .portA).mbox.status = 0x82) := by
  unfold Safety.CommandTaken
  decide +kernel

/-- CommandsTakeEffectAndEnd: attestation, firmware, the translation cache's place; a code that is no command's. -/
theorem test_meets_firmware :
    Safety.CommandTaken .portB (cmdOf 0x20 32) 0x20 false 32 (owned id) ∧ Safety.CommandTaken .portA (cmdOf 0x30 4096) 0x30 true 4 (owned id) ∧
    Safety.CommandTaken .portB (cmdOf 0x31 0) 0x31 false 0 (owned id) ∧
    (Safety.CommandTaken .portA (cmdOf 0x43 12) 0x43 true 12 (holding (2 ^ 84) 12) ∧
      mboxNat (Safety.begun .portA (cmdOf 0x43 12) (holding (2 ^ 84) 12)) .portA 8 4 = 2 ^ 20) ∧
    (0xFF % 256 ∉ cmdCodes ∧ (portRegs (owned id) .portA).mbox.run = none ∧ fwReady (owned id) = true) := by
  unfold Safety.CommandTaken
  decide +kernel

/-- CommandsTakeEffectAndEnd: an object that loads, one that does not, one that is unloaded, one to translate. -/
theorem test_meets_objects :
    (let s := objected (0x10000 * 2 ^ 24 + 64 * 2 ^ 88) 15
     let u := Safety.begun .portA (cmdOf 0x40 15) s
     let r := objectRead 0 64 0x10000 u
     Safety.CommandTaken .portA (cmdOf 0x40 15) 0x40 true 15 s ∧ mboxNat u .portA 0 2 = 0 ∧ mboxNat u .portA 3 8 = 0x10000 ∧
     mboxNat u .portA 11 4 = 64 ∧ r.2 = some (leBytes 64 (0x5CA71500 + 2 ^ 32)) ∧
     loadStatus r.1 0 0x10000 (leBytes 64 (0x5CA71500 + 2 ^ 32)) = 0 ∧ loadStatus r.1 0 0x10000 (leBytes 64 0) = 1) ∧
    (Safety.CommandTaken .portA (cmdOf 0x41 4) 0x41 true 4 (holding 0 4) ∧
      ((Safety.begun .portA (cmdOf 0x41 4) (holding 0 4)).objects.find? fun o => o.dom == 0 && o.number == 0).isSome = true) ∧
    (let s := objected (0x10000 * 2 ^ 16 + 64 * 2 ^ 80) 14
     let u := Safety.begun .portA (cmdOf 0x42 14) s
     Safety.CommandTaken .portA (cmdOf 0x42 14) 0x42 true 14 s ∧ (objectRead (mboxNat u .portA 0 2) (mboxNat u .portA 10 4) (mboxNat u .portA 2 8) u).2.isSome = true ∧
     (objectRead 0 64 0x10000 u).1.mgmt.fuse = 0 ∧ domCacheMaps (objectRead 0 64 0x10000 u).1 0 = false) := by
  unfold Safety.CommandTaken
  decide +kernel

/-- A command that has done its work and waits for a request that used a translation it dropped. -/
def answered (uids : List Nat) : State :=
  { owned (fun m => { m with answer := some (0, [7]), awaited := { uids := uids, lines := [] }, serving := some .portA }) with
    feRetry := [request]
    portA := { PortRegs.reset with mbox := { Mbox.reset with run := some (cmdOf 0x40 15) } } }

/-- When a command ends, the other port's command that was accepted meanwhile is served before a new one of its own port (R340). -/
theorem test_command_order :
    let s := { answered [8] with portB := { PortRegs.reset with mbox := { Mbox.reset with run := some (cmdOf 0x20 32) } } }
    let t := after (exec (.loadCodeObject .portA (cmdOf 0x40 15)) s)
    t.mgmt.serving = some .portB ∧ cmdEvent .portB (cmdOf 0x20 32) ∈ t.todo ∧
    (portRegs (after (exec (.checkStagedImage .portA (cmdOf 0x31 0)) t)) .portA).mbox.run = some (cmdOf 0x31 0) := by decide +kernel

theorem test_command_waits :
    (portRegs (after (exec (.loadCodeObject .portA (cmdOf 0x40 15)) (answered [9]))) .portA).mbox.run = some (cmdOf 0x40 15) ∧
    (portRegs (after (exec (.loadCodeObject .portA (cmdOf 0x40 15)) (answered [8]))) .portA).mbox.run = none := by decide +kernel

/-- CommandsTakeEffectAndEnd: a command that still waits, and one that does not. -/
theorem test_meets_answer :
    (∃ r ∈ (answered [9]).feQueue ++ (answered [9]).feRetry, r.uid ∈ (answered [9]).mgmt.awaited.uids) ∧
    ((∀ r ∈ (answered [8]).feQueue ++ (answered [8]).feRetry, r.uid ∉ (answered [8]).mgmt.awaited.uids) ∧
      (∀ n ∈ openAccesses (answered [8]) (answered [8]).mgmt.awaitDom, n.1 ∉ (answered [8]).mgmt.awaited.uids) ∧
      (answered [8]).mgmt.awaited.lines = []) ∧
    ((portRegs (answered [8]) .portA).mbox.run = some (cmdOf 0x40 15) ∧ (answered [8]).mgmt.answer = some (0, [7]) ∧
      (answered [8]).mgmt.serving = some .portA ∧ cmdOf 0x40 15 % 256 ∈ cmdCodes) := by decide +kernel

/-- CommandsTakeEffectAndEnd: the first and the last code that asks for the configuration, from the port that does not own it;
ResetKeepsWhatPowerKeeps: firmware that starts, and that reads its image. -/
theorem test_meets_refusal :
    (∀ c ∈ [cmdOf 0x10 66, cmdOf 0x43 12], c % 256 ∈ [0x10, 0x11, 0x12, 0x13, 0x14, 0x30, 0x40, 0x41, 0x42, 0x43] ∧
      (portRegs (owned id) .portB).mbox.run = none ∧ fwReady (owned id) = true ∧ (owned id).mgmt.owner ≠ some .portB) ∧
    State.reset.mgmt.fwState = 0 ∧ (after (exec .firmwareVerificationDone State.reset)).mgmt.fwState = 1 := by decide +kernel
theorem test_refused_command :
    let t := after (exec (.setDomain .portB (cmdOf 0x10 66)) (owned id))
    (portRegs t .portB).mbox.status = 0x80 ∧ t.mgmt.refused = 1 := by decide +kernel

/-! ### The invariant -/

/-- MemoryKeepsItsCanonicalForm: a state whose step goes on. -/
theorem test_meets_memory : Memory.wf base.mem = true ∧ Safety.Goes base := by
  have h : (match step base with | .next _ => true | _ => false) = true := by decide +kernel
  refine ⟨by decide, ?_⟩
  unfold Safety.Goes
  split at h
  · exact ⟨_, ‹_›⟩
  · cases h

end Sys2Proof
end

section
/-! SUPPORT. What the device reads right after module reset (R37), and the proof of the statement about it. -/

namespace Sys2Proof.Proofs

open Machine Laws

/-! ### Domains after reset (R328) -/

/-- The value of domain 0's descriptor: its active and its privileged bit alone. The kernel computes it, as `2 ^ 512` is past the
elaborator's threshold for exponents. -/
theorem domainZero_toNat : domainZero.toNat = 3 := by decide +kernel

/-- The descriptor map lists domain 0 alone, so every other domain reads the default descriptor. -/
theorem domDesc_reset (d : Nat) : domDesc State.reset d = if d = 0 then 3 else 0 := by
  have hmap : State.reset.domains = smapPut [] 0 domainZero := rfl
  rw [domDesc, hmap, get_put, get_nil]
  by_cases hd : d = 0
  · rw [if_pos hd, if_pos hd, domainZero_toNat]
  · rw [if_neg hd, if_neg hd]
    exact BitVec.toNat_zero

/-- Bit 0 of a descriptor is the active bit. -/
theorem domActive_reset (d : Nat) : domActive State.reset d = decide (d = 0) := by
  rw [domActive, domDesc_reset]
  by_cases hd : d = 0 <;> simp [hd, bitAt]

/-- Bit 1 of a descriptor is the privileged bit. -/
theorem domPrivileged_reset (d : Nat) : domPrivileged State.reset d = decide (d = 0) := by
  rw [domPrivileged, domDesc_reset]
  by_cases hd : d = 0 <;> simp [hd, bitAt]

/-- Settles O60: the fields are those of the reset record, memory is canonical by `wf_reset`, and domains read their descriptors. -/
theorem resetLeavesTheDeviceIdle : Obligations.ResetLeavesTheDeviceIdle := by
  unfold Obligations.ResetLeavesTheDeviceIdle
  refine ⟨wf_reset, rfl, rfl, rfl, rfl, rfl, rfl, rfl, rfl, rfl, rfl, rfl, rfl, rfl, rfl, domActive_reset,
    by rw [domPrivileged_reset, decide_eq_true rfl]⟩

end Sys2Proof.Proofs
end

section
/-! SUPPORT. The management window's registers: who owns the configuration, each island's speed settings and its thermal step (R20, R26, R27,
R32, R33, R35, R36), and the proof of the statement about them. -/

namespace Sys2Proof.Proofs

open Machine Laws

/-! ### Ports and the module's registers -/

@[simp] theorem portRegs_setPort (p q : Port) (x : PortRegs) (s : State) :
    portRegs (setPort p x s) q = if q = p then x else portRegs s q := by
  cases p <;> cases q <;> rfl

@[simp] theorem setPort_mgmt (p : Port) (x : PortRegs) (s : State) : (setPort p x s).mgmt = s.mgmt := by cases p <;> rfl
@[simp] theorem setMgmt_mgmt (f : Mgmt → Mgmt) (s : State) : (setMgmt f s).mgmt = f s.mgmt := rfl
@[simp] theorem portRegs_setMgmt (f : Mgmt → Mgmt) (s : State) (p : Port) : portRegs (setMgmt f s) p = portRegs s p := by cases p <;> rfl
@[simp] theorem portRegs_due (i : Instr) (s : State) (p : Port) : portRegs (due i s) p = portRegs s p := by
  cases p <;> simp [portRegs]

/-- CFG_OWN shows the module's registers alone. -/
theorem cfgOwn_congr {s t : State} (h : t.mgmt = s.mgmt) (p : Port) : cfgOwn t p = cfgOwn s p := by
  simp only [cfgOwn, h]

/-- The owner's write reaches its register. -/
theorem configWrite_owner {p : Port} {s : State} (h : Safety.Owns p s) (body : State → State) : configWrite p body s = body s := by
  obtain ⟨hready, howner⟩ := h
  simp [configWrite, hready, howner]

/-! ### Ownership (R35, R36) -/

@[simp] theorem answerOwn_mgmt (p : Port) (s : State) : (answerOwn p s).mgmt = s.mgmt := setPort_mgmt _ _ s

theorem portRegs_answerOwn (p q : Port) (s : State) : portRegs (answerOwn p s) q =
    if q = p then { portRegs s p with out := cfgOwn s p, outFailed := false, outPoisoned := false, reading := false } else portRegs s q :=
  portRegs_setPort _ _ _ s

/-- A waiting read is answered. -/
def answerReader (s : State) (q : Port) : State := if (portRegs s q).reading then answerOwn q s else s

@[simp] theorem answerReader_mgmt (s : State) (q : Port) : (answerReader s q).mgmt = s.mgmt := by
  unfold answerReader; split <;> simp

theorem reading_answerReader (s : State) (p q : Port) :
    (portRegs (answerReader s p) q).reading = (decide (q ≠ p) && (portRegs s q).reading) := by
  unfold answerReader
  by_cases hq : q = p
  · subst hq
    split <;> simp_all [portRegs_answerOwn]
  · split <;> simp [portRegs_answerOwn, hq]

theorem out_answerReader (s : State) (p q : Port) :
    (portRegs (answerReader s p) q).out = if q = p ∧ (portRegs s q).reading = true then cfgOwn s q else (portRegs s q).out := by
  unfold answerReader
  by_cases hq : q = p
  · subst hq
    split <;> simp_all [portRegs_answerOwn]
  · split <;> simp [portRegs_answerOwn, hq]

/-- Both ports' waiting reads are answered. -/
def answerReaders (s : State) : State := answerReader (answerReader s .portA) .portB

@[simp] theorem answerReaders_mgmt (s : State) : (answerReaders s).mgmt = s.mgmt := by simp [answerReaders]

/-- No read waits any longer, and each that waited has what CFG_OWN shows. -/
theorem portRegs_answerReaders (s : State) (q : Port) :
    (portRegs (answerReaders s) q).reading = false ∧
    ((portRegs s q).reading = true → (portRegs (answerReaders s) q).out = cfgOwn (answerReaders s) q) := by
  have hown := cfgOwn_congr (answerReaders_mgmt s) q
  have hfirst := cfgOwn_congr (answerReader_mgmt s .portA) q
  rw [hown]
  unfold answerReaders
  constructor
  · cases q <;> simp [reading_answerReader]
  · intro hr
    cases q <;> simp [out_answerReader, reading_answerReader, hr, hfirst]

/-- Ownership granted to a port. -/
def grantTo (p : Port) (m : Mgmt) : Mgmt :=
  { m with owner := some p, grants := (m.grants + 1) % 256, refused := 0, lastGrant := some p, lapse := false }

/-- The winner of a tick, where a read waits. -/
theorem tickWinner_reader {s : State} (h : s.portA.reading = true ∨ s.portB.reading = true) :
    tickWinner s = some (if s.portA.reading ∧ (s.portB.reading = false ∨ s.mgmt.lastGrant ≠ some .portA) then .portA else .portB) := by
  unfold tickWinner
  cases ha : s.portA.reading with
  | false =>
    have hb : s.portB.reading = true := h.resolve_left (by simp [ha])
    simp [hb]
  | true => cases s.portB.reading <;> simp

/-- A tick with a winner and no owner grants ownership, and then answers the reads. -/
theorem endTick_grants {s : State} {p : Port} (hw : tickWinner s = some p) (ho : s.mgmt.owner = none) :
    endTick s = answerReaders (setMgmt (grantTo p) s) := by
  simp only [endTick, hw, ho]
  rfl

/-- A tick in which no read waits decides nothing. -/
theorem endTick_idle {s : State} (h : ∀ q, (portRegs s q).reading = false) : endTick s = s := by
  have ha : s.portA.reading = false := h .portA
  have hb : s.portB.reading = false := h .portB
  simp only [endTick, tickWinner, ha, hb]

/-- Whatever lets time pass ends the tick first. -/
theorem elapse_endTick {s : State} {ns : Nat} (hns : ns ≠ 0) (h : endTick (endTick s) = endTick s) :
    elapse ns s = elapse ns (endTick s) := by
  simp only [elapse, if_neg hns, h]

/-- A read of CFG_OWN while there is an owner. -/
theorem exec_cfgOwnRead_owned {s : State} (p : Port) (h : s.mgmt.owner ≠ none) : exec (.cfgOwnRead p) s = .next (answerOwn p s) := by
  simp [exec, execCfgOwnRead, Option.isSome_iff_ne_none, h]

/-- A read of CFG_OWN while there is none. -/
theorem exec_cfgOwnRead_free {s : State} (p : Port) (h : s.mgmt.owner = none) :
    exec (.cfgOwnRead p) s = .next (due .cfgOwnTickDecision (setPort p { portRegs s p with reading := true } s)) := by
  simp [exec, execCfgOwnRead, h]

theorem cfgOwnRead_answers (s : State) (p : Port) :
    (s.mgmt.owner ≠ none → ∃ t, exec (.cfgOwnRead p) s = .next t ∧ (portRegs t p).out = cfgOwn s p ∧ t.mgmt = s.mgmt) ∧
    (s.mgmt.owner = none → ∃ t, exec (.cfgOwnRead p) s = .next t ∧ (portRegs t p).reading = true ∧ .cfgOwnTickDecision ∈ t.todo ∧
      t.mgmt = s.mgmt) :=
  ⟨fun h => ⟨_, exec_cfgOwnRead_owned p h, by simp [portRegs_answerOwn], answerOwn_mgmt p s⟩,
   fun h => ⟨_, exec_cfgOwnRead_free p h, by simp, mem_due _ _, by simp⟩⟩

/-- The decision of a tick (R36), as the statement gives it. -/
theorem cfgOwnTickDecision_grants (s : State) (ho : s.mgmt.owner = none) (hr : s.portA.reading = true ∨ s.portB.reading = true) :
    ∃ t, exec .cfgOwnTickDecision s = .next (elapse 1 t) ∧ (∀ ns, ns ≠ 0 → elapse ns s = elapse ns t) ∧
      let p := if s.portA.reading ∧ (s.portB.reading = false ∨ s.mgmt.lastGrant ≠ some .portA) then Port.portA else Port.portB
      t.mgmt = { s.mgmt with owner := some p, lastGrant := some p, grants := (s.mgmt.grants + 1) % 256, refused := 0, lapse := false } ∧
      ∀ q, (portRegs t q).reading = false ∧ ((portRegs s q).reading = true → (portRegs t q).out = cfgOwn t q) := by
  have hw := tickWinner_reader hr
  have ht := endTick_grants hw ho
  have hports (q : Port) := portRegs_answerReaders (setMgmt (grantTo (if s.portA.reading ∧ (s.portB.reading = false ∨
    s.mgmt.lastGrant ≠ some .portA) then .portA else .portB)) s) q
  rw [← ht] at hports
  have hpass : ∀ ns, ns ≠ 0 → elapse ns s = elapse ns (endTick s) := fun ns hns =>
    elapse_endTick hns (endTick_idle fun q => (hports q).1)
  refine ⟨endTick s, ?_, hpass, ?_, fun q => ?_⟩
  · simp only [exec, execCfgOwnTickDecision, hw, Option.isSome_some, if_true, hpass 1 one_ne_zero]
  · rw [ht]
    exact answerReaders_mgmt _
  · simpa using hports q

/-- What ends ownership, and what does not. -/
theorem ownership_ends (s : State) (p : Port) (h : s.mgmt.owner = some p) :
    (∀ v, v % 4 = 0 → exec (.cfgOwnWrite p v) s = .next { s with mgmt := { s.mgmt with owner := none, lapse := false } }) ∧
    (∀ v, v % 4 ≠ 0 → exec (.cfgOwnWrite p v) s = .next s) ∧ (∀ v, exec (.cfgOwnWrite (otherPort p) v) s = .next s) ∧
    ∃ t, exec (.portLinkLoss p) s = .next t ∧ .ownershipLapse ∈ t.todo ∧ t.mgmt = { s.mgmt with lapse := true } := by
  have hother : p ≠ otherPort p := by cases p <;> decide
  refine ⟨fun v hv => ?_, fun v hv => ?_, fun v => ?_, ?_⟩
  · simp [exec, execCfgOwnWrite, h, hv, setMgmt]
  · simp [exec, execCfgOwnWrite, hv]
  · simp [exec, execCfgOwnWrite, h, hother]
  · refine ⟨due .ownershipLapse (setMgmt (fun m => { m with lapse := true }) (setPort p { portRegs s p with reading := false } s)), ?_,
      mem_due _ _, by simp⟩
    simp [exec, execPortLinkLoss, h]

/-! ### Speed settings (R32, R33) -/

@[simp] theorem code_speedOf (n : Nat) : (speedOf n).code = min 2 n := by
  rcases n with _ | _ | n
  · rfl
  · rfl
  · show 2 = min 2 (n + 2)
    omega

@[simp] theorem speedOf_code (x : Speed) : speedOf x.code = x := by cases x <;> rfl

theorem code_le_two (x : Speed) : x.code ≤ 2 := by cases x <;> decide

@[simp] theorem code_slower (a b : Speed) : (slower a b).code = max a.code b.code := by
  rw [slower, code_speedOf]
  exact min_eq_right (max_le (code_le_two a) (code_le_two b))

theorem eq_cool_iff (x : Speed) : x = .cool ↔ x.code = 2 := by cases x <;> decide

theorem ne_full_iff (x : Speed) : x ≠ .full ↔ 0 < x.code := by cases x <;> decide

/-- Bit i of a number in the model's spelling and in Lean's. -/
theorem bitAt_eq_testBit (x i : Nat) : bitAt x i = x.testBit i := by
  rw [bitAt, Nat.testBit_eq_decide_div_mod_eq, Bool.beq_eq_decide_eq]

/-- The field of an island in a limit register. -/
theorem limitField_eq (v i : Nat) : bits v (2 * i + 1) (2 * i) = v / 4 ^ i % 4 := by
  rw [bits, show 2 * i + 1 + 1 - 2 * i = 2 by omega, pow_mul]
  rfl

/-- One island's field of a limit register comes to the limits; 0b11 leaves them. -/
def takeLimit (first v : Nat) (l : SMap Speed) (i : Nat) : SMap Speed :=
  if v / 4 ^ i % 4 = 3 then l else smapSet .full l (first + i) (speedOf (v / 4 ^ i % 4))

theorem get_takeLimit (first v : Nat) (l : SMap Speed) (i j : Nat) :
    smapGet .full (takeLimit first v l i) j =
      if j = first + i ∧ v / 4 ^ i % 4 ≠ 3 then speedOf (v / 4 ^ i % 4) else smapGet .full l j := by
  unfold takeLimit
  by_cases h : v / 4 ^ i % 4 = 3 <;> simp [h]

/-- The fields of the first n islands, taken in turn. -/
theorem get_takeLimits (first v n : Nat) (l : SMap Speed) (j : Nat) :
    smapGet .full ((List.range n).foldl (takeLimit first v) l) j =
      if first ≤ j ∧ j < first + n ∧ v / 4 ^ (j - first) % 4 ≠ 3 then speedOf (v / 4 ^ (j - first) % 4) else smapGet .full l j := by
  induction n with
  | zero =>
    rw [if_neg (by omega)]
    rfl
  | succ n ih =>
    rw [List.range_succ, List.foldl_append, List.foldl_cons, List.foldl_nil, get_takeLimit, ih]
    by_cases hj : j = first + n
    · subst hj
      simp
    · have : first ≤ j ∧ j < first + (n + 1) ↔ first ≤ j ∧ j < first + n := by omega
      simp only [hj, false_and, if_false, ← and_assoc, this]

/-- A limit register's write by the owner. -/
theorem exec_islandLimitWrite {s : State} {p : Port} (h : Safety.Owns p s) (upper : Bool) (v : Nat) :
    exec (.islandLimitWrite p upper v) s = .next (pokeSpeed (setMgmt (fun m =>
      { m with limits := (List.range 32).foldl (takeLimit (if upper then 32 else 0) v) m.limits }) s)) := by
  simp only [exec, execIslandLimitWrite, configWrite_owner h, limitField_eq]
  rfl

/-- The owner's writes of the speed settings, as the statement gives them. -/
theorem speedSettings_written (s : State) (p : Port) (v : Nat) (h : Safety.Owns p s) :
    (v % 4 ≠ 3 → exec (.pwrModeWrite p v) s =
      .next (pokeSpeed { s with mgmt := { s.mgmt with speed := speedOf (v % 4), narrow := v.testBit 2 } })) ∧
    ∀ upper, ∃ t, exec (.islandLimitWrite p upper v) s = .next (pokeSpeed t) ∧ t = { s with mgmt := { s.mgmt with limits := t.mgmt.limits } } ∧
      ∀ i < 32, (v / 4 ^ i % 4 ≠ 3 → limitOf t ((if upper then 32 else 0) + i) = speedOf (v / 4 ^ i % 4)) ∧
        (v / 4 ^ i % 4 = 3 → limitOf t ((if upper then 32 else 0) + i) = limitOf s ((if upper then 32 else 0) + i)) ∧
        limitOf t ((if upper then 0 else 32) + i) = limitOf s ((if upper then 0 else 32) + i) := by
  constructor
  · intro hv
    simp [exec, execPwrModeWrite, configWrite_owner h, hv, setMgmt, bitAt_eq_testBit]
  · intro upper
    refine ⟨_, exec_islandLimitWrite h upper v, rfl, fun i hi => ⟨fun hf => ?_, fun hf => ?_, ?_⟩⟩
    · exact (get_takeLimits _ v 32 _ _).trans (by simp [hi, hf])
    · exact (get_takeLimits _ v 32 _ _).trans (by simp [hf, limitOf])
    · refine (get_takeLimits _ v 32 _ _).trans (if_neg ?_)
      cases upper
      · simp only [Bool.false_eq_true, if_false]
        omega
      · simp only [if_true]
        omega

/-! ### Thermal steps (R26; log entries 60, 61, 79) -/

theorem mem_setInsert_self (l : List Nat) (k : Nat) : k ∈ setInsert l k := by
  induction l with
  | nil => exact List.mem_singleton_self k
  | cons a r ih =>
    rw [setInsert]
    split
    · exact List.mem_cons_self
    · split
      · subst a
        exact List.mem_cons_self
      · exact List.mem_cons_of_mem _ ih

/-- The step that an island owes once its sensor and the time have been looked at. -/
def stepDue (s : State) (i : Nat) : Speed :=
  speedOf (allowedStep s i + hotDrops s i - min (coolRises s i) (allowedStep s i - (otherSettings s i).code))

theorem owed_le_allowedStep (s : State) (i : Nat) : (owedStep s i).code ≤ allowedStep s i := by
  unfold allowedStep
  split
  · exact le_rfl
  · exact le_max_left _ _

/-- An island that owes no rise owes what it owed. -/
theorem allowedStep_of_le {s : State} {i : Nat} (h : (thermalOf s i).code ≤ (owedStep s i).code) :
    allowedStep s i = (owedStep s i).code := if_pos h

theorem owedStep_latchIsland (s : State) (i : Nat) : owedStep (latchIsland s i) i = stepDue s i := by
  by_cases hidle : allowedStep s i = 0 ∧ hotDrops s i = 0 ∧ sensorOf s i ≤ 11000
  · have hlatch : latchIsland s i = s := if_pos hidle
    obtain ⟨hnow, hdrops, -⟩ := hidle
    have howed : (owedStep s i).code = 0 := Nat.le_zero.mp (hnow ▸ owed_le_allowedStep s i)
    rw [hlatch, stepDue, hnow, hdrops, ← speedOf_code (owedStep s i), howed]
    simp
  · have hlatch : (latchIsland s i).mgmt.steps = smapSet .full s.mgmt.steps i (stepDue s i) :=
      congrArg (fun t : State => t.mgmt.steps) (if_neg hidle)
    rw [owedStep, hlatch, get_set, if_pos rfl]

/-- An island at Cool that exceeds 110 °C is to stop the module. -/
theorem mem_stops_latchIsland {s : State} {i : Nat} (hr : 11000 < sensorOf s i) (hcool : slower (otherSettings s i) (stepDue s i) = .cool)
    (hstop : s.mgmt.thermalStop = false) : i ∈ (latchIsland s i).mgmt.stops := by
  have hbusy : ¬(allowedStep s i = 0 ∧ hotDrops s i = 0 ∧ sensorOf s i ≤ 11000) := fun h => absurd h.2.2 (by omega)
  have hlatch : (latchIsland s i).mgmt.stops = if 11000 < sensorOf s i ∧ slower (otherSettings s i) (stepDue s i) = .cool ∧
      !s.mgmt.thermalStop then setInsert s.mgmt.stops i else s.mgmt.stops := congrArg (fun t : State => t.mgmt.stops) (if_neg hbusy)
  rw [hlatch, if_pos ⟨hr, hcool, by simp [hstop]⟩]
  exact mem_setInsert_self _ _

/-- The sensor is not below 90 °C: no rise comes due. -/
theorem code_stepDue_warm {s : State} {i : Nat} (h : 9000 ≤ sensorOf s i) :
    (stepDue s i).code = min 2 (allowedStep s i + hotDrops s i) := by
  have hrises : coolRises s i = 0 := if_neg (by omega)
  rw [stepDue, code_speedOf, hrises, Nat.zero_min, Nat.sub_zero]

/-- The sensor is not above 100 °C: no drop comes due. -/
theorem hotDrops_zero {s : State} {i : Nat} (h : sensorOf s i ≤ 10000) : hotDrops s i = 0 := if_neg (by omega)

/-- A mode down for each ms above 100 °C. -/
theorem owes_drops {s : State} {i k : Nat} (hr : 10000 < sensorOf s i) (ht : smapGet 0 s.mgmt.hotSince i + 1000000 * k ≤ s.time) :
    min 2 ((owedStep s i).code + k) ≤ (owedStep (latchIsland s i) i).code := by
  have hdrops : k ≤ hotDrops s i := by
    rw [hotDrops, if_pos hr, Nat.le_div_iff_mul_le (by decide)]
    omega
  have howed := owed_le_allowedStep s i
  rw [owedStep_latchIsland, code_stepDue_warm (by omega)]
  omega

/-- A mode up for each 10 ms below 90 °C, but not above the other two settings. -/
theorem owes_rises {s : State} {i : Nat} (hr : sensorOf s i < 9000) (hh : (thermalOf s i).code ≤ (owedStep s i).code) :
    (owedStep (latchIsland s i) i).code = (owedStep s i).code -
      min ((s.time - smapGet 0 s.mgmt.coolSince i) / 10000000) ((owedStep s i).code - (otherSettings s i).code) := by
  have hrises : coolRises s i = (s.time - smapGet 0 s.mgmt.coolSince i) / 10000000 := if_pos hr
  have hle := code_le_two (owedStep s i)
  rw [owedStep_latchIsland, stepDue, code_speedOf, hotDrops_zero (by omega), hrises, allowedStep_of_le hh]
  omega

/-- Between 90 and 100 °C a step stays as it is (log entry 60). -/
theorem owes_same {s : State} {i : Nat} (hlow : 9000 ≤ sensorOf s i) (hhigh : sensorOf s i ≤ 10000)
    (hh : (thermalOf s i).code ≤ (owedStep s i).code) : owedStep (latchIsland s i) i = owedStep s i := by
  have hle := code_le_two (owedStep s i)
  rw [← speedOf_code (owedStep (latchIsland s i) i), owedStep_latchIsland, code_stepDue_warm hlow, hotDrops_zero hhigh, allowedStep_of_le hh,
    Nat.add_zero, min_eq_right hle, speedOf_code]

/-- An island at Cool above 110 °C owes the stop of the module. -/
theorem owes_stop {s : State} {i : Nat} (hr : 11000 < sensorOf s i) (hcool : effectiveSpeed s i = .cool)
    (hh : (thermalOf s i).code ≤ (owedStep s i).code) (hstop : s.mgmt.thermalStop = false) : i ∈ (latchIsland s i).mgmt.stops := by
  refine mem_stops_latchIsland hr ?_ hstop
  rw [eq_cool_iff, effectiveSpeed, code_slower, code_slower] at hcool
  have hspeed := code_le_two s.mgmt.speed
  have hlimit := code_le_two (limitOf s i)
  rw [eq_cool_iff, code_slower, code_stepDue_warm (by omega), allowedStep_of_le hh, otherSettings, code_slower]
  omega

theorem mayRise_iff (s : State) (i : Nat) : mayRise s i = true ↔ (otherSettings s i).code < (thermalOf s i).code := by
  simp only [mayRise, Bool.and_eq_true, bne_iff_ne, ne_full_iff, decide_eq_true_eq]
  omega

theorem exec_thermalStepDown {s : State} {i : Nat} (hi : i < 64) : exec (.thermalStepDown i) s =
    .next (if (owedStep s i).code ≤ (thermalOf s i).code then s else setThermal i (speedOf ((thermalOf s i).code + 1)) s) := by
  simp [exec, execThermalStepDown, Nat.not_le.mpr hi]

theorem exec_thermalStepUp {s : State} {i : Nat} (hi : i < 64) : exec (.thermalStepUp i) s =
    .next (if (thermalOf s i).code ≤ (owedStep s i).code ∨ (thermalOf s i).code ≤ (otherSettings s i).code then s
      else setThermal i (speedOf ((thermalOf s i).code - 1)) s) := by
  have hrise : mayRise s i = false ↔ (thermalOf s i).code ≤ (otherSettings s i).code := by
    rw [← Bool.not_eq_true, mayRise_iff, not_lt]
  simp [exec, execThermalStepUp, Nat.not_le.mpr hi, hrise]

theorem exec_thermalStop (s : State) (i : Nat) : exec (.thermalStop i) s =
    .next (if i ∈ s.mgmt.stops then { s with mgmt := { s.mgmt with thermalStop := true, thermalEvent := true, stops := [] } } else s) := by
  simp [exec, execThermalStop, setMgmt]

/-- A clock switch shows the island's mode, and changes nothing else. -/
theorem islandClockSwitch_shows {s : State} {i : Nat} (hi : i < 64) :
    ∃ t, exec (.islandClockSwitch i) s = .next t ∧ speedNow t i = effectiveSpeed s i ∧ (∀ j, j ≠ i → speedNow t j = speedNow s j) ∧
      t = { s with mgmt := { s.mgmt with now := t.mgmt.now } } := by
  have hnow (j : Nat) := get_set Speed.cool s.mgmt.now i (effectiveSpeed s i) j
  refine ⟨setMgmt (fun m => { m with now := smapSet .cool m.now i (effectiveSpeed s i) }) s, ?_, (hnow i).trans (if_pos rfl),
    fun j hj => (hnow j).trans (if_neg hj), rfl⟩
  simp [exec, execIslandClockSwitch, Nat.not_le.mpr hi]

/-- Settles O54: the configuration's owner, the speed settings and each island's thermal step in turn. -/
theorem ownershipAndSpeedFollowTheirRules : Obligations.OwnershipAndSpeedFollowTheirRules := by
  unfold Obligations.OwnershipAndSpeedFollowTheirRules
  refine ⟨cfgOwnRead_answers, cfgOwnTickDecision_grants, ownership_ends, fun s h => ?_, speedSettings_written, fun s i hi => ?_,
    fun s n d hn => ?_⟩
  · simp [exec, execOwnershipLapse, h, setMgmt]
  · refine ⟨fun k => owes_drops, fun hr hh _ => owes_rises hr hh, owes_same, owes_stop, fun h => ?_, fun h => ?_,
      fun h (ho : (otherSettings s i).code < (thermalOf s i).code) => ?_,
      fun (h : _ ∨ (thermalOf s i).code ≤ (otherSettings s i).code) => ?_, fun h => ?_, fun h => ?_, islandClockSwitch_shows hi⟩
    · rw [exec_thermalStepDown hi, if_neg (Nat.not_le.mpr h)]
    · rw [exec_thermalStepDown hi, if_pos h]
    · rw [exec_thermalStepUp hi, if_neg (not_or.mpr ⟨Nat.not_le.mpr h, Nat.not_le.mpr ho⟩)]
    · rw [exec_thermalStepUp hi, if_pos h]
    · rw [exec_thermalStop, if_pos h]
    · rw [exec_thermalStop, if_neg h]
  · simp [exec, execCxlDeviceEnumeration, Nat.not_le.mpr hn, setMgmt]

end Sys2Proof.Proofs
end

section
/-! SUPPORT. Module reset and the boot ROM (R37, R342 to R344), and the proof of the statement about them. -/

namespace Sys2Proof.Proofs

open Machine Laws

/-! ### Firmware's start (R328, R342, R343) -/

/-- A sequence of writes at homes changes the memory side alone. -/
theorem memorySide_physWrites (l : List (Nat × List Byte)) (s : State) :
    MemorySide s (l.foldl (fun s e => physWrite e.1 e.2 s) s) :=
  memorySide_foldl (fun s (e : Nat × List Byte) => physWrite e.1 e.2 s) (fun s e => memorySide_physWrite e.2 e.1 s) l s

/-- Domain 0's root and tables leave the module's registers as they were, the error ring's apart. -/
theorem setZeroDomain_mgmt (s : State) :
    ∃ hd po du, (setZeroDomain s).mgmt = { s.mgmt with errHead := hd, errPoisoned := po, errDue := du } := by
  obtain ⟨⟨k, hd, po, du, h⟩, -, -⟩ := memorySide_physWrites Config.zeroTables
    { s with domains := smapSet 0 s.domains 0 (domainZero ||| BitVec.ofNat 512 (Config.zeroRoot % 2 ^ 51 * 2 ^ 77)) }
  exact ⟨hd, po, du, congrArg State.mgmt h⟩

theorem setZeroDomain_fuse (s : State) : (setZeroDomain s).mgmt.fuse = s.mgmt.fuse := by
  obtain ⟨hd, po, du, h⟩ := setZeroDomain_mgmt s
  rw [h]

/-- An image whose staging is not complete is no image, or is as one of a wrong format (R344). -/
theorem imageState_staging {s : State} (h : s.mgmt.staging ≠ none) : imageState s = 0x80 ∨ imageState s = 0x81 := by
  unfold imageState
  by_cases hm : flashNat s 0 4 ≠ 0x5CA7B007
  · exact .inl (if_pos hm)
  · rw [if_neg hm, if_pos (.inl (Option.isSome_iff_ne_none.mpr h))]
    exact .inr rfl

/-- The boot ROM's first step: it reads the image. -/
theorem exec_firmware_reads {s : State} (h : s.mgmt.fwState = 0) :
    exec .firmwareVerificationDone s = .next (due .firmwareVerificationDone (setMgmt (fun m => { m with fwState := 1 }) s)) := by
  simp [exec, execFirmwareVerificationDone, h]

/-- An image that does not verify: its failure stands in FW_STATUS. -/
theorem exec_firmware_fails {s : State} (h : s.mgmt.fwState = 1) (hi : imageState s ≠ 2) :
    exec .firmwareVerificationDone s = .next (setMgmt (fun m => { m with fwState := imageState s }) s) := by
  simp [exec, execFirmwareVerificationDone, h, hi]

/-- What the start of a verified image makes of the module's registers. -/
def startedMgmt (s : State) (m : Mgmt) : Mgmt :=
  { m with fwState := 2, fwVersion := flashNat s 6 1, fwCommit := flashNat s 7 1 == 1, fwHash := Config.sha512 (imageWhole s),
           fuse := if (flashNat s 7 1 == 1) = true then max m.fuse (flashNat s 6 1) else m.fuse }

/-- An image that verifies starts. -/
theorem exec_firmware_starts {s : State} (h : s.mgmt.fwState = 1) (hi : imageState s = 2) :
    exec .firmwareVerificationDone s = .next (setMgmt (startedMgmt s) (setZeroDomain s)) := by
  simp only [exec, execFirmwareVerificationDone, h, hi]
  rfl

/-- The second step of firmware's verification, as the statement gives it. -/
theorem firmwareVerified (s : State) (h : s.mgmt.fwState = 1) :
    ∃ t, exec .firmwareVerificationDone s = .next t ∧ t.mgmt.fwState = imageState s ∧
      domRoot (domDesc t 0) = (if imageState s = 2 then domRoot (domDesc (setZeroDomain s) 0) else domRoot (domDesc s 0)) ∧
      s.mgmt.fuse ≤ t.mgmt.fuse ∧ t.mgmt.fwVersion = (if imageState s = 2 then flashNat s 6 1 else s.mgmt.fwVersion) ∧
      t.mgmt.fuse = (if imageState s = 2 ∧ flashNat s 7 1 = 1 then max s.mgmt.fuse (flashNat s 6 1) else s.mgmt.fuse) := by
  by_cases hi : imageState s = 2
  · have hfuse : (startedMgmt s (setZeroDomain s).mgmt).fuse =
        if flashNat s 7 1 = 1 then max s.mgmt.fuse (flashNat s 6 1) else s.mgmt.fuse := by
      simp [startedMgmt, setZeroDomain_fuse]
    refine ⟨_, exec_firmware_starts h hi, hi.symm, by rw [if_pos hi]; rfl, ?_, by rw [if_pos hi]; rfl, hfuse.trans (by simp [hi])⟩
    show s.mgmt.fuse ≤ (startedMgmt s (setZeroDomain s).mgmt).fuse
    rw [hfuse]
    split
    · exact le_max_left _ _
    · exact le_rfl
  · exact ⟨_, exec_firmware_fails h hi, rfl, by rw [if_neg hi]; rfl, le_rfl, by rw [if_neg hi]; rfl, by simp [hi, setMgmt]⟩

/-- Settles O57: the reset record's fields by definition, and then the two steps of the boot ROM. -/
theorem resetKeepsWhatPowerKeeps : Obligations.ResetKeepsWhatPowerKeeps := by
  unfold Obligations.ResetKeepsWhatPowerKeeps
  refine ⟨fun s => ?_, fun s h => ?_, fun s => imageState_staging, firmwareVerified⟩
  · exact ⟨_, rfl, rfl, rfl, rfl, rfl, rfl, rfl, rfl, rfl, rfl, rfl, rfl, rfl, rfl, rfl, rfl, rfl, rfl, List.mem_singleton_self _⟩
  · exact ⟨_, exec_firmware_reads h, mem_due _ _, due_mgmt _ _, due_mem _ _⟩

end Sys2Proof.Proofs
end

section
/-! SUPPORT. A state in which an invalidation changes a held translation that lies outside its range, and the refutation of the statement
about window accesses. -/

namespace Sys2Proof.Proofs

open Machine Laws

/-! ### Invalidation and pinned pages (R165, R335; log entry 78) -/

/-- A leaf with all grants, which names a frame and the first quarter of slice bank 13824 (R163). -/
def quarterLeaf (frame : Nat) : Nat := 0x803F + frame * 2 ^ 48 + 13824 * 2 ^ 100

/-- A held translation of domain 0 with its pinned mark. -/
def pinnedEntry (va frame : Nat) : TlbEntry :=
  { dom := 0, va := va, size := 0x10000, leaf := BitVec.ofNat 128 (quarterLeaf frame), absent := none, pinned := true }

/-- Two pages of domain 0 name one quarter, which pins the second. The tables no longer map that page, and TLB_INV_VA names its unit
alone. -/
def sharedQuarter : State :=
  { State.reset with
    mgmt := { Mgmt.reset with fwState := 2 }
    portA := { PortRegs.reset with tlbVa := 0x20001 }
    tlb := [pinnedEntry 0x10000 1, pinnedEntry 0x20000 2]
    pins := [(leafLoc (quarterLeaf 2) 0x20000 / 65536, { frame := 2, owner := 0, maps := [(0, 0x20000)] })] }

/-- The state in which a port's TLB_INV_GO_WRITE leaves the device: its invalidation has begun. -/
def invalidating (p : Port) (v : Nat) (s : State) : State :=
  startInval p (v % 1024, bits (portRegs s p).tlbVa.toNat 56 16, bits (portRegs s p).tlbVa.toNat 15 0)
    (setPort p { portRegs s p with tlbGo := v % 1024 } s)

theorem exec_tlbInvGoWrite {p : Port} {s : State} (v : Nat) (hready : fwReady s = true) (hidle : (portRegs s p).tlbBusy = none) :
    exec (.tlbInvGoWrite p v) s = .next (invalidating p v s) := by
  simp [exec, execTlbInvGoWrite, invalidating, hready, hidle]

/-- The invalidation of the second page empties the quarter, and the first page's translation, which lies outside the range, loses its
pinned mark. -/
theorem sharedQuarter_invalidating :
    let t := invalidating .portA 0 sharedQuarter
    t.tlb = [{ pinnedEntry 0x10000 1 with pinned := false }] ∧ t.mem = sharedQuarter.mem := by
  decide +kernel

/-- The first page's translation is held, and lies outside the range that the invalidation names. -/
theorem sharedQuarter_outside :
    let e := pinnedEntry 0x10000 1
    let va := (portRegs sharedQuarter .portA).tlbVa.toNat
    e ∈ sharedQuarter.tlb ∧ ¬(e.dom = 0 % 1024 ∧ (bits va 15 0 = 0 ∨
      (e.va < (bits va 56 16 + bits va 15 0) * 65536 ∧ bits va 56 16 * 65536 < e.va + e.size))) := by
  decide +kernel

/-- Refutes O55: the statement has an invalidation leave each held translation outside its range as it was, but where it unpins a page,
the translations that name the same quarter lose their pinned mark (log entry 78), those outside the range too. -/
theorem not_windowAccessesTakeEffect : ¬ Obligations.WindowAccessesTakeEffect := by
  unfold Obligations.WindowAccessesTakeEffect
  rintro ⟨-, -, -, -, hgo, -⟩
  obtain ⟨t, hexec, -, -, -, -, hheld⟩ := hgo sharedQuarter .portA 0 rfl rfl
  obtain ⟨htlb, hmem⟩ := sharedQuarter_invalidating
  obtain rfl : invalidating .portA 0 sharedQuarter = t := Host.Outcome.next.inj ((exec_tlbInvGoWrite 0 rfl rfl).symm.trans hexec)
  obtain ⟨hin, hout⟩ := sharedQuarter_outside
  have hkept : pinnedEntry 0x10000 1 ∈ (invalidating .portA 0 sharedQuarter).tlb := (hheld _).mpr ⟨hin, hout, hmem⟩
  rw [htlb, List.mem_singleton] at hkept
  exact absurd (congrArg TlbEntry.pinned hkept) (by decide)

end Sys2Proof.Proofs
end

section
/-! SUPPORT. Barriers, yields, naps and the count of R255 (R45, R255, R276 to R278), and the proof of the statement about them. -/

namespace Sys2Proof.Proofs

open Machine Laws

/-! ### What the proofs read of an instruction and of a state -/

/-- An instruction that names no v register, and whose fields hold assigned codes, has its effect. -/
theorem checked_legal {i : Instr} (m : Mask) (body : State → State) (s : State) (h : legalForm i = true) :
    checked i m (legalForm i) [] body s = .next (body s) :=
  checked_accepts i m [] body s ⟨h, fun _ hn => absurd hn List.not_mem_nil⟩

theorem memorySide_isles {s t : State} (h : MemorySide s t) : t.isles = s.isles := by
  obtain ⟨⟨_, _, _, _, e⟩, -, -⟩ := h
  rw [e]

theorem scheduleSide_isles {s t : State} (h : ScheduleSide s t) : t.isles = s.isles := by
  obtain ⟨⟨_, e⟩, -⟩ := h
  rw [e]

/-- Storing a flock moves no island's clock, whatever becomes of its frame. -/
theorem isles_setFlockStack (c f : Nat) (x : Flock) (s : State) : (setFlockStack c f x s).isles = s.isles := by
  unfold setFlockStack
  simp only
  split
  · rfl
  · have h := memorySide_deviceWrite (launchOf (setFlock c f x s) x.launch).dom true
      (flockVa (launchOf (setFlock c f x s) x.launch) x.wg x.index + 0x400) (stackBytes x.stack) (setFlock c f x s)
    split <;> rename_i e <;> rw [e] at h
    · exact (memorySide_isles h).trans (setFlock_isles c f x s)
    · exact (scheduleSide_isles (scheduleSide_frameLost _ _)).trans ((memorySide_isles h).trans (setFlock_isles c f x s))

@[simp] theorem clockOf_setFlockStack (c f : Nat) (x : Flock) (s : State) (d : Nat) : clockOf (setFlockStack c f x s) d = clockOf s d := by
  rw [clockOf, isles_setFlockStack, clockOf]

@[simp] theorem withPath_pathOf (f : Flock) (second : Bool) : withPath f second (pathOf f second) = f := by cases second <;> rfl
@[simp] theorem arrived_withPath (f : Flock) (second : Bool) (p : Option Path) : (withPath f second p).arrived = f.arrived := by
  cases second <;> rfl

/-! ### When a barrier completes (R42, R217, R276) -/

theorem allArrived_iff (s : State) (w : Wg) (n : Nat) : (flocksOf s w).all (fun x => hasArrived n x.2) = true ↔
    ∀ x ∈ w.slots, smapGet 0 (flockAt s w.core x).arrived n ||| (flockAt s w.core x).exited = BitVec.allOnes 32 := by
  simp only [flocksOf, hasArrived, List.all_map, List.all_eq_true, Function.comp_apply, beq_iff_eq]

theorem anyArrived_iff (s : State) (w : Wg) (n : Nat) : (flocksOf s w).any (fun x => smapGet 0 x.2.arrived n != 0) = true ↔
    ∃ x ∈ w.slots, smapGet 0 (flockAt s w.core x).arrived n ≠ 0 := by
  simp only [flocksOf, List.any_map, List.any_eq_true, Function.comp_apply, bne_iff_ne]

theorem allPerformed_iff (s : State) (w : Wg) (n : Nat) : allPerformed s w n = true ↔
    ¬∃ x ∈ w.slots, ∃ e ∈ openOps s w.core x, e.mask &&& smapGet 0 (flockAt s w.core x).arrived n ≠ 0 := by
  simp only [allPerformed, flocksOf, List.all_map, List.all_eq_true, Function.comp_apply, beq_iff_eq, not_exists, not_and, not_not]

/-- A barrier that some thread has not reached, or that an earlier access of an arrived thread holds back, changes nothing. -/
theorem barrierCheck_waits {s : State} {l k n : Nat}
    (h : (∃ x ∈ (wgOf s l k).slots, smapGet 0 (flockAt s (wgOf s l k).core x).arrived n ||| (flockAt s (wgOf s l k).core x).exited ≠
        BitVec.allOnes 32) ∨
      ∃ x ∈ (wgOf s l k).slots, ∃ e ∈ openOps s (wgOf s l k).core x,
        e.mask &&& smapGet 0 (flockAt s (wgOf s l k).core x).arrived n ≠ 0) :
    barrierCheck l k n s = s := by
  refine if_neg ?_
  rintro ⟨hall, -, hperf⟩
  rcases h with ⟨x, hx, hne⟩ | hbehind
  · exact hne ((allArrived_iff s _ n).mp hall x hx)
  · exact (allPerformed_iff s _ n).mp hperf hbehind

/-! ### What a release does (R276) -/

/-- One slot of a core lets the paths of its flock that wait at a barrier go on. -/
def releaseSlot (n core : Nat) (s : State) (f : Nat) : State :=
  setFlockStack core f (releaseFlock n (clockOf s core) (flockAt s core f)) s

/-- A barrier that every thread has reached, with nothing before it open, releases the flocks of its workgroup one after another. -/
theorem barrierCheck_releases {s : State} {l k n : Nat} (hall : (flocksOf s (wgOf s l k)).all (fun x => hasArrived n x.2) = true)
    (hany : (flocksOf s (wgOf s l k)).any (fun x => smapGet 0 x.2.arrived n != 0) = true) (hperf : allPerformed s (wgOf s l k) n = true) :
    barrierCheck l k n s =
      (wgOf s l k).slots.foldl (releaseSlot n (wgOf s l k).core) (updWg l k (fun w => { w with blocked := 0 }) s) :=
  if_pos ⟨hall, hany, hperf⟩

theorem flockAt_releaseSlot (n core : Nat) (s : State) (f x : Nat) : flockAt (releaseSlot n core s f) core x =
    if x = f then releaseFlock n (clockOf s core) (flockAt s core x) else flockAt s core x := by
  rw [releaseSlot, flockAt_setFlockStack]
  by_cases h : x = f
  · subst h; simp
  · simp [h]

/-- Slots without repeats are each released once, as their flocks stood, at the clock of their island. -/
theorem flockAt_releaseSlots (n core : Nat) (l : List Nat) (s : State) (hl : l.Nodup) (x : Nat) :
    flockAt (l.foldl (releaseSlot n core) s) core x =
      if x ∈ l then releaseFlock n (clockOf s core) (flockAt s core x) else flockAt s core x := by
  induction l generalizing s with
  | nil => simp
  | cons a r ih =>
    obtain ⟨ha, hr⟩ := List.nodup_cons.mp hl
    rw [List.foldl_cons, ih _ hr, flockAt_releaseSlot, releaseSlot, clockOf_setFlockStack]
    by_cases hx : x = a
    · subst hx; simp [ha]
    · simp [hx]

/-- What a release does to the path of one PC slot. -/
def releaseAt (n clk : Nat) (second : Bool) (f : Flock) : Flock :=
  match pathOf f second with
  | some p => if p.wait = .bar n then advancePath 1 clk second f else f
  | none => f

/-- A flock with the marks of a barrier cleared, and its stacked paths past it. -/
def clearBarrier (n : Nat) (f : Flock) : Flock :=
  { f with stack := f.stack.map (releasePath n), arrived := smapSet 0 f.arrived n 0 }

@[simp] theorem pathOf_clearBarrier (n : Nat) (f : Flock) (second : Bool) : pathOf (clearBarrier n f) second = pathOf f second := rfl
@[simp] theorem stack_clearBarrier (n : Nat) (f : Flock) : (clearBarrier n f).stack = f.stack.map (releasePath n) := rfl
@[simp] theorem arrived_clearBarrier (n : Nat) (f : Flock) : (clearBarrier n f).arrived = smapSet 0 f.arrived n 0 := rfl

theorem releaseFlock_eq (n clk : Nat) (f : Flock) :
    releaseFlock n clk f = releaseAt n clk true (releaseAt n clk false (clearBarrier n f)) := rfl

/-- A path without a hint only steps past its barrier. -/
theorem releaseAt_unhinted (n clk : Nat) {second : Bool} {f : Flock} (h : ∀ p, pathOf f second = some p → p.hint = false) :
    releaseAt n clk second f = withPath f second ((pathOf f second).map (releasePath n)) := by
  unfold releaseAt
  cases hp : pathOf f second with
  | none =>
    show f = withPath f second none
    rw [← hp, withPath_pathOf]
  | some p =>
    by_cases hw : p.wait = .bar n
    · simp only [hw, if_true, Option.map_some, releasePath]
      exact advancePath_stays 1 clk second f p hp (.inl (h p hp))
    · simp only [hw, if_false, Option.map_some, releasePath]
      rw [← hp, withPath_pathOf]

/-- A flock whose paths have no hint: each path that waits at the barrier steps past it, on the stack too, and the marks are cleared. -/
theorem releaseFlock_unhinted (n clk : Nat) {f : Flock} (h : ∀ second p, pathOf f second = some p → p.hint = false) :
    releaseFlock n clk f = withPath (withPath (clearBarrier n f) false ((pathOf f false).map (releasePath n)))
      true ((pathOf f true).map (releasePath n)) := by
  rw [releaseFlock_eq, releaseAt_unhinted n clk (f := clearBarrier n f) (h false), releaseAt_unhinted n clk]
  · simp
  · simpa using h true

/-- A release, as the statement gives it. -/
theorem releaseFlock_passes (n clk : Nat) {f : Flock} (h : ∀ second p, pathOf f second = some p → p.hint = false) :
    smapGet 0 (releaseFlock n clk f).arrived n = 0 ∧
    (∀ second, pathOf (releaseFlock n clk f) second = (pathOf f second).map (releasePath n)) ∧
    (releaseFlock n clk f).stack = f.stack.map (releasePath n) := by
  rw [releaseFlock_unhinted n clk h]
  refine ⟨by simp, fun second => ?_, by simp⟩
  cases second <;> simp

/-- The issuing path's live threads arrive at a barrier, and the path waits there. -/
def arrive (n : Nat) (s : State) : State :=
  waitFor (.bar n) (setCur { cur s with
    arrived := smapSet 0 (cur s).arrived n (smapGet 0 (cur s).arrived n ||| liveMask (cur s) (curPath s)) } s)

/-- A bar of an assigned number: the path arrives, the barrier is checked, and what the flock has become stands at a yield point. -/
theorem exec_bar {n : Nat} (hn : n < 16) (s : State) :
    exec (.bar n) s = .next (
      let v := barrierCheck (cur s).launch (cur s).wg n (arrive n s)
      setCurStack (yieldPoint false (clockOf v v.core) v.second (cur v)) v) := by
  have hlegal : legalForm (.bar n) = true := decide_eq_true hn
  show execBar n s = _
  rw [execBar, checked_legal _ _ s hlegal]
  rfl

/-! ### Rest (R255, R277, R278) -/

/-- A yield in an active thread. -/
theorem exec_yield {s : State} {g : Nat} {p : Path} (hp : pathOf (cur s) s.second = some p) (ha : active s g ≠ 0) :
    exec (.yield g) s = .next (setCurStack (yieldPoint true (clockOf s s.core) s.second
      (withPath (cur s) s.second (some (stepPath 1 p)))) s) := by
  simp only [exec, execYield]
  rw [checked_legal _ _ s rfl, if_neg ha, hp]
  rfl

/-- The path past a nap of k times 16 clocks. -/
def pathAfterNap (clk k : Nat) (p : Path) : Path := { stepPath 1 p with wait := if k = 0 then .none else .nap (clk + 16 * k) }

/-- A nap of an assigned form in an active thread: the length is its field, or the low half of an s register. -/
theorem exec_nap {s : State} {g n u : Nat} {p : Path} (hp : pathOf (cur s) s.second = some p) (ha : active s g ≠ 0)
    (hform : u = 0 ∨ n % 64 = 0) :
    exec (.nap g n u) s = .next (setCurStack (yieldPoint false (clockOf s s.core) s.second (withPath (cur s) s.second
      (some (pathAfterNap (clockOf s s.core) (if u = 1 then (getS (cur s) (n / 64)).toNat % 65536 else n) p)))) s) := by
  have hlegal : legalForm (.nap g n u) = true := by simpa [legalForm] using hform
  simp only [exec, execNap]
  rw [checked_legal _ _ s hlegal, if_neg ha, hp]
  rfl

/-- A nap that is over ends. -/
theorem exec_napEnd {s : State} {core slot stop : Nat} {second : Bool} {p : Path} (hp : pathOf (flockAt s core slot) second = some p)
    (hw : p.wait = .nap stop) (hstop : stop ≤ clockOf s core) : exec (.napEnd core slot second) s =
      .next (setFlock core slot (withPath (flockAt s core slot) second (some { p with wait := .none })) s) := by
  simp only [exec, execNapEnd, hp, hw, if_pos hstop]

theorem atYieldPoint_of_waits {p : Path} (h : p.wait = .handle ∨ p.wait = .tile ∨ (∃ n, p.wait = .bar n) ∨ ∃ stop, p.wait = .nap stop) :
    atYieldPoint p = true := by
  rcases h with h | h | ⟨_, h⟩ | ⟨_, h⟩ <;> simp only [atYieldPoint, h]

/-- An expired count is a yield point of a path that is blocked at one, unless its flock is parked (R286). -/
theorem exec_swapCountExpiry {s : State} {core slot : Nat} {second : Bool} {p : Path}
    (hp : pathOf (flockAt s core slot) second = some p) : exec (.swapCountExpiry core slot second) s =
      .next (if atYieldPoint p && !parked s core slot then
        setFlockStack core slot (yieldPoint false (clockOf s core) second (flockAt s core slot)) s else s) := by
  simp only [exec, execSwapCountExpiry, hp]

/-- Settles O45: the arms of bar, yield and nap, the barrier's two outcomes, and the two events of paths at rest. -/
theorem meetingPointsComplete : Obligations.MeetingPointsComplete := by
  unfold Obligations.MeetingPointsComplete
  refine ⟨fun s n hn => ?_, fun s l k n => ⟨barrierCheck_waits, fun hall hany hperf hnodup x hx => ?_⟩,
    fun n clk f => releaseFlock_passes n clk, fun s g n u p hp ha => ⟨exec_yield hp ha, exec_nap hp ha⟩,
    fun s core slot second p hp => ⟨fun stop => exec_napEnd hp, fun hpark => ?_, fun hpark hw => ?_⟩⟩
  · exact exec_bar hn s
  · rw [barrierCheck_releases ((allArrived_iff s _ n).mpr hall) ((anyArrived_iff s _ n).mpr hany) ((allPerformed_iff s _ n).mpr hperf),
      flockAt_releaseSlots n _ _ _ hnodup, if_pos hx]
    rfl
  · rw [exec_swapCountExpiry hp, hpark, Bool.not_true, Bool.and_false]
    rfl
  · rw [exec_swapCountExpiry hp, atYieldPoint_of_waits hw, hpark]
    rfl

end Sys2Proof.Proofs
end

section
/-! SUPPORT. Traps, changes of code and the operations of sysop (R41, R279 to R283), and the proof of the statement about them. -/

namespace Sys2Proof.Proofs

open Machine Laws

/-! ### Lists and sparse maps -/

/-- What a key reads as where only the keys of a test are kept. -/
theorem find_filter {α : Type} (p : Nat → Bool) (m : SMap α) (k : Nat) :
    smapFind (m.filter fun e => p e.1) k = if p k = true then smapFind m k else none := by
  induction m with
  | nil => simp [smapFind]
  | cons e r ih =>
    obtain ⟨a, v⟩ := e
    by_cases hp : p a = true
    · by_cases hk : a = k
      · subst hk; simp [hp, smapFind]
      · simp [hp, smapFind, hk, ih]
    · by_cases hk : a = k
      · subst hk; simp [hp, ih]
      · simp [hp, smapFind, hk, ih]

/-- What a key reads as once the keys of a test are dropped. -/
theorem find_drop {α : Type} (f : Nat → Bool) (m : SMap α) (k : Nat) :
    smapFind (smapDrop m f) k = if f k = true then none else smapFind m k := by
  rw [smapDrop, find_filter fun k => !f k]
  cases f k <;> rfl

/-- A key that reads as something is listed. -/
theorem mem_of_get_ne {α : Type} {d : α} {m : SMap α} {k : Nat} (h : smapGet d m k ≠ d) : ∃ e ∈ m, e.1 = k := by
  induction m with
  | nil => exact absurd rfl h
  | cons e r ih =>
    obtain ⟨a, v⟩ := e
    by_cases hk : a = k
    · exact ⟨(a, v), List.mem_cons_self, hk⟩
    · obtain ⟨e, he, hek⟩ := ih (by simpa [smapGet, smapFind, hk] using h)
      exact ⟨e, List.mem_cons_of_mem _ he, hek⟩

theorem mem_setInsert (l : List Nat) (k j : Nat) : j ∈ setInsert l k ↔ j = k ∨ j ∈ l := by
  induction l with
  | nil => simp [setInsert]
  | cons a r ih =>
    rw [setInsert]
    split
    · simp
    · split
      · subst a; simp
      · rw [List.mem_cons, ih, List.mem_cons]
        exact or_left_comm

/-! ### The issuing workgroup after a change of it -/

/-- A change of a workgroup that keeps its number is read where the workgroup stands, and nothing is where none does. -/
theorem wgOf_updWg {f : Wg → Wg} (hf : ∀ w, (f w).launch = w.launch ∧ (f w).index = w.index) (l k : Nat) (s : State) :
    wgOf (updWg l k f s) l k = if findWg s l k = none then noWg else f (wgOf s l k) := by
  have hkeeps : ∀ w, isWg l k w = true → isWg l k (f w) = true := fun w hw => by
    rw [isWg, (hf w).1, (hf w).2]
    exact hw
  have hfind : findWg (updWg l k f s) l k = (findWg s l k).map f := find_updFirst (isWg l k) f hkeeps s.wgs
  rw [wgOf, hfind, wgOf]
  cases findWg s l k <;> rfl

theorem wgOf_of_none {s : State} {l k : Nat} (h : findWg s l k = none) : wgOf s l k = noWg := by rw [wgOf, h, Option.getD_none]

theorem flockAt_setCore_icache (c : Nat) (x : SMap Word) (s : State) (d f : Nat) :
    flockAt (setCore c { coreAt s c with icache := x } s) d f = flockAt s d f := by
  simp only [flockAt, coreAt_setCore]
  by_cases h : d = c
  · subst h; simp
  · simp [h]

/-! ### trap (R279) -/

theorem exec_trapI {s : State} {g : Nat} (n : Nat) (ha : active s g ≠ 0) :
    exec (.trapI g n) s = .next (takeTrap (trapRec s (if n = 4095 then 0x31 else 0x30) (active s g) [(0, 2, n)]) s) := by
  show execTrapI g n s = _
  rw [execTrapI, checked_legal _ _ s rfl, if_neg ha]

/-! ### fetchb (R281; log entry 33) -/

/-- The issuing path discards the words that it has fetched ahead. -/
def discardAhead (s : State) : State := setCur { cur s with ahead := dropAhead s.second (cur s).ahead } s

theorem exec_fetchb (s : State) : exec .fetchb s = .next (advance 1 (fencePath (discardAhead s))) := by
  show execFetchb s = _
  rw [execFetchb, checked_legal _ _ s rfl]
  rfl

theorem cur_discardAhead (s : State) : cur (discardAhead s) = { cur s with ahead := dropAhead s.second (cur s).ahead } := cur_setCur _ s

/-- The words of one PC slot are dropped, and the other's stay. -/
theorem find_dropAhead (second b : Bool) (m : SMap Word) (off : Nat) :
    smapFind (dropAhead second m) (aheadKey off b) = if b = second then none else smapFind m (aheadKey off b) := by
  rw [dropAhead, find_drop]
  have hkey : (aheadKey off b % 2 == if second then 1 else 0) = decide (b = second) := by
    cases b <;> cases second <;> simp [aheadKey]
  rw [hkey]
  by_cases h : b = second <;> simp [h]

/-- A fetch barrier of some threads notes one drop of a word. -/
def fenceDrop (threads : List Nat) (e : Nat × Nat) (m : SMap Nat) : SMap Nat :=
  threads.foldl (fun m t => smapPut m (32 * e.1 + t) e.2) m

theorem get_fenceDrop (threads : List Nat) (hlt : ∀ t ∈ threads, t < 32) (e : Nat × Nat) (m : SMap Nat) {k t : Nat} (ht : t < 32) :
    smapGet 0 (fenceDrop threads e m) (32 * k + t) = if k = e.1 ∧ t ∈ threads then e.2 else smapGet 0 m (32 * k + t) := by
  induction threads generalizing m with
  | nil => simp [fenceDrop]
  | cons a r ih =>
    have ha : a < 32 := hlt a List.mem_cons_self
    have hr := ih (fun t ht => hlt t (List.mem_cons_of_mem _ ht)) (smapPut m (32 * e.1 + a) e.2)
    rw [fenceDrop] at hr ⊢
    rw [List.foldl_cons, hr, get_put]
    have hkey : 32 * k + t = 32 * e.1 + a ↔ k = e.1 ∧ t = a := by omega
    by_cases h1 : k = e.1 <;> by_cases h2 : t = a <;> simp [hkey, h1, h2]

/-- Of several notes for one word the first of the list stands. -/
theorem get_fenceDrops (threads : List Nat) (hlt : ∀ t ∈ threads, t < 32) (l m : SMap Nat) {k t stamp : Nat} (ht : t ∈ threads)
    (hfind : smapFind l k = some stamp) : smapGet 0 (l.foldr (fenceDrop threads) m) (32 * k + t) = stamp := by
  induction l with
  | nil => cases hfind
  | cons e r ih =>
    obtain ⟨a, v⟩ := e
    rw [List.foldr_cons, get_fenceDrop threads hlt _ _ (hlt t ht)]
    by_cases hk : a = k
    · subst hk
      simpa [smapFind, ht] using hfind
    · rw [if_neg fun h => hk h.1.symm]
      exact ih (by simpa [smapFind, hk] using hfind)

/-- What a fetch barrier makes of its workgroup: each drop that its flock has noted comes before the later fetches of its live threads. -/
def fenceMarks (s : State) (w : Wg) : Wg :=
  { w with fenced := (w.invals.filter fun e => e.1 % 32 == (cur s).index).foldr (fenceDrop (threadsOf (liveMask (cur s) (curPath s)))) w.fenced }

theorem fencePath_eq (s : State) : fencePath s = updWg (cur s).launch (cur s).wg (fenceMarks s) s := rfl

theorem curPath_discardAhead (s : State) : curPath (discardAhead s) = curPath s := by
  have hpath : pathOf (cur (discardAhead s)) s.second = pathOf (cur s) s.second := by
    rw [cur_discardAhead]
    cases s.second <;> rfl
  exact congrArg (Option.getD · emptyPath) hpath

theorem fenceMarks_discardAhead (s : State) : fenceMarks (discardAhead s) = fenceMarks s := by
  funext w
  simp only [fenceMarks, curPath_discardAhead, cur_discardAhead]
  rfl

theorem curWg_fetchb (s : State) : curWg (fencePath (discardAhead s)) =
    if findWg s (cur s).launch (cur s).wg = none then noWg else fenceMarks s (curWg s) := by
  have hcur : cur (fencePath (discardAhead s)) = cur (discardAhead s) := rfl
  rw [curWg, hcur, fencePath_eq, cur_discardAhead, fenceMarks_discardAhead]
  exact wgOf_updWg (f := fenceMarks s) (fun _ => ⟨rfl, rfl⟩) _ _ (discardAhead s)

/-- A live thread's later fetches come after each drop that its flock has noted. -/
theorem fenced_fetchb {s : State} {key t stamp : Nat} (hwg : findWg s (cur s).launch (cur s).wg ≠ none)
    (hlive : inMask (liveMask (cur s) (curPath s)) t = true) (hidx : (cur s).index < 32)
    (hfind : smapFind (curWg s).invals (dropKey key (cur s).index) = some stamp) :
    smapGet 0 (curWg (fencePath (discardAhead s))).fenced (fenceKey key (cur s).index t) = stamp := by
  rw [curWg_fetchb, if_neg hwg]
  refine get_fenceDrops _ (fun u hu => inMask_lt _ u ((mem_threadsOf _ u).mp hu)) _ _ ((mem_threadsOf _ t).mpr hlive) ?_
  rw [find_filter fun k => k % 32 == (cur s).index, if_pos, hfind]
  simp only [dropKey, beq_iff_eq]
  omega

/-- fetchb, as the statement gives it. -/
theorem fetchb_discards (s : State) : ∃ u, exec .fetchb s = .next (advance 1 u) ∧
    u = { setCur { cur s with ahead := dropAhead s.second (cur s).ahead } s with wgs := u.wgs } ∧
    curWg u = { curWg s with fenced := (curWg u).fenced } ∧
    (∀ key t, findWg s (cur s).launch (cur s).wg ≠ none → inMask (liveMask (cur s) (curPath s)) t = true → (cur s).index < 32 → t < 32 →
      ∀ stamp, smapFind (curWg s).invals (dropKey key (cur s).index) = some stamp →
        smapGet 0 (curWg u).fenced (fenceKey key (cur s).index t) = stamp) ∧
    ∀ (off : Nat) (b : Bool), smapFind (dropAhead s.second (cur s).ahead) (aheadKey off b) =
      if b = s.second then none else smapFind (cur s).ahead (aheadKey off b) := by
  refine ⟨fencePath (discardAhead s), exec_fetchb s, rfl, ?_, fun key t hwg hlive hidx _ stamp => fenced_fetchb hwg hlive hidx,
    fun off b => find_dropAhead s.second b _ off⟩
  rw [curWg_fetchb]
  by_cases hwg : findWg s (cur s).launch (cur s).wg = none
  · rw [if_pos hwg, curWg, wgOf_of_none hwg]
  · rw [if_neg hwg]
    rfl

/-! ### Ranges that are named without a translation (R280, R282) -/

/-- A range that passes its checks lets its instruction go on. -/
theorem withExtent_ok (i : Instr) (m : Mask) {n sx reg : Nat} (body : State → State) {s : State} (h : Safety.ExtentOk s n sx reg) :
    withExtent i m n sx reg body s = body s := by
  unfold withExtent
  simp only
  rcases h with hzero | ⟨hvalid, hplaces, hmemory, hread⟩
  · rw [if_pos hzero]
  · rw [hvalid, hplaces, hmemory, hread]
    exact ite_self _

/-! ### icinv (R280; R216) -/

/-- The core of the issuing flock drops its copies of the words that a range touches. -/
def dropRange (c sx r : Nat) (s : State) : State :=
  let gone := wordMet (curLaunch s).dom (rangeBytes s c sx r)
  dropWords gone s.core (noteDrop gone s)

/-- An icinv whose range passes its checks follows its flock's earlier stores. -/
theorem exec_icinv {s : State} {g c sx r : Nat} (ha : active s g ≠ 0) (h : Safety.ExtentOk s c sx r) : exec (.icinv g c sx r) s =
    .next (waitInOrder (flockOp s maintainAct (active s g)) (fun s => advance 1 (dropRange c sx r s)) s) := by
  show execIcinv g c sx r s = _
  rw [execIcinv, checked_legal _ _ s rfl, if_neg ha, withExtent_ok _ _ _ h]
  rfl

theorem waitInOrder_waits {l : OpenOp} (body : State → State) {s : State} (h : keptBehind s l = true) :
    waitInOrder l body s = waitFor .issue s := if_pos h

theorem waitInOrder_goes {l : OpenOp} (body : State → State) {s : State} (h : keptBehind s l = false) : waitInOrder l body s = body s :=
  if_neg (Bool.eq_false_iff.mp h)

theorem wordMet_icacheKey (dom : Nat) (ranges : List (Nat × Nat)) {va : Nat} (h : va < 2 ^ 57) :
    wordMet dom ranges (icacheKey dom va) = true ↔ ∃ x ∈ ranges, x.1 < va + 4 ∧ va < x.1 + x.2 := by
  have hdom : icacheKey dom va / 2 ^ 57 = dom := by rw [icacheKey]; omega
  have hva : icacheKey dom va % 2 ^ 57 = va := by rw [icacheKey]; omega
  simp only [wordMet, hdom, hva, beq_self_eq_true, Bool.true_and, List.any_eq_true, Bool.and_eq_true, decide_eq_true_eq]

/-- The drops of words that a flock notes with one stamp. -/
def dropMarks (index stamp : Nat) (l : List (Nat × List (Nat × Word))) (m : SMap Nat) : SMap Nat :=
  l.foldl (fun m e => smapPut m (dropKey e.1 index) stamp) m

theorem get_dropMarks {index stamp : Nat} (l : List (Nat × List (Nat × Word))) {m : SMap Nat} {key : Nat}
    (h : smapGet 0 m (dropKey key index) = stamp ∨ ∃ e ∈ l, e.1 = key) : smapGet 0 (dropMarks index stamp l m) (dropKey key index) = stamp := by
  induction l generalizing m with
  | nil => simpa [dropMarks] using h
  | cons a r ih =>
    refine ih ?_
    rw [get_put]
    by_cases hkey : dropKey key index = dropKey a.1 index
    · exact .inl (if_pos hkey)
    · rw [if_neg hkey]
      refine h.imp_right ?_
      rintro ⟨e, he, rfl⟩
      rcases List.mem_cons.mp he with rfl | he
      · exact absurd rfl hkey
      · exact ⟨e, he, rfl⟩

/-- What an icinv notes in its workgroup. -/
def noteMarks (gone : Nat → Bool) (s : State) (w : Wg) : Wg :=
  { w with invals := dropMarks (cur s).index s.fresh (s.codeSeen.filter fun e => gone e.1) w.invals }

theorem noteDrop_eq (gone : Nat → Bool) (s : State) : noteDrop gone s = updWg (cur s).launch (cur s).wg (noteMarks gone s) s := rfl

theorem icache_dropRange (c sx r : Nat) (s : State) : (coreAt (dropRange c sx r s) s.core).icache =
    smapDrop (coreAt s s.core).icache (wordMet (curLaunch s).dom (rangeBytes s c sx r)) := by
  rw [dropRange, dropWords, coreAt_setCore, if_pos rfl]
  rfl

theorem dropRange_eq (c sx r : Nat) (s : State) : dropRange c sx r s =
    { setCore s.core { coreAt s s.core with icache := (coreAt (dropRange c sx r s) s.core).icache } s with wgs := (dropRange c sx r s).wgs } := by
  rw [icache_dropRange]
  rfl

theorem cur_dropRange (c sx r : Nat) (s : State) : cur (dropRange c sx r s) = cur s := flockAt_setCore_icache s.core _ (noteDrop _ s) _ _

theorem curWg_dropRange (c sx r : Nat) (s : State) : curWg (dropRange c sx r s) =
    if findWg s (cur s).launch (cur s).wg = none then noWg
    else noteMarks (wordMet (curLaunch s).dom (rangeBytes s c sx r)) s (curWg s) := by
  rw [curWg, cur_dropRange]
  exact wgOf_updWg (f := noteMarks _ s) (fun _ => ⟨rfl, rfl⟩) _ _ s

/-- icinv, as the statement gives it. -/
theorem icinv_drops {s : State} {g c sx r : Nat} (ha : active s g ≠ 0) (hext : Safety.ExtentOk s c sx r)
    (hfree : keptBehind s (flockOp s maintainAct (active s g)) = false) : ∃ u, exec (.icinv g c sx r) s = .next (advance 1 u) ∧
      u = { setCore s.core { coreAt s s.core with icache := (coreAt u s.core).icache } s with wgs := u.wgs } ∧
      curWg u = { curWg s with invals := (curWg u).invals } ∧
      ∀ va < 2 ^ 57, let key := icacheKey (curLaunch s).dom va
        let met : Prop := ∃ x ∈ rangeBytes s c sx r, x.1 < va + 4 ∧ va < x.1 + x.2
        (met → smapFind (coreAt u s.core).icache key = none ∧
          (findWg s (cur s).launch (cur s).wg ≠ none → smapGet [] s.codeSeen key ≠ [] →
            smapGet 0 (curWg u).invals (dropKey key (cur s).index) = s.fresh)) ∧
        (¬ met → smapFind (coreAt u s.core).icache key = smapFind (coreAt s s.core).icache key) := by
  refine ⟨dropRange c sx r s, by rw [exec_icinv ha hext, waitInOrder_goes _ hfree], dropRange_eq c sx r s, ?_, fun va hva => ?_⟩
  · rw [curWg_dropRange]
    by_cases hwg : findWg s (cur s).launch (cur s).wg = none
    · rw [if_pos hwg, curWg, wgOf_of_none hwg]
    · rw [if_neg hwg]
      rfl
  · have hmet := wordMet_icacheKey (curLaunch s).dom (rangeBytes s c sx r) hva
    simp only [icache_dropRange, find_drop]
    refine ⟨fun hm => ⟨if_pos (hmet.mpr hm), fun hwg hkept => ?_⟩, fun hm => if_neg (hm ∘ hmet.mp)⟩
    rw [curWg_dropRange, if_neg hwg]
    obtain ⟨e, he, hek⟩ := mem_of_get_ne hkept
    refine get_dropMarks _ (.inr ⟨e, List.mem_filter.mpr ⟨he, ?_⟩, hek⟩)
    rw [hek]
    exact hmet.mpr hm

/-! ### sysop (R282, R283) -/

/-- An operation of sysop of a launch that is not privileged. -/
theorem sysopOp_refuses {i : Instr} {m : Mask} (n sx reg : Nat) (body : List (Nat × Page) → State → State) {s : State}
    (hlegal : legalForm i = true) (hm : m ≠ 0) (hpriv : (curLaunch s).priv = false) :
    sysopOp i m n sx reg body s = .next (takeTrap (trapRec s 0x04 m [(0, 1, 0x5F)]) s) := by
  rw [sysopOp, checked_legal m _ s hlegal, if_neg hm, hpriv]
  rfl

/-- An operation of sysop of a privileged launch, whose range and whose pages pass their checks. -/
theorem sysopOp_works {i : Instr} {m : Mask} {n sx reg : Nat} (body : List (Nat × Page) → State → State) {s u : State}
    {ps : List (Nat × Page)} (hlegal : legalForm i = true) (hm : m ≠ 0) (hpriv : (curLaunch s).priv = true)
    (hext : Safety.ExtentOk s n sx reg) (hpages : pagesFor (curAgent s) .read (extentUnits (rangeBytes s n sx reg)) s = (u, ps))
    (hok : sysopPages m ps u = none) : sysopOp i m n sx reg body s = .next (body ps u) := by
  rw [sysopOp, checked_legal m _ s hlegal, if_neg hm, hpriv, withExtent_ok _ _ _ hext]
  simp only [hpages, hok, Bool.not_true, Bool.false_eq_true, if_false]

theorem exec_sysopHarvest (g c sx r : Nat) (s : State) : exec (.sysopHarvest g c sx r) s =
    sysopOp (.sysopHarvest g c sx r) (active s g) c sx r (fun ps s => advance 1 (ps.foldl (harvestPage (curLaunch s).dom) s)) s := rfl

/-- What unpoison does once its pages are known: it waits for the accesses kept before its stores, and zeros its sectors. -/
def unpoisonBody (m : Mask) (c sx r : Nat) (ps : List (Nat × Page)) (s : State) : State :=
  let spots := unpoisonSpots ps (rangeBytes s c sx r) s
  if spots = [] then advance 1 s
  else waitInOrder { flockOp s (storeAct false) m with places := spots.map fun x => (0, leafLoc x.1 x.2, 32) }
    (fun s => advance 1 (spots.foldl (fun s x => zeroSector x.1 x.2 s) s)) s

theorem exec_sysopUnpoison (g c sx r : Nat) (s : State) : exec (.sysopUnpoison g c sx r) s =
    sysopOp (.sysopUnpoison g c sx r) (active s g) c sx r (unpoisonBody (active s g) c sx r) s := rfl

/-- The sectors at the two ends of the elements of a range. -/
def endSectors (xs : List (Nat × Nat)) (a : List Nat) : List Nat :=
  xs.foldl (fun a x => setInsert (setInsert a (x.1 / 32)) ((x.1 + x.2 - 1) / 32)) a

theorem mem_endSectors (xs : List (Nat × Nat)) (a : List Nat) (sec : Nat) :
    sec ∈ endSectors xs a ↔ sec ∈ a ∨ ∃ y ∈ xs, sec = y.1 / 32 ∨ sec = (y.1 + y.2 - 1) / 32 := by
  induction xs generalizing a with
  | nil => simp [endSectors]
  | cons x r ih =>
    have hr := ih (setInsert (setInsert a (x.1 / 32)) ((x.1 + x.2 - 1) / 32))
    rw [endSectors] at hr ⊢
    rw [List.foldl_cons, hr]
    simp only [mem_setInsert, List.exists_mem_cons_iff, or_assoc, or_comm]

/-- The spots that a sector's page gives. -/
def spotsOf (ps : List (Nat × Page)) (s : State) (sec : Nat) : List (Nat × Nat) :=
  match pageLeaf (pageOf ps (32 * sec)) with
  | some x => ((poisonedExtent s x (32 * sec)).filter fun va => isPoisoned s (sectorOf (leafLoc x va))).map fun va => (x, va)
  | none => []

theorem unpoisonSpots_eq (ps : List (Nat × Page)) (xs : List (Nat × Nat)) (s : State) :
    unpoisonSpots ps xs s = (endSectors xs []).flatMap (spotsOf ps s) := rfl

theorem mem_spotsOf (ps : List (Nat × Page)) (s : State) (sec x va : Nat) : (x, va) ∈ spotsOf ps s sec ↔
    pageLeaf (pageOf ps (32 * sec)) = some x ∧ va ∈ poisonedExtent s x (32 * sec) ∧ isPoisoned s (sectorOf (leafLoc x va)) = true := by
  unfold spotsOf
  cases pageLeaf (pageOf ps (32 * sec)) with
  | none => simp
  | some y =>
    simp only [List.mem_map, List.mem_filter, Prod.mk.injEq, Option.some.injEq]
    constructor
    · rintro ⟨_, hva, rfl, rfl⟩
      exact ⟨rfl, hva⟩
    · rintro ⟨rfl, hva⟩
      exact ⟨va, hva, rfl, rfl⟩

/-- A spot lies in the poisoned extent of a sector that the range touches, and is poisoned itself. -/
theorem mem_unpoisonSpots (ps : List (Nat × Page)) (xs : List (Nat × Nat)) (s : State) (x va : Nat) :
    (x, va) ∈ unpoisonSpots ps xs s ↔ isPoisoned s (sectorOf (leafLoc x va)) = true ∧ ∃ y ∈ xs, ∃ sec,
      (sec = y.1 / 32 ∨ sec = (y.1 + y.2 - 1) / 32) ∧ pageLeaf (pageOf ps (32 * sec)) = some x ∧ va ∈ poisonedExtent s x (32 * sec) := by
  rw [unpoisonSpots_eq, List.mem_flatMap]
  constructor
  · rintro ⟨sec, hsec, hspot⟩
    obtain ⟨hleaf, hva, hpoison⟩ := (mem_spotsOf ps s sec x va).mp hspot
    rcases (mem_endSectors xs [] sec).mp hsec with hnil | ⟨y, hy, hends⟩
    · exact absurd hnil List.not_mem_nil
    · exact ⟨hpoison, y, hy, sec, hends, hleaf, hva⟩
  · rintro ⟨hpoison, y, hy, sec, hends, hleaf, hva⟩
    exact ⟨sec, (mem_endSectors xs [] sec).mpr (.inr ⟨y, hy, hends⟩), (mem_spotsOf ps s sec x va).mpr ⟨hleaf, hva, hpoison⟩⟩

/-- Poisoned sectors whose zeroing an earlier access keeps back: unpoison waits at issue. -/
theorem unpoisonBody_waits {m : Mask} {c sx r : Nat} {ps : List (Nat × Page)} {s : State}
    (hspots : unpoisonSpots ps (rangeBytes s c sx r) s ≠ [])
    (hkept : keptBehind s { flockOp s (storeAct false) m with
      places := (unpoisonSpots ps (rangeBytes s c sx r) s).map fun x => (0, leafLoc x.1 x.2, 32) } = true) :
    unpoisonBody m c sx r ps s = waitFor .issue s := (if_neg hspots).trans (waitInOrder_waits _ hkept)

/-- Without such an access, or with nothing to zero, it completes. -/
theorem unpoisonBody_zeros {m : Mask} {c sx r : Nat} {ps : List (Nat × Page)} {s : State}
    (h : unpoisonSpots ps (rangeBytes s c sx r) s = [] ∨ keptBehind s { flockOp s (storeAct false) m with
      places := (unpoisonSpots ps (rangeBytes s c sx r) s).map fun x => (0, leafLoc x.1 x.2, 32) } = false) :
    unpoisonBody m c sx r ps s =
      advance 1 ((unpoisonSpots ps (rangeBytes s c sx r) s).foldl (fun s x => zeroSector x.1 x.2 s) s) := by
  by_cases hspots : unpoisonSpots ps (rangeBytes s c sx r) s = []
  · rw [hspots]
    exact if_pos hspots
  · exact (if_neg hspots).trans (waitInOrder_goes _ (h.resolve_left hspots))

/-- Settles O46: trap's record, fetchb's and icinv's effects, and the operations of sysop behind their shared checks. -/
theorem trapsAndSystemInstructionsComplete : Obligations.TrapsAndSystemInstructionsComplete := by
  unfold Obligations.TrapsAndSystemInstructionsComplete
  refine ⟨fun s g n => exec_trapI n, fetchb_discards, fun s g c sx r ha => ⟨fun hext _ hkept => ?_, icinv_drops ha, fun hpriv => ⟨?_, ?_⟩,
    fun hpriv hext u ps hpages hok => ⟨?_, unpoisonSpots ps (rangeBytes u c sx r) u, mem_unpoisonSpots ps _ u, ?_, ?_⟩⟩⟩
  · rw [exec_icinv ha hext, waitInOrder_waits _ hkept]
  · rw [exec_sysopHarvest, sysopOp_refuses _ _ _ _ rfl ha hpriv]
  · rw [exec_sysopUnpoison, sysopOp_refuses _ _ _ _ rfl ha hpriv]
  · rw [exec_sysopHarvest, sysopOp_works _ rfl ha hpriv hext hpages hok]
  · intro hspots hkept
    rw [exec_sysopUnpoison, sysopOp_works _ rfl ha hpriv hext hpages hok, unpoisonBody_waits hspots hkept]
  · intro h
    rw [exec_sysopUnpoison, sysopOp_works _ rfl ha hpriv hext hpages hok, unpoisonBody_zeros h]

end Sys2Proof.Proofs
end

section
/-! SUPPORT. The encoder and the decoder undo each other (R53, R54, R69), and the proofs of the statements about them. -/

namespace Sys2Proof.Proofs

open Machine Laws

/-! ### A bit field of a sum of fields -/

/-- What is a multiple of a higher power of two does not reach into a field. -/
theorem bits_add_of_dvd {y r hi lo : Nat} (h : y % 2 ^ (hi + 1) = 0) (hlo : lo ≤ hi + 1) : bits (y + r) hi lo = bits r hi lo := by
  obtain ⟨z, rfl⟩ := Nat.dvd_of_mod_eq_zero h
  have hp : 2 ^ (hi + 1) = 2 ^ lo * 2 ^ (hi + 1 - lo) := by rw [← pow_add, Nat.add_sub_cancel' hlo]
  rw [bits, bits, hp, mul_assoc, Nat.mul_add_div (Nat.two_pow_pos lo), Nat.mul_add_mod]

theorem bits_mul_add_high {c p r hi lo : Nat} (h : p % 2 ^ (hi + 1) = 0) (hlo : lo ≤ hi + 1) : bits (c * p + r) hi lo = bits r hi lo :=
  bits_add_of_dvd (by rw [Nat.mul_mod, h, mul_zero, Nat.zero_mod]) hlo

/-- The field that stands highest in a sum. -/
theorem bits_mul_add {c p r hi lo : Nat} (hp : p = 2 ^ lo) (hc : c < 2 ^ (hi + 1 - lo)) (hr : r < p) : bits (c * p + r) hi lo = c := by
  subst hp
  rw [bits, mul_comm, Nat.mul_add_div (Nat.two_pow_pos lo), Nat.div_eq_of_lt hr, add_zero, Nat.mod_eq_of_lt hc]

theorem bits_mul {c p hi lo : Nat} (hp : p = 2 ^ lo) (hc : c < 2 ^ (hi + 1 - lo)) : bits (c * p) hi lo = c :=
  bits_mul_add (r := 0) hp hc (hp ▸ Nat.two_pow_pos lo)

/-- A number below a field leaves it 0. -/
theorem bits_zero_of_lt {x hi lo : Nat} (h : x < 2 ^ lo) : bits x hi lo = 0 := by
  rw [bits, Nat.div_eq_of_lt h, Nat.zero_mod]

theorem bits_mul_high {c p hi lo : Nat} (h : p % 2 ^ (hi + 1) = 0) (hlo : lo ≤ hi + 1) : bits (c * p) hi lo = 0 := by
  rw [← add_zero (c * p), bits_mul_add_high h hlo, bits_zero_of_lt (Nat.two_pow_pos lo)]

theorem bits_low {x hi : Nat} (h : x < 2 ^ (hi + 1)) : bits x hi 0 = x := by
  rw [bits, pow_zero, Nat.div_one, Nat.sub_zero, Nat.mod_eq_of_lt h]

/-- The major of a word that is its constant and its fields. -/
theorem bits_major {m r : Nat} (h : m % 2 ^ 25 + r < 2 ^ 25) : bits (m + r) 31 25 = m / 2 ^ 25 % 2 ^ 7 := by
  rw [bits]
  omega

/-! ### Decoding by table -/

/-- The row of an assigned major that two words give. -/
def decodeMajor (k w x : Nat) : Option Instr :=
  if k < 0x10 then decodeA k w
  else if k < 0x30 then decodeB k w
  else if k < 0x40 then decodeC k w
  else if k < 0x50 then decodeD k w
  else if k < 0x60 then decodeE k w
  else decodeLong k w x

theorem decodeWords_assigned {w x k : Nat} (hk : bits w 31 25 = k) (hr : isReservedMajor k = false) :
    decodeWords w x = match decodeMajor k w x with
      | some i => .ok i
      | none => .error (.fixedBits k) := by
  subst hk
  simp only [decodeWords, hr, Bool.false_eq_true, if_false]
  rfl

theorem decodeWords_reserved {w x : Nat} (hr : isReservedMajor (bits w 31 25) = true) :
    decodeWords w x = .ok (.reservedMajor w (if isLongMajor (bits w 31 25) then x else 0)) := by
  simp only [decodeWords, hr, if_true]

theorem decodeWords_of_decodeMajor {m r x : Nat} {i : Instr} (h : m % 2 ^ 25 + r < 2 ^ 25)
    (hr : isReservedMajor (m / 2 ^ 25 % 2 ^ 7) = false) (hd : decodeMajor (m / 2 ^ 25 % 2 ^ 7) (m + r) x = some i) :
    decodeWords (m + r) x = .ok i := by
  rw [decodeWords_assigned (bits_major h) hr, hd]

/-- The tables of rows, by the decoder that reads them; device events stand in none. -/
inductive Table where
  | a | b | c | d | e | long | reserved | event

def tableOf : Instr → Table
  | .iadd .. | .isub .. | .imul .. | .andB .. | .orB .. | .xorB .. | .shl .. | .shr .. | .imin .. | .imax .. | .iabsd .. | .bitcount ..
  | .bfe .. | .mov .. | .sel .. | .max2sel .. | .sreg .. => .a
  | .fadd .. | .fsub .. | .fmul .. | .fmin .. | .fmax .. | .fcmp .. | .frcp .. | .frsq .. | .fex2 .. | .flg2 .. | .fsin .. | .fcos ..
  | .fclass .. | .fscale .. | .fround .. | .cvt .. | .cvti .. | .pack .. | .unpack .. | .cbdec .. | .cbload .. | .mxscale .. | .icmp ..
  | .pop .. | .ballot .. | .agree .. | .matchK .. | .xpick .. | .xfold .. | .lead .. => .b
  | .ld .. | .st .. | .ldsp .. | .stsp .. | .atom .. | .red .. | .atomsp .. | .ldfe .. | .stfe .. | .fence .. | .ldb .. | .cache ..
  | .prefetch .. | .tick .. => .c
  | .accTake .. | .accFree .. | .accZero .. | .accRd .. | .region .. | .compress .. | .cp .. | .cpColl .. | .cpwait .. | .cpfree ..
  | .gather .. | .scatter .. | .mcast .. | .coll .. | .hstat .. => .d
  | .bra .. | .brx .. | .callI .. | .callx .. | .ret .. | .exitI .. | .fabEnter .. | .fabLeave .. | .bar .. | .yield .. | .nap ..
  | .trapI .. | .icinv .. | .fetchb .. | .strm .. | .sysopHarvest .. | .sysopUnpoison .. => .e
  | .imad .. | .bfi .. | .ffma .. | .movI .. | .iaddI .. | .fcmpI .. | .icmpI .. | .ldo .. | .sto .. | .atomo .. | .redo .. | .mma ..
  | .mmaSp .. | .mmaDec .. | .cpx .. | .paddock .. | .braL .. | .callL .. | .strmL .. => .long
  | .reservedMajor .. => .reserved
  | _ => .event

/-! ### The words whose fixed bits are not all 0, with those bits as fields of their own -/

theorem encode_iadd (g d a b c t : Nat) :
    encode (.iadd g d a b c t) = [0 + g * 4194304 + d * 65536 + a * 1024 + b * 16 + c * 4 + t] := by
  simp only [encode, List.cons.injEq, and_true]
  omega

theorem encode_imax (g d a b c t : Nat) :
    encode (.imax g d a b c t) = [268435456 + g * 4194304 + d * 65536 + a * 1024 + b * 16 + c * 4 + (1 * 2 + t)] := by
  simp only [encode, List.cons.injEq, and_true]
  omega

theorem encode_ldfe (g d a r f t c : Nat) :
    encode (.ldfe g d a r f t c) = [1845493760 + g * 4194304 + d * 65536 + a * 1024 + r * 64 + f * 32 + t * 16 + (4 * 2 + c)] := by
  simp only [encode, List.cons.injEq, and_true]
  omega

theorem encode_stfe (g d a r f t c : Nat) :
    encode (.stfe g d a r f t c) = [1879048192 + g * 4194304 + d * 65536 + a * 1024 + r * 64 + f * 32 + t * 16 + (4 * 2 + c)] := by
  simp only [encode, List.cons.injEq, and_true]
  omega

theorem encode_fence (sx o : Nat) :
    encode (.fence sx o) = [1912602624 + (229376 * 128 + sx * 16 + o * 4)] := by
  simp only [encode, List.cons.injEq, and_true]
  omega

theorem encode_cpColl (g h sx m f p : Nat) :
    encode (.cpColl g h sx m f p) = [2415919104 + g * 4194304 + h * 65536 + sx * 1024 + m * 64 + f * 32 + (1 * 16 + p)] := by
  simp only [encode, List.cons.injEq, and_true]
  omega

theorem encode_bar (n : Nat) :
    encode (.bar n) = [2952790016 + (28672 * 1024 + n * 16)] := by
  simp only [encode, List.cons.injEq, and_true]
  omega

theorem encode_sysopHarvest (g c sx r : Nat) :
    encode (.sysopHarvest g c sx r) = [3187671040 + g * 4194304 + c * 65536 + sx * 1024 + (r * 64 + 1)] := by
  simp only [encode, List.cons.injEq, and_true]
  omega

theorem encode_sysopUnpoison (g c sx r : Nat) :
    encode (.sysopUnpoison g c sx r) = [3187671040 + g * 4194304 + c * 65536 + sx * 1024 + (r * 64 + 2)] := by
  simp only [encode, List.cons.injEq, and_true]
  omega

theorem decodeWords_encode_a {i : Instr} (h : tableOf i = .a) (hfit : fieldsFit i = true) :
    decodeWords ((encode i).getD 0 0) ((encode i).getD 1 0) = .ok i := by
  cases i with
  | iadd g d a b c t | isub g d a b c t | imul g d a b c t | andB g d a b c t | orB g d a b c t | xorB g d a b c t | shl g d a b c t
  | shr g d a b c t | imin g d a b c t | imax g d a b c t | iabsd g d a b c t | bitcount g d a b c t | bfe g d a b c t | mov g d a f n
  | sel p d a b c | max2sel g d a b q t u | sreg g d sx u c =>
    simp only [fieldsFit, Bool.and_eq_true, decide_eq_true_eq] at hfit
    simp only [↓encode_iadd, ↓encode_imax, encode, List.getD_cons_zero, List.getD_cons_succ, List.getD_nil, Nat.add_assoc]
    refine decodeWords_of_decodeMajor (by omega) (by decide) ?_
    simp only [decodeMajor, decodeA, Nat.reducePow, Nat.reduceDiv, Nat.reduceMod, Nat.reduceLT, if_true]
    simp only [bits_add_of_dvd, bits_mul_add_high, bits_mul_high, Nat.reducePow, Nat.reduceMod, Nat.reduceAdd, Nat.reduceLeDiff]
    simp (disch := omega) only [bits_mul_add, bits_mul, bits_zero_of_lt, bits_low, one_ne_zero, if_false, and_self, if_true]
  | _ => nomatch h

theorem decodeWords_encode_b {i : Instr} (h : tableOf i = .b) (hfit : fieldsFit i = true) :
    decodeWords ((encode i).getD 0 0) ((encode i).getD 1 0) = .ok i := by
  cases i with
  | fadd g d a b c t | fsub g d a b c t | fmul g d a b c t | fmin g d a b c t | fmax g d a b c t | fcmp g k p a b c t | frcp g d a f c t
  | frsq g d a f c t | fex2 g d a f c t | flg2 g d a f c t | fsin g d a f c t | fcos g d a f c t | fclass g d a c t | fscale g d a b c t
  | fround g d a f r c t | cvt g d a f sx r | cvti g d a f r | pack g d a b c t | unpack g d a t u ix | cbdec g d a sx u ix
  | cbload g sx r b | mxscale g d a e | icmp g k p a b c t | pop g d a b o | ballot g d p u | agree g d a t | matchK g d a w
  | xpick g d a b sx m | xfold g d a t u o | lead g p a m =>
    simp only [fieldsFit, Bool.and_eq_true, decide_eq_true_eq] at hfit
    simp only [encode, List.getD_cons_zero, List.getD_cons_succ, List.getD_nil, Nat.add_assoc]
    refine decodeWords_of_decodeMajor (by omega) (by decide) ?_
    simp only [decodeMajor, decodeB, Nat.reducePow, Nat.reduceDiv, Nat.reduceMod, Nat.reduceLT, if_true, if_false]
    simp only [bits_add_of_dvd, bits_mul_add_high, bits_mul_high, Nat.reducePow, Nat.reduceMod, Nat.reduceAdd, Nat.reduceLeDiff]
    simp (disch := omega) only [bits_mul_add, bits_mul, bits_zero_of_lt, bits_low, and_self, if_true]
  | _ => nomatch h

theorem decodeWords_encode_c {i : Instr} (h : tableOf i = .c) (hfit : fieldsFit i = true) :
    decodeWords ((encode i).getD 0 0) ((encode i).getD 1 0) = .ok i := by
  cases i with
  | ld g d a r f sx z c | st g d a r f sx z c | ldsp g d a r f sx z c | stsp g d a r f sx z c | atom g d a r f n o | red g d a r f o
  | atomsp g d a r f n o | ldfe g d a r f t c | stfe g d a r f t c | fence sx o | ldb g d sx r f | cache g n sx r f o
  | prefetch g n sx r f o | tick g a u =>
    simp only [fieldsFit, Bool.and_eq_true, decide_eq_true_eq] at hfit
    simp only [↓encode_ldfe, ↓encode_stfe, ↓encode_fence, encode, List.getD_cons_zero, List.getD_cons_succ, List.getD_nil, Nat.add_assoc]
    refine decodeWords_of_decodeMajor (by omega) (by decide) ?_
    simp only [decodeMajor, decodeC, Nat.reducePow, Nat.reduceDiv, Nat.reduceMod, Nat.reduceLT, if_true, if_false]
    simp only [bits_add_of_dvd, bits_mul_add_high, bits_mul_high, Nat.reducePow, Nat.reduceMod, Nat.reduceAdd, Nat.reduceLeDiff]
    simp (disch := omega) only [bits_mul_add, bits_mul, bits_zero_of_lt, bits_low, and_self, if_true]
  | _ => nomatch h

theorem decodeWords_encode_d {i : Instr} (h : tableOf i = .d) (hfit : fieldsFit i = true) :
    decodeWords ((encode i).getD 0 0) ((encode i).getD 1 0) = .ok i := by
  cases i with
  | accTake g t | accFree g t | accZero g t | accRd g d t f c | region g t sx | compress g d a m k mlo p x | cp g h sx m f p
  | cpColl g h sx m f p | cpwait g h w | cpfree g h | gather g h a m f c p | scatter g h a m f c p | mcast g h sx m f p
  | coll g h sx p f o | hstat g d h =>
    simp only [fieldsFit, Bool.and_eq_true, decide_eq_true_eq] at hfit
    simp only [↓encode_cpColl, encode, List.getD_cons_zero, List.getD_cons_succ, List.getD_nil, Nat.add_assoc]
    refine decodeWords_of_decodeMajor (by omega) (by decide) ?_
    simp only [decodeMajor, decodeD, Nat.reducePow, Nat.reduceDiv, Nat.reduceMod, Nat.reduceLT, if_true, if_false]
    simp only [bits_add_of_dvd, bits_mul_add_high, bits_mul_high, Nat.reducePow, Nat.reduceMod, Nat.reduceAdd, Nat.reduceLeDiff]
    simp (disch := omega) only [bits_mul_add, bits_mul, bits_zero_of_lt, bits_low, one_ne_zero, if_false, and_self, if_true]
  | _ => nomatch h

theorem decodeWords_encode_e {i : Instr} (h : tableOf i = .e) (hfit : fieldsFit i = true) :
    decodeWords ((encode i).getD 0 0) ((encode i).getD 1 0) = .ok i := by
  cases i with
  | bra g o h n | brx g ix sx h n u | callI g l o n | callx g l ix sx n u | ret g l n | exitI g n | fabEnter g r | fabLeave g | bar n
  | yield g | nap g n u | trapI g n | icinv g c sx r | strm g d sx f w | sysopHarvest g c sx r | sysopUnpoison g c sx r =>
    simp only [fieldsFit, Bool.and_eq_true, decide_eq_true_eq] at hfit
    simp only [↓encode_bar, ↓encode_sysopHarvest, ↓encode_sysopUnpoison, encode, List.getD_cons_zero, List.getD_cons_succ, List.getD_nil, Nat.add_assoc]
    refine decodeWords_of_decodeMajor (by omega) (by decide) ?_
    simp only [decodeMajor, decodeE, Nat.reducePow, Nat.reduceDiv, Nat.reduceMod, Nat.reduceLT, if_true, if_false]
    simp only [bits_add_of_dvd, bits_mul_add_high, bits_mul_high, Nat.reducePow, Nat.reduceMod, Nat.reduceAdd, Nat.reduceLeDiff]
    simp (disch := omega) only [bits_mul_add, bits_mul, bits_zero_of_lt, bits_low, Nat.reduceEqDiff, if_false, and_self, if_true]
  | fetchb => rfl
  | _ => nomatch h

theorem decodeWords_encode_long {i : Instr} (h : tableOf i = .long) (hfit : fieldsFit i = true) :
    decodeWords ((encode i).getD 0 0) ((encode i).getD 1 0) = .ok i := by
  cases i with
  | imad g d a b c t cc fm | bfi g d a b c t cc fm | ffma g d a b c t cc fm | movI g d c t imm | iaddI g d a c t imm
  | fcmpI g k p a c t imm | icmpI g k p a c t imm | ldo g d a r ord sc z f u cl disp | sto g d a r ord sc z f u cl disp
  | atomo g d a r n o cc ord sc z f u cl disp | redo g a r o cc ord sc z f u cl disp | mma g ti a b ru src cc fm f
  | mmaSp g ti a b ru pat src cc fm f | mmaDec g ti a b ru pat src cc lossy fm f | cpx g h a m k p cc ord sc f u cl disp
  | paddock g a r cc f | braL g h n off | callL g l n off | strmL g d w offhi f offlo =>
    simp only [fieldsFit, Bool.and_eq_true, decide_eq_true_eq] at hfit
    simp only [encode, List.getD_cons_zero, List.getD_cons_succ, Nat.add_assoc]
    refine decodeWords_of_decodeMajor (by omega) (by decide) ?_
    simp only [decodeMajor, decodeLong, Nat.reducePow, Nat.reduceDiv, Nat.reduceMod, Nat.reduceLT, if_false]
    simp only [bits_add_of_dvd, bits_mul_add_high, bits_mul_high, Nat.reducePow, Nat.reduceMod, Nat.reduceAdd, Nat.reduceLeDiff]
    simp (disch := omega) only [bits_mul_add, bits_mul, bits_zero_of_lt, bits_low, and_self, if_true]
  | _ => nomatch h

/-! ### What the rows of each table are -/

/-- A number without its lowest c bits. -/
def quot (x c : Nat) : Int := (x / 2 ^ c : Nat)

/-- A field as a difference: sums of neighbouring fields telescope. -/
theorem cast_bits {x hi lo : Nat} (h : lo ≤ hi + 1) : (bits x hi lo : Int) = quot x lo - 2 ^ (hi + 1 - lo) * quot x (hi + 1) := by
  have hdiv : x / 2 ^ lo / 2 ^ (hi + 1 - lo) = x / 2 ^ (hi + 1) := by
    rw [Nat.div_div_eq_div_mul, ← pow_add, Nat.add_sub_cancel' h]
  have hmod := Nat.mod_add_div (x / 2 ^ lo) (2 ^ (hi + 1 - lo))
  rw [hdiv] at hmod
  rw [eq_sub_iff_add_eq, quot, quot, bits]
  exact_mod_cast hmod

theorem quot_zero (x : Nat) : quot x 0 = x := by rw [quot, pow_zero, Nat.div_one]

theorem quot_top {x : Nat} (h : x < 2 ^ 32) : quot x 32 = 0 := by rw [quot, Nat.div_eq_of_lt h, Nat.cast_zero]

theorem bits_lt_of {x hi lo n : Nat} (h : 2 ^ (hi + 1 - lo) ≤ n) : bits x hi lo < n :=
  (Nat.mod_lt _ (Nat.two_pow_pos _)).trans_le h

theorem decodeA_fits {w k : Nat} {i : Instr} (h : decodeA k w = some i) : tableOf i = .a ∧ fieldsFit i = true := by
  revert h
  fun_cases decodeA k w <;> intro h <;> cases h
  all_goals
    refine ⟨rfl, ?_⟩
    simp only [fieldsFit, bits_lt_of, decide_true, Bool.and_self, Nat.reducePow, Nat.reduceAdd, Nat.reduceSub, Nat.le_refl]

theorem encode_of_decodeA {w k : Nat} {i : Instr} (hw : w < 2 ^ 32) (hk : bits w 31 25 = k)
    (h : decodeA k w = some i) : encode i = [w] := by
  have htop := quot_top hw
  revert h
  fun_cases decodeA k w <;> intro h <;> cases h
  all_goals
    simp only [encode, List.cons.injEq, and_true]
    zify at *
    simp (disch := omega) only [cast_bits, quot_zero, Nat.reduceAdd, Nat.reduceSub, Int.reducePow] at *
    omega

theorem decodeB_fits {w k : Nat} {i : Instr} (h : decodeB k w = some i) : tableOf i = .b ∧ fieldsFit i = true := by
  revert h
  fun_cases decodeB k w <;> intro h <;> cases h
  all_goals
    refine ⟨rfl, ?_⟩
    simp only [fieldsFit, bits_lt_of, decide_true, Bool.and_self, Nat.reducePow, Nat.reduceAdd, Nat.reduceSub, Nat.le_refl]

theorem encode_of_decodeB {w k : Nat} {i : Instr} (hw : w < 2 ^ 32) (hk : bits w 31 25 = k)
    (h : decodeB k w = some i) : encode i = [w] := by
  have htop := quot_top hw
  revert h
  fun_cases decodeB k w <;> intro h <;> cases h
  all_goals
    simp only [encode, List.cons.injEq, and_true]
    zify at *
    simp (disch := omega) only [cast_bits, quot_zero, Nat.reduceAdd, Nat.reduceSub, Int.reducePow] at *
    omega

theorem decodeC_fits {w k : Nat} {i : Instr} (h : decodeC k w = some i) : tableOf i = .c ∧ fieldsFit i = true := by
  revert h
  fun_cases decodeC k w <;> intro h <;> cases h
  all_goals
    refine ⟨rfl, ?_⟩
    simp only [fieldsFit, bits_lt_of, decide_true, Bool.and_self, Nat.reducePow, Nat.reduceAdd, Nat.reduceSub, Nat.le_refl]

theorem encode_of_decodeC {w k : Nat} {i : Instr} (hw : w < 2 ^ 32) (hk : bits w 31 25 = k)
    (h : decodeC k w = some i) : encode i = [w] := by
  have htop := quot_top hw
  revert h
  fun_cases decodeC k w <;> intro h <;> cases h
  all_goals
    simp only [encode, List.cons.injEq, and_true]
    zify at *
    simp (disch := omega) only [cast_bits, quot_zero, Nat.reduceAdd, Nat.reduceSub, Int.reducePow] at *
    omega

theorem decodeD_fits {w k : Nat} {i : Instr} (h : decodeD k w = some i) : tableOf i = .d ∧ fieldsFit i = true := by
  revert h
  fun_cases decodeD k w <;> intro h <;> cases h
  all_goals
    refine ⟨rfl, ?_⟩
    simp only [fieldsFit, bits_lt_of, decide_true, Bool.and_self, Nat.reducePow, Nat.reduceAdd, Nat.reduceSub, Nat.le_refl]

theorem encode_of_decodeD {w k : Nat} {i : Instr} (hw : w < 2 ^ 32) (hk : bits w 31 25 = k)
    (h : decodeD k w = some i) : encode i = [w] := by
  have htop := quot_top hw
  revert h
  fun_cases decodeD k w <;> intro h <;> cases h
  all_goals
    simp only [encode, List.cons.injEq, and_true]
    zify at *
    simp (disch := omega) only [cast_bits, quot_zero, Nat.reduceAdd, Nat.reduceSub, Int.reducePow] at *
    omega

theorem decodeE_fits {w k : Nat} {i : Instr} (h : decodeE k w = some i) : tableOf i = .e ∧ fieldsFit i = true := by
  revert h
  fun_cases decodeE k w <;> intro h <;> cases h
  all_goals
    refine ⟨rfl, ?_⟩
    simp only [fieldsFit, bits_lt_of, decide_true, Bool.and_self, Nat.reducePow, Nat.reduceAdd, Nat.reduceSub, Nat.le_refl]

theorem encode_of_decodeE {w k : Nat} {i : Instr} (hw : w < 2 ^ 32) (hk : bits w 31 25 = k)
    (h : decodeE k w = some i) : encode i = [w] := by
  have htop := quot_top hw
  revert h
  fun_cases decodeE k w <;> intro h <;> cases h
  all_goals
    simp only [encode, List.cons.injEq, and_true]
    zify at *
    simp (disch := omega) only [cast_bits, quot_zero, Nat.reduceAdd, Nat.reduceSub, Int.reducePow] at *
    omega

theorem decodeLong_fits {w x k : Nat} {i : Instr} (h : decodeLong k w x = some i) : tableOf i = .long ∧ fieldsFit i = true := by
  revert h
  fun_cases decodeLong k w x <;> intro h <;> cases h
  all_goals
    refine ⟨rfl, ?_⟩
    simp only [fieldsFit, bits_lt_of, decide_true, Bool.and_self, Nat.reducePow, Nat.reduceAdd, Nat.reduceSub, Nat.le_refl]

theorem encode_of_decodeLong {w x k : Nat} {i : Instr} (hw : w < 2 ^ 32) (hx : x < 2 ^ 32) (hk : bits w 31 25 = k)
    (h : decodeLong k w x = some i) : isLongMajor k = true ∧ encode i = [w, x] := by
  have htop := quot_top hw
  have htopx := quot_top hx
  revert h
  fun_cases decodeLong k w x <;> intro h <;> cases h
  all_goals
    refine ⟨rfl, ?_⟩
    simp only [encode, List.cons.injEq, and_true]
    zify at *
    simp (disch := omega) only [cast_bits, quot_zero, Nat.reduceAdd, Nat.reduceSub, Int.reducePow] at *
    omega

theorem decodeMajor_fits {k w x : Nat} {i : Instr} (h : decodeMajor k w x = some i) : tableOf i ≠ .reserved ∧ fieldsFit i = true := by
  have hrow (t : Table) (ht : t ≠ .reserved) (hrow : tableOf i = t ∧ fieldsFit i = true) : tableOf i ≠ .reserved ∧ fieldsFit i = true :=
    ⟨hrow.1.trans_ne ht, hrow.2⟩
  unfold decodeMajor at h
  split_ifs at h
  · exact hrow .a nofun (decodeA_fits h)
  · exact hrow .b nofun (decodeB_fits h)
  · exact hrow .c nofun (decodeC_fits h)
  · exact hrow .d nofun (decodeD_fits h)
  · exact hrow .e nofun (decodeE_fits h)
  · exact hrow .long nofun (decodeLong_fits h)

theorem isLongMajor_of_lt {k : Nat} (h : k < 0x60) : isLongMajor k = false := by
  rw [isLongMajor, decide_eq_false (by omega), Bool.false_and]

theorem encode_of_decodeMajor {k w x : Nat} {i : Instr} (hw : w < 2 ^ 32) (hx : x < 2 ^ 32) (hk : bits w 31 25 = k)
    (h : decodeMajor k w x = some i) : encode i = if isLongMajor k then [w, x] else [w] := by
  have hshort (hlt : k < 0x60) (henc : encode i = [w]) : encode i = if isLongMajor k then [w, x] else [w] := by
    rw [henc, isLongMajor_of_lt hlt]
    rfl
  unfold decodeMajor at h
  split_ifs at h
  · exact hshort (by omega) (encode_of_decodeA hw hk h)
  · exact hshort (by omega) (encode_of_decodeB hw hk h)
  · exact hshort (by omega) (encode_of_decodeC hw hk h)
  · exact hshort (by omega) (encode_of_decodeD hw hk h)
  · exact hshort (by omega) (encode_of_decodeE hw hk h)
  · obtain ⟨hlong, henc⟩ := encode_of_decodeLong hw hx hk h
    rw [henc, if_pos hlong]

/-- Where a decoded instruction comes from: the reserved row, or a row of its major's table. -/
theorem decodeWords_cases {w x : Nat} {i : Instr} (h : decodeWords w x = .ok i) :
    (isReservedMajor (bits w 31 25) = true ∧ i = .reservedMajor w (if isLongMajor (bits w 31 25) then x else 0)) ∨
    (isReservedMajor (bits w 31 25) = false ∧ decodeMajor (bits w 31 25) w x = some i) := by
  cases hr : isReservedMajor (bits w 31 25) with
  | true => exact .inl ⟨rfl, (Except.ok.inj ((decodeWords_reserved hr).symm.trans h)).symm⟩
  | false =>
    refine .inr ⟨rfl, ?_⟩
    rw [decodeWords_assigned rfl hr] at h
    cases hd : decodeMajor (bits w 31 25) w x with
    | none => rw [hd] at h; cases h
    | some j => rw [hd] at h; cases h; rfl

theorem fieldsFit_reservedMajor {w x : Nat} (hw : w < 2 ^ 32) (hx : x < 2 ^ 32) (hr : isReservedMajor (bits w 31 25) = true) :
    fieldsFit (.reservedMajor w (if isLongMajor (bits w 31 25) then x else 0)) = true := by
  simp only [fieldsFit, hr, decide_eq_true hw, Bool.true_and]
  cases isLongMajor (bits w 31 25) with
  | true => exact decide_eq_true hx
  | false => rfl

/-- An instruction that decodes encodes to its words, and its fields fit. -/
theorem encode_of_decodeWords {w x : Nat} {i : Instr} (hw : w < 2 ^ 32) (hx : x < 2 ^ 32) (h : decodeWords w x = .ok i) :
    encode i = (if isLongMajor (bits w 31 25) then [w, x] else [w]) ∧ fieldsFit i = true := by
  rcases decodeWords_cases h with ⟨hr, rfl⟩ | ⟨-, hd⟩
  · refine ⟨?_, fieldsFit_reservedMajor hw hx hr⟩
    cases hl : isLongMajor (bits w 31 25) <;> simp only [encode, hl, if_true, Bool.false_eq_true, if_false]
  · exact ⟨encode_of_decodeMajor hw hx rfl hd, (decodeMajor_fits hd).2⟩

theorem isReservedMajor_iff_decodeWords (w x : Nat) :
    isReservedMajor (bits w 31 25) = true ↔ ∃ u v : Nat, decodeWords w x = .ok (.reservedMajor u v) := by
  refine ⟨fun hr => ⟨_, _, decodeWords_reserved hr⟩, fun ⟨u, v, h⟩ => ?_⟩
  rcases decodeWords_cases h with ⟨hr, -⟩ | ⟨-, hd⟩
  · exact hr
  · exact absurd rfl (decodeMajor_fits hd).1

/-- Settles O2: each table's rows encode back to the words they were read from; the reserved row stands apart from them. -/
theorem wordsHaveOneReading : Obligations.WordsHaveOneReading := by
  unfold Obligations.WordsHaveOneReading
  exact ⟨fun w x i hw hx h => encode_of_decodeWords hw hx h, isReservedMajor_iff_decodeWords⟩

/-! ### Decoding what was encoded -/

theorem encode_event {i : Instr} (h : tableOf i = .event) : encode i = [] := by
  cases i <;> cases h
  all_goals rfl

theorem decodeWords_encode_reserved {w v : Nat} (hfit : fieldsFit (.reservedMajor w v) = true) :
    decodeWords ((encode (.reservedMajor w v)).getD 0 0) ((encode (.reservedMajor w v)).getD 1 0) = .ok (.reservedMajor w v) := by
  simp only [fieldsFit, Bool.and_eq_true] at hfit
  obtain ⟨⟨hr, -⟩, hv⟩ := hfit
  cases hl : isLongMajor (bits w 31 25) with
  | true => simp only [encode, hl, if_true, List.getD_cons_zero, List.getD_cons_succ, decodeWords_reserved hr]
  | false =>
    simp only [hl, Bool.false_eq_true, if_false, beq_iff_eq] at hv
    simp only [encode, hl, Bool.false_eq_true, if_false, List.getD_cons_zero, decodeWords_reserved hr, hv]

theorem decodeWords_encode {i : Instr} (hfit : fieldsFit i = true) (hne : encode i ≠ []) :
    decodeWords ((encode i).getD 0 0) ((encode i).getD 1 0) = .ok i := by
  cases h : tableOf i with
  | a => exact decodeWords_encode_a h hfit
  | b => exact decodeWords_encode_b h hfit
  | c => exact decodeWords_encode_c h hfit
  | d => exact decodeWords_encode_d h hfit
  | e => exact decodeWords_encode_e h hfit
  | long => exact decodeWords_encode_long h hfit
  | event => exact absurd (encode_event h) hne
  | reserved =>
    cases i <;> cases h
    exact decodeWords_encode_reserved hfit

/-- The words of an instruction are words of 32 bits. -/
theorem encode_lt {i : Instr} (hfit : fieldsFit i = true) : ∀ w ∈ encode i, w < 2 ^ 32 := by
  cases i with
  | reservedMajor w v =>
    simp only [fieldsFit, Bool.and_eq_true, decide_eq_true_eq] at hfit
    obtain ⟨⟨-, hw⟩, hv⟩ := hfit
    cases hl : isLongMajor (bits w 31 25) with
    | true =>
      rw [hl, if_pos rfl, decide_eq_true_eq] at hv
      simpa [encode, hl] using ⟨hw, hv⟩
    | false => simpa [encode, hl] using hw
  | _ =>
    simp only [fieldsFit, Bool.and_eq_true, decide_eq_true_eq] at hfit
    simp only [encode, List.forall_mem_cons, List.not_mem_nil, false_implies, implies_true, and_true]
    try omega

/-- A byte of a word, as a number. -/
theorem toNat_byte (w k : Nat) : (BitVec.ofNat 8 (w / k)).toNat = w / k % 256 := BitVec.toNat_ofNat _ _

theorem wordOfBytes_bytesOfWord {w : Nat} (hw : w < 2 ^ 32) : wordOfBytes (BitVec.ofNat 8 w) (BitVec.ofNat 8 (w / 256))
    (BitVec.ofNat 8 (w / 65536)) (BitVec.ofNat 8 (w / 16777216)) = w := by
  simp only [wordOfBytes, BitVec.toNat_ofNat]
  omega

theorem decode_short {w : Nat} {i : Instr} (hw : w < 2 ^ 32) (hl : isLongMajor (bits w 31 25) = false) (h : decodeWords w 0 = .ok i)
    (rest : List Byte) : decode (bytesOfWord w ++ rest) = .ok (i, rest) := by
  simp only [decode, bytesOfWord, List.cons_append, List.nil_append, wordOfBytes_bytesOfWord hw, hl, h, Bool.false_eq_true, if_false]

theorem decode_long {w x : Nat} {i : Instr} (hw : w < 2 ^ 32) (hx : x < 2 ^ 32) (hl : isLongMajor (bits w 31 25) = true)
    (h : decodeWords w x = .ok i) (rest : List Byte) : decode (bytesOfWord w ++ (bytesOfWord x ++ rest)) = .ok (i, rest) := by
  simp only [decode, bytesOfWord, List.cons_append, List.nil_append, wordOfBytes_bytesOfWord hw, wordOfBytes_bytesOfWord hx, hl, h, if_true]

/-- Settles O1: decoding undoes encoding table by table, and a word's bytes give the word. -/
theorem decodeOfEncodeIsTheInstruction : Obligations.DecodeOfEncodeIsTheInstruction := by
  unfold Obligations.DecodeOfEncodeIsTheInstruction
  intro i hfit hne
  have hdec := decodeWords_encode hfit hne
  refine ⟨hdec, fun rest => ?_⟩
  have hword (n : Nat) : (encode i).getD n 0 < 2 ^ 32 := by
    rw [List.getD_eq_getElem?_getD]
    cases hn : (encode i)[n]? with
    | none => exact Nat.two_pow_pos 32
    | some w => exact encode_lt hfit w (List.mem_of_getElem? hn)
  have henc := (encode_of_decodeWords (hword 0) (hword 1) hdec).1
  cases hl : isLongMajor (bits ((encode i).getD 0 0) 31 25) with
  | true =>
    rw [hl, if_pos rfl] at henc
    have := decode_long (hword 0) (hword 1) hl hdec rest
    rw [henc]
    simpa using this
  | false =>
    rw [hl, if_neg Bool.false_ne_true] at henc
    have hsnd : (encode i).getD 1 0 = 0 := by rw [henc]; rfl
    rw [hsnd] at hdec
    have := decode_short (hword 0) hl hdec rest
    rw [henc]
    simpa using this

end Sys2Proof.Proofs
end

section
/-! SUPPORT. Words of the spec, active threads and issue turns (R45, R46, R59, R60, R253), and the proofs of the statements about them. -/

namespace Sys2Proof.Proofs

open Machine Laws

/-- Settles O3: each word is decoded by its major's table. -/
theorem wordsOfTheSpecDecode : Obligations.WordsOfTheSpecDecode := by
  unfold Obligations.WordsOfTheSpecDecode
  exact ⟨rfl, rfl, rfl, rfl, rfl, rfl, rfl, rfl, rfl, rfl⟩

/-! ### Active threads (R59, R60) -/

theorem inMask_and (a b : Mask) (t : Nat) : inMask (a &&& b) t = (inMask a t && inMask b t) := BitVec.getLsbD_and

theorem inMask_not (a : Mask) {t : Nat} (ht : t < 32) : inMask (~~~a) t = !inMask a t := by
  rw [inMask, BitVec.getLsbD_not, decide_eq_true ht, Bool.true_and, inMask]

theorem inMask_liveMask (f : Flock) (p : Path) {t : Nat} (ht : t < 32) : inMask (liveMask f p) t = (inMask p.mask t && !inMask f.exited t) := by
  rw [liveMask, inMask_and, inMask_not _ ht]

theorem inMask_activeIf (f : Flock) (p : Path) (g : Nat) (neg : Bool) {t : Nat} (ht : t < 32) :
    inMask (activeIf f p g neg) t = (inMask (liveMask f p) t && (inMask (getP f g) t != neg)) := by
  rw [activeIf, inMask_and]
  cases neg
  · rw [if_neg Bool.false_ne_true, Bool.bne_false]
  · rw [if_pos rfl, inMask_not _ ht, Bool.bne_true]

theorem inMask_getP_seven (f : Flock) {t : Nat} (ht : t < 32) : inMask (getP f 7) t = true := by
  rw [getP, if_pos rfl, inMask, BitVec.getLsbD_allOnes, decide_eq_true ht]

/-- Settles O4: a thread of the mask of active threads is on the path, has not exited, and its guard holds. -/
theorem activeThreadsAreGuardedLiveThreads : Obligations.ActiveThreadsAreGuardedLiveThreads := by
  unfold Obligations.ActiveThreadsAreGuardedLiveThreads
  intro s g n t ht
  refine ⟨?_, rfl, inMask_getP_seven _ ht⟩
  rw [activeNeg, inMask_activeIf _ _ _ _ ht, inMask_liveMask _ _ ht]

/-! ### The issue turn (R45, R253) -/

/-- A flock that has not yielded takes its own turn. -/
theorem turnTaker_own {s : State} (h : (cur s).yielded = false) : turnTaker s = s := by
  rw [turnTaker, h]
  rfl

/-- The words fetched at the issuing path decode to an instruction, which executes. -/
theorem runPath_decoded {s u : State} {ws : List Nat} {i : Instr} (hleft : (curPath s).left ≠ 0) (hfetch : fetchInstr s = (u, some ws))
    (hdec : decodeWords (ws.getD 0 0) (ws.getD 1 0) = .ok i) : runPath s = exec i u := by
  simp only [runPath, if_neg hleft, hfetch, hdec]

/-- The words fetched at the issuing path decode to nothing. -/
theorem runPath_illegal {s u : State} {ws : List Nat} {e : DecodeError} (hleft : (curPath s).left ≠ 0)
    (hfetch : fetchInstr s = (u, some ws)) (hdec : decodeWords (ws.getD 0 0) (ws.getD 1 0) = .error e) :
    runPath s = .next (takeTrap (illegalRec ws (wordMask u (ws.getD 0 0)) u) u) := by
  simp only [runPath, if_neg hleft, hfetch, hdec]

/-- A flock whose lower slot holds a path that waits for nothing runs that path. -/
theorem issueFlock_runs {s : State} {p : Path} (hp : pathOf (cur s) (lowerSlot (cur s)) = some p) (hw : p.wait = .none) :
    issueFlock s = runPath { s with second := lowerSlot (cur s) } := by
  have hready : slotReady s (lowerSlot (cur s)) = .runs := by
    simp only [slotReady, hp, readiness, hw]
  have hwait : (curPath { s with second := lowerSlot (cur s) }).wait = .none := by
    show ((pathOf (cur s) (lowerSlot (cur s))).getD emptyPath).wait = .none
    rw [hp]
    exact hw
  have hrun : runSlot (lowerSlot (cur s)) s = runPath { s with second := lowerSlot (cur s) } := by
    simp only [runSlot, hwait]
  simp only [issueFlock, attempt, hready, hrun]
  split
  · rename_i h
    cases (Prod.mk.inj h).2
  · rename_i h
    exact (Prod.mk.inj h).1.symm

/-- A step whose next turn is the issue turn of a flock that may issue runs the path of the lower slot. -/
theorem step_issue {s : State} {c f : Nat} {r : List Turn} {p : Path} (hc : c < 576) (hf : f < 64) (ha : s.agenda = .issue c f :: r)
    (hmay : mayIssue { s with agenda := r, core := c, slot := f } c f = true)
    (hp : pathOf (cur (turnTaker { s with agenda := r, core := c, slot := f }))
      (lowerSlot (cur (turnTaker { s with agenda := r, core := c, slot := f }))) = some p) (hw : p.wait = .none) :
    step s = closeTurn (runPath { turnTaker { s with agenda := r, core := c, slot := f } with
      second := lowerSlot (cur (turnTaker { s with agenda := r, core := c, slot := f })) }) := by
  have hunits : ¬(576 ≤ c ∨ 64 ≤ f) := by omega
  rw [step, takeTurn, ha]
  simp only [runTurn, if_neg hunits, hmay, if_true, issueTurn]
  rw [issueFlock_runs hp hw]

/-- A turn after which no error ring entry is due adds nothing. -/
theorem closeTurn_quiet {t : State} (h : t.mgmt.errDue = []) : closeTurn (.next t) = .next t := by
  rw [closeTurn, flushErrors, h]

/-- A path whose PC is not at a clause header stands in its clause. -/
theorem curPath_left {s : State} {p : Path} (hp : pathOf (cur s) s.second = some p) (hleft : p.left ≠ 0) : (curPath s).left ≠ 0 := by
  rwa [curPath, hp]

/-- Settles O19: the issue turn runs the lower slot's path, whose words decode. -/
theorem stepRunsTheDecodedInstruction : Obligations.StepRunsTheDecodedInstruction := by
  unfold Obligations.StepRunsTheDecodedInstruction
  intro s u c f r p ws i hc hf ha s0 s1 s2
  refine ⟨turnTaker_own, fun hmay hp hw hleft hfetch hdec => ?_⟩
  have hstep : step s = closeTurn (exec i u) := by
    rw [step_issue hc hf ha hmay hp hw]
    exact congrArg closeTurn (runPath_decoded (curPath_left (s := s2) hp hleft) hfetch hdec)
  exact ⟨hstep, fun t ht hquiet => by rw [hstep, ht, closeTurn_quiet hquiet]⟩

end Sys2Proof.Proofs
end

section
/-! SUPPORT. What every instruction checks first, instructions on registers alone and special values (R55, R62 to R65, R69, R100, R101), and the proofs of the statements about them. -/

namespace Sys2Proof.Proofs

open Machine Laws

/-! ### What every instruction checks first (R55, R62, R69) -/

/-- The instruction answers with the checks of R55, of at least its own field codes. -/
def AnswersWithChecks (i : Instr) : Prop :=
  ∀ s : State, ∃ (m : Mask) (legal : Bool) (regs : List Nat) (body : State → State),
    (legalForm i = false → legal = false) ∧ exec i s = checked i m legal regs body s

/-- The instruction checks its field codes and the v registers regs, and then changes registers of its flock alone. -/
def ActsOnRegisters (i : Instr) (regs : List Nat) : Prop :=
  ∀ s : State, ∃ (m : Mask) (g : Flock → Flock),
    (∀ f, Safety.SameElse f (g f)) ∧ exec i s = checked i m (legalForm i) regs (finish i g) s

theorem and_left_false {a : Bool} (b : Bool) (h : a = false) : (a && b) = false := by rw [h, Bool.false_and]

theorem and_and_left_false {a : Bool} (b c : Bool) (h : a = false) : (a && b && c) = false := by rw [h, Bool.false_and, Bool.false_and]

theorem answersWithChecks_a {i : Instr} (h : tableOf i = .a) : AnswersWithChecks i := by
  intro s
  cases i <;> cases h <;> exact ⟨_, _, _, _, id, rfl⟩

theorem answersWithChecks_b {i : Instr} (h : tableOf i = .b) : AnswersWithChecks i := by
  intro s
  cases i <;> cases h
  all_goals simp only [exec, execFadd, execFsub, execFmul, execFmin, execFmax, execFcmp, execFrcp, execFrsq, execFex2, execFlg2, execFsin, execFcos,
        execFclass, execFscale, execFround, execCvt, execCvti, execPack, execUnpack, execCbdec, execCbload, execMxscale, execIcmp,
        execPop, execBallot, execAgree, execMatchK, execXpick, execXfold, execLead]
  all_goals exact ⟨_, _, _, _, id, rfl⟩

theorem answersWithChecks_c {i : Instr} (h : tableOf i = .c) : AnswersWithChecks i := by
  intro s
  cases i <;> cases h
  all_goals simp only [exec, execLd, execSt, execLdsp, execStsp, execAtom, execRed, execAtomsp, execLdfe, execStfe, execFence, execLdb, execCache,
        execPrefetch, execTick, loadOp, storeOp, atomicOp, reduceOp, feOp, feStrictOp, longOp]
  case stfe => split <;> exact ⟨_, _, _, _, id, rfl⟩
  all_goals exact ⟨_, _, _, _, id, rfl⟩

theorem answersWithChecks_d {i : Instr} (h : tableOf i = .d) : AnswersWithChecks i := by
  intro s
  cases i <;> cases h
  all_goals simp only [exec, execAccTake, execAccFree, execAccZero, execAccRd, execRegion, execCompress, execCp, execCpColl, execCpwait, execCpfree,
        execGather, execScatter, execMcast, execColl, execHstat, tileOp, longOp]
  all_goals exact ⟨_, _, _, _, id, rfl⟩

theorem answersWithChecks_e {i : Instr} (h : tableOf i = .e) : AnswersWithChecks i := by
  intro s
  cases i <;> cases h
  all_goals simp only [exec, execBra, execBrx, execCallI, execCallx, execRet, execExitI, execFabEnter, execFabLeave, execBar, execYield, execNap,
        execTrapI, execIcinv, execStrm, execSysopHarvest, execSysopUnpoison, execFetchb, branchOp, callTo, callOp, sysopOp, strmOp]
  case bra | brx | ret => exact ⟨_, _, _, _, and_left_false _, rfl⟩
  case callI | callx => exact ⟨_, _, _, _, and_and_left_false _ _, rfl⟩
  all_goals exact ⟨_, _, _, _, id, rfl⟩

theorem answersWithChecks_long {i : Instr} (h : tableOf i = .long) : AnswersWithChecks i := by
  intro s
  cases i <;> cases h
  all_goals simp only [exec, execImad, execBfi, execFfma, execMovI, execIaddI, execFcmpI, execIcmpI, execLdo, execSto, execAtomo, execRedo, execMma,
        execMmaSp, execMmaDec, execCpx, execPaddock, execBraL, execCallL, execStrmL, loadOp, storeOp, atomicOp, reduceOp, longOp,
        branchOp, callTo, callOp, strmOp, regOp, predOp]
  case braL => exact ⟨_, _, _, _, and_left_false _, rfl⟩
  case callL => exact ⟨_, _, _, _, and_and_left_false _ _, rfl⟩
  case imad => split <;> exact ⟨_, _, _, _, id, rfl⟩
  all_goals exact ⟨_, _, _, _, id, rfl⟩

theorem answersWithChecks_reserved (w x : Nat) : AnswersWithChecks (.reservedMajor w x) :=
  fun _ => ⟨_, _, [], fun s => s, id, rfl⟩

/-- Whatever has words answers with checks: only device events do not. -/
theorem answersWithChecks_of_words {i : Instr} (h : encode i ≠ []) : AnswersWithChecks i := by
  cases ht : tableOf i with
  | a => exact answersWithChecks_a ht
  | b => exact answersWithChecks_b ht
  | c => exact answersWithChecks_c ht
  | d => exact answersWithChecks_d ht
  | e => exact answersWithChecks_e ht
  | long => exact answersWithChecks_long ht
  | reserved =>
    cases i <;> cases ht
    exact answersWithChecks_reserved _ _
  | event => exact absurd (encode_event ht) h

theorem checked_illegal (i : Instr) (m : Mask) (regs : List Nat) (body : State → State) (s : State) :
    checked i m false regs body s = .next (takeTrap (illegalRec (encode i) m s) s) := rfl

theorem exec_illegal {i : Instr} (hw : encode i ≠ []) (hl : legalForm i = false) (s : State) :
    ∃ m, exec i s = .next (takeTrap (illegalRec (encode i) m s) s) := by
  obtain ⟨m, legal, regs, body, hlegal, he⟩ := answersWithChecks_of_words hw s
  rw [he, hlegal hl]
  exact ⟨m, checked_illegal i m regs body s⟩

theorem exec_reservedMajor (w x : Nat) (s : State) : exec (.reservedMajor w x) s =
    .next (takeTrap (illegalRec (encode (.reservedMajor w x)) (active s (bits w 24 22)) s) s) := rfl

/-- Settles O22: the checks that every instruction makes first refuse its unassigned codes, and a reserved major's row always. -/
theorem unassignedCodesTrap : Obligations.UnassignedCodesTrap := by
  unfold Obligations.UnassignedCodesTrap
  refine ⟨fun i s hw hl => exec_illegal hw hl s, exec_reservedMajor, rfl, fun w x s _ hr => ?_⟩
  exact ⟨_, _, decodeWords_reserved hr, rfl, exec_reservedMajor _ _ s⟩

/-! ### Instructions on registers alone (R62, R100, R101) -/

theorem sameElse_trans {f g h : Flock} (hfg : Safety.SameElse f g) (hgh : Safety.SameElse g h) : Safety.SameElse f h := by
  obtain ⟨l, hl⟩ := hfg
  obtain ⟨l', hl'⟩ := hgh
  exact ⟨l', by rw [hl', hl]⟩

theorem sameElse_status (f : Flock) (x : BitVec 32) : Safety.SameElse f { f with status := x } := ⟨f.latch, rfl⟩

theorem sameElse_emit (f : Flock) (m : Mask) (d : Dst) (r : Nat → Word × Nat) : Safety.SameElse f (emit f m d r) := by
  obtain ⟨-, h, -, -⟩ := emit_writes f m d r
  exact h

theorem sameElse_putP (f : Flock) (p : Nat) (m : Mask) (b : Nat → Bool) : Safety.SameElse f (putP f p m (maskOf b)) := by
  obtain ⟨-, h, -, -, -⟩ := putP_writes f p m b
  exact h

theorem actsOnRegisters_of_regOp {i : Instr} {d : Dst} {srcs : List Src} {regs : List Nat}
    (h : ∀ s, ∃ m r, exec i s = regOp i m d srcs r s) (hr : Safety.named d srcs = regs) : ActsOnRegisters i regs := by
  subst hr
  intro s
  obtain ⟨m, r, he⟩ := h s
  exact ⟨m, fun f => emit f m d (r f), fun f => sameElse_emit f m d _, he⟩

theorem actsOnRegisters_of_predOp {i : Instr} {srcs : List Src} {regs : List Nat}
    (h : ∀ s, ∃ m p r, exec i s = predOp i m p srcs r s) (hr : srcs.flatMap srcRegs = regs) : ActsOnRegisters i regs := by
  subst hr
  intro s
  obtain ⟨m, p, r, he⟩ := h s
  exact ⟨m, fun f => putP f p m (maskOf (r f)), fun f => sameElse_putP f p m _, he⟩

theorem named_two (d : Dst) (x y : Src) : Safety.named d [x, y] = dstRegs d ++ (srcRegs x ++ srcRegs y) := by
  rw [Safety.named, List.flatMap_cons, List.flatMap_singleton]

theorem actsOnRegisters_max2sel (g d a b q t u : Nat) :
    ActsOnRegisters (.max2sel g d a b q t u) (Safety.named (.v d) [.v a, if u = 1 then .s b else .v b]) := by
  intro s
  rw [named_two]
  simp only [exec, execMax2sel]
  refine ⟨active s g, _, fun f => ?_, rfl⟩
  split
  · exact sameElse_emit ..
  · exact sameElse_trans (sameElse_trans (sameElse_emit ..) (sameElse_putP ..)) (sameElse_putP ..)

theorem actsOnRegisters_sreg (g d sx u c : Nat) :
    ActsOnRegisters (.sreg g d sx u c) (Safety.named (if u = 1 then .s d else .v d) []) := by
  intro s
  rw [Safety.named, List.flatMap_nil, List.append_nil]
  simp only [exec, execSreg]
  refine ⟨active s g, _, fun f => ?_, rfl⟩
  split
  · exact sameElse_trans (sameElse_emit ..) (sameElse_status ..)
  · exact sameElse_emit ..

theorem actsOnRegisters_imad (g d a b c t cc fm : Nat) : ActsOnRegisters (.imad g d a b c t cc fm)
    (if fm = 2 then dstRegs (dstOf c d) ++ Safety.named (dstOf c (d + 1)) [srcOf c a, srcB c b, srcOf c cc, srcOf c (cc + 1)]
      else Safety.named (dstOf c d) [srcOf c a, srcB c b, srcOf c cc]) := by
  intro s
  simp only [exec, execImad]
  split
  · rw [Safety.named, ← List.append_assoc]
    exact ⟨active s g, _, fun f => sameElse_trans (sameElse_emit ..) (sameElse_emit ..), rfl⟩
  · exact ⟨active s g, _, fun f => sameElse_emit .., rfl⟩

theorem flatMap_srcRegs_two (x y : Src) : [x, y].flatMap srcRegs = srcRegs x ++ srcRegs y := by
  rw [List.flatMap_cons, List.flatMap_singleton]

theorem actsOnRegisters_of_named {i : Instr} {regs : List Nat} (h : Safety.registersNamed i = some regs) : ActsOnRegisters i regs := by
  cases i <;> cases h
  case max2sel => exact actsOnRegisters_max2sel _ _ _ _ _ _ _
  case sreg => exact actsOnRegisters_sreg _ _ _ _ _
  case imad => exact actsOnRegisters_imad _ _ _ _ _ _ _ _
  case fcmp | icmp => exact actsOnRegisters_of_predOp (fun s => ⟨_, _, _, rfl⟩) (flatMap_srcRegs_two _ _)
  case fcmpI | icmpI => exact actsOnRegisters_of_predOp (fun s => ⟨_, _, _, rfl⟩) (List.flatMap_singleton _ _)
  case pop | agree => exact actsOnRegisters_of_predOp (srcs := []) (fun s => ⟨_, _, _, rfl⟩) rfl
  case lead => exact actsOnRegisters_of_predOp (fun s => ⟨_, _, _, rfl⟩) (by split <;> rfl)
  case unpack | cbdec => exact actsOnRegisters_of_regOp (fun s => ⟨_, _, rfl⟩) (by split <;> rfl)
  case xpick =>
    refine actsOnRegisters_of_regOp (fun s => ⟨_, _, rfl⟩) ?_
    split
    · rfl
    · split <;> rfl
  case xfold => exact actsOnRegisters_of_regOp (fun s => ⟨_, _, rfl⟩) (by split <;> rfl)
  all_goals exact actsOnRegisters_of_regOp (fun s => ⟨_, _, rfl⟩) rfl

/-- A flock whose path is not swapped out keeps its stack. -/
theorem stack_advancePath {f : Flock} {second : Bool} (n clk : Nat)
    (h : ∀ p, pathOf f second = some p → p.hint = false ∨ f.stack = []) : (advancePath n clk second f).stack = f.stack := by
  rw [advancePath]
  cases hp : pathOf f second with
  | none => rfl
  | some p =>
    dsimp only
    split
    · next he =>
      have hs : f.stack = [] := (h p hp).resolve_left (by simp [he.2])
      simp [yieldPoint, hs]
    · exact stack_withPath f second _

/-- An instruction on registers alone changes its flock's registers and then moves its path on, or it traps. -/
theorem exec_of_actsOnRegisters {i : Instr} {regs : List Nat} (h : ActsOnRegisters i regs) (s : State) :
    (∃ r, exec i s = .next (takeTrap r s)) ∨
    ∃ g, Safety.SameElse (cur s) g ∧ exec i s = .next (advance (encode i).length (setCur g s)) := by
  obtain ⟨m, g, hg, he⟩ := h s
  rcases checked_cases i m (legalForm i) regs (finish i g) s with ⟨-, ht⟩ | ⟨r, -, ht⟩ | ⟨-, -, hb⟩
  · exact .inl ⟨_, he.trans ht⟩
  · exact .inl ⟨_, he.trans ht⟩
  · exact .inr ⟨g (cur s), hg _, he.trans hb⟩

/-- Moving on a flock that keeps its stack only stores the flock. -/
theorem advance_setCur_keeps {s : State} {g : Flock} (n : Nat) (hg : Safety.SameElse (cur s) g)
    (h : (curPath s).hint = false ∨ (cur s).stack = []) : ∃ x, advance n (setCur g s) = setCur x (setCur g s) := by
  obtain ⟨la, hg⟩ := hg
  have hstack : g.stack = (cur s).stack := by rw [hg]
  have hpath : pathOf g s.second = pathOf (cur s) s.second := by rw [hg]; cases s.second <;> rfl
  refine ⟨_, setFlockStack_keeps _ _ _ _ ?_⟩
  rw [← cur, cur_setCur]
  refine stack_advancePath n _ fun p hp => ?_
  rw [setCur_second, hpath] at hp
  rw [hstack]
  exact h.imp_left fun hh => by rwa [curPath, hp] at hh

/-- Settles O32: an instruction on registers alone changes its own flock, and its path moves on in place. -/
theorem registerInstructionsKeepTheRest : Obligations.RegisterInstructionsKeepTheRest := by
  unfold Obligations.RegisterInstructionsKeepTheRest
  intro i regs s hi
  refine (exec_of_actsOnRegisters (actsOnRegisters_of_named hi) s).imp_right fun ⟨g, hg, he⟩ => ⟨g, hg, he, fun h => ?_⟩
  refine ⟨?_, fun c => ?_, fun c f hcf => ?_⟩
  · obtain ⟨x, hx⟩ := advance_setCur_keeps (encode i).length hg h
    rw [hx]; rfl
  · obtain ⟨x, hx⟩ := advance_setCur_keeps (encode i).length hg h
    rw [hx, setCur, coreAt_setFlock, setCur, coreAt_setFlock]
  · refine (flockAt_advance _ (setCur g s) c f hcf).trans ?_
    rw [flockAt_setCur, if_neg (by tauto)]

/-! ### Registers beyond the allocation (R62) -/

/-- The first register at or above the allocation. -/
theorem overBudget_first {f : Flock} {before : List Nat} {n : Nat} (after : List Nat) (hb : ∀ k ∈ before, k < f.budget)
    (hn : f.budget ≤ n) : overBudget f (before ++ n :: after) = some n := by
  have hnone : before.find? (fun k => decide (f.budget ≤ k)) = none := overBudget_none f before hb
  rw [overBudget, List.find?_append, hnone, Option.none_or, List.find?_cons_of_pos (by simpa using hn)]

/-- Settles O33: the checks of R55 find the form assigned and then the first register beyond the allocation. -/
theorem registersBeyondTheAllocationTrap : Obligations.RegistersBeyondTheAllocationTrap := by
  unfold Obligations.RegistersBeyondTheAllocationTrap
  intro i before after n s hi hl hb hn
  obtain ⟨m, g, -, he⟩ := actsOnRegisters_of_named hi s
  refine ⟨m, ?_⟩
  rw [he, checked, hl, overBudget_first after hb hn]
  rfl

/-! ### Special values (R63 to R65) -/

theorem flAll_replicate_zero (ts : List Nat) : flAll (ts.map fun _ => 0) = 0 := by
  induction ts with
  | nil => rfl
  | cons t ts ih =>
    rw [List.map_cons, flAll, List.foldl_cons, flOr, Nat.or_self]
    exact ih

theorem emit_quiet_status (f : Flock) (m : Mask) (d : Dst) (x : Nat → Word) :
    (emit f m d fun t => (x t, 0)).status = f.status := by
  obtain ⟨-, -, -, h⟩ := emit_writes f m d fun t => (x t, 0)
  rw [h, flAll_replicate_zero, BitVec.or_zero]

/-- The status after sreg (R64, R65): .clr clears the sticky flags where a thread is active. -/
def statusAfterSreg (c : Nat) (m : Mask) (st : Word) : Word := if c = 1 ∧ m ≠ 0 then statusClear st else st

theorem getLsbD_statusClear (st : Word) {k : Nat} (hk : k < 32) :
    (statusClear st).getLsbD k = (st.getLsbD k && !(decide (k < 6) || decide (k = 8))) := by
  rw [statusClear, BitVec.getLsbD_and, BitVec.getLsbD_not, decide_eq_true hk, Bool.true_and]
  interval_cases k <;> rfl

theorem getLsbD_statusAfterSreg (c : Nat) (m : Mask) (st : Word) {k : Nat} (hk : k < 32) : (statusAfterSreg c m st).getLsbD k =
    (st.getLsbD k && !(decide (c = 1) && decide (m ≠ 0) && (decide (k < 6) || decide (k = 8)))) := by
  rw [statusAfterSreg]
  split
  · next h => rw [getLsbD_statusClear st hk, decide_eq_true h.1, decide_eq_true h.2, Bool.and_self, Bool.true_and]
  · next h =>
    have : (decide (c = 1) && decide (m ≠ 0)) = false := by rw [← Bool.decide_and, decide_eq_false h]
    rw [this, Bool.false_and, Bool.not_false, Bool.and_true]

theorem writes_status {f g : Flock} {m : Mask} {d : Dst} {x : Nat → Word} (h : Safety.Writes f g m d x) (st : Word) :
    Safety.Writes f { g with status := st } m d x := h

/-- What sreg makes of its flock. -/
def sregFlock (d sx u c : Nat) (m : Mask) (s : State) (f : Flock) : Flock :=
  let r := emit f m (if u = 1 then .s d else .v d) fun t => (BitVec.ofNat 32 (special s sx t), 0)
  if c = 1 ∧ m ≠ 0 then { r with status := statusClear r.status } else r

theorem sregFlock_eq (d sx u c : Nat) (m : Mask) (s : State) (f : Flock) :
    let r := emit f m (if u = 1 then .s d else .v d) fun t => (BitVec.ofNat 32 (special s sx t), 0)
    sregFlock d sx u c m s f = { r with status := statusAfterSreg c m f.status } := by
  intro r
  have hr : r.status = f.status := emit_quiet_status f m _ _
  rw [sregFlock, statusAfterSreg, ← hr]
  split <;> rfl

theorem legalForm_sreg {g d sx u c : Nat} (hsx : sx ≤ 16) (hu : u = 1 → 2 ≤ sx) (hc : c = 0 ∨ sx = 15) :
    legalForm (.sreg g d sx u c) = true := by
  simp only [legalForm, Bool.and_eq_true, Bool.or_eq_true, Bool.not_eq_true', Bool.and_eq_false_iff, beq_iff_eq, decide_eq_true_eq,
    decide_eq_false_iff_not, beq_eq_false_iff_ne]
  exact ⟨⟨hsx, or_iff_not_imp_left.mpr fun h => by have := hu (not_not.mp h); omega⟩, hc⟩

theorem exec_sreg (s : State) (g d sx u c : Nat) : exec (.sreg g d sx u c) s =
    checked (.sreg g d sx u c) (active s g) (legalForm (.sreg g d sx u c)) (dstRegs (if u = 1 then .s d else .v d))
      (finish (.sreg g d sx u c) (sregFlock d sx u c (active s g) s)) s := rfl

/-- Settles O11: sreg's flock has the special value emitted, and its status cleared after the read. -/
theorem specialValuesRead : Obligations.SpecialValuesRead := by
  unfold Obligations.SpecialValuesRead
  intro s g d sx u c hsx hu hc hb value
  have hacc : Safety.Accepts (.sreg g d sx u c) (dstRegs (if u = 1 then .s d else .v d)) s :=
    ⟨legalForm_sreg hsx hu hc, by simpa only [Safety.named, List.flatMap_nil, List.append_nil] using hb⟩
  refine ⟨sregFlock d sx u c (active s g) s (cur s), ?_, ?_⟩
  · rw [exec_sreg, checked_accepts _ _ _ _ _ hacc]
    rfl
  · obtain ⟨hw, he, hp, -⟩ := emit_writes (cur s) (active s g) (if u = 1 then .s d else .v d)
      fun t => (BitVec.ofNat 32 (special s sx t), 0)
    rw [sregFlock_eq]
    exact ⟨hw, sameElse_trans he (sameElse_status _ _), hp, fun k hk => getLsbD_statusAfterSreg c _ _ hk⟩

end Sys2Proof.Proofs
end

section
/-! SUPPORT. Words fetched and held, and clause starts (R46 to R48, R253, R264, R280, R281, R353), and the proofs of the statements about them. -/

namespace Sys2Proof.Proofs

open Machine Laws

/-! ### Words fetched and held (R264, R280, R281, R353) -/

/-- The key of the word at a code offset of the issuing path. -/
def wordKey (s : State) (off : Nat) : Nat := icacheKey (curLaunch s).dom ((curObj s).va + off)

theorem fetchWord_ahead {s : State} {off : Nat} {w : Word} (h : smapFind (cur s).ahead (aheadKey off s.second) = some w) :
    fetchWord off s =
      (setCur { cur s with ahead := smapDrop (cur s).ahead fun k => k == aheadKey off s.second } s, some w.toNat) := by
  simp only [fetchWord, h]

/-- A word that is not fetched ahead is read now. -/
theorem fetchWord_reads {s t : State} {off w : Nat} (h : smapFind (cur s).ahead (aheadKey off s.second) = none)
    (hr : readCode off s = (t, .word w)) : fetchWord off s = (t, some w) := by
  simp only [fetchWord, peekWord, h, hr]

theorem readCode_held {s : State} {off : Nat} {w : Word} (h : smapFind (coreAt s s.core).icache (wordKey s off) = some w) :
    readCode off s = (s, .word w.toNat) := by
  simp only [readCode, wordKey] at h ⊢
  simp only [h]

/-- The state of a core that comes to hold a word. -/
def holdWord (key w : Nat) (s : State) : State :=
  setCore s.core { coreAt s s.core with icache := smapPut (coreAt s s.core).icache key (BitVec.ofNat 32 w) } s

theorem find_holdWord (key w : Nat) (s : State) :
    smapFind (coreAt (holdWord key w s) (holdWord key w s).core).icache key = some (BitVec.ofNat 32 w) := by
  show smapFind (coreAt (holdWord key w s) s.core).icache key = _
  rw [holdWord, coreAt_setCore, if_pos rfl, find_put, if_pos rfl]

/-- A word that its core does not hold is read at its page's home, and the core then holds it. -/
theorem readCode_home {s u : State} {off x : Nat} (h : smapFind (coreAt s s.core).icache (wordKey s off) = none)
    (hp : pageFor (curAgent s) .fetch ((curObj s).va + off) s = (u, .ok x)) :
    let v := verifyElement x ((curObj s).va + off) 4 u
    let l := loadBytes none x ((curObj s).va + off) 4 v
    elementBad v x ((curObj s).va + off) 4 = false →
      readCode off s = (holdWord (wordKey s off) (leNat l.2) l.1, .word (leNat l.2)) := by
  intro v l hbad
  simp only [readCode, wordKey] at h ⊢
  simp only [h, hp]
  rw [if_neg (by rw [hbad]; exact Bool.false_ne_true)]
  rfl

/-- A path that may find a kept value of a word fetches it ahead. -/
theorem fetchOld_found {s : State} {off n stamp : Nat} {w : Word} (hl : (cur s).launch ≠ 0)
    (hp : pathOf (cur s) s.second ≠ none) (ho : off % 4 = 0) (hn : (smapGet [] s.codeSeen (wordKey s off))[n]? = some (stamp, w))
    (hm : mayFetch s (wordKey s off) stamp = true) : fetchOld s.core s.slot s.second off n s =
      setCur { cur s with ahead := smapPut (cur s).ahead (aheadKey off s.second) w } s := by
  have hcan : ¬((cur s).launch = 0 ∨ (pathOf (cur s) s.second).isNone = true ∨ off % 4 ≠ 0) := by
    simp [hl, hp, ho]
  have : ({ s with core := s.core, slot := s.slot, second := s.second } : State) = s := rfl
  simp only [fetchOld, if_neg hcan]
  simp only [wordKey] at hn hm
  simp only [hn, hm, if_true]
  rfl

theorem mayFetch_of_fences {s : State} {key stamp : Nat} (h : ∀ t, inMask (liveMask (cur s) (curPath s)) t = true →
    smapGet 0 (curWg s).fenced (fenceKey key (cur s).index t) ≤ stamp) : mayFetch s key stamp = true := by
  simp only [mayFetch, List.all_eq_true, decide_eq_true_eq]
  intro t ht
  exact h t (List.mem_filter.mp ht).2

/-- Settles O20: each place a word may be fetched from, and the illegal-opcode of words that decode to nothing. -/
theorem fetchedWordsDecodeOrTrap : Obligations.FetchedWordsDecodeOrTrap := by
  unfold Obligations.FetchedWordsDecodeOrTrap
  constructor
  · intro s off key early
    refine ⟨fun w => fetchWord_ahead, fun w he hk => fetchWord_reads he (readCode_held hk), fun n stamp w hl hp ho hn hf => ?_,
      fun u x he hk hpage => ?_⟩
    · rw [fetchOld_found hl hp ho hn (mayFetch_of_fences hf), fetchWord_ahead (w := w)]
      rw [cur_setCur]
      exact (find_put ..).trans (if_pos rfl)
    · intro v hbad
      rw [fetchWord_reads he (readCode_home hk hpage hbad)]
      exact ⟨rfl, find_holdWord ..⟩
  · intro s u c f r p ws e hc hf ha s0 s1 s2 hmay hp hw hleft hfetch hdec
    refine ⟨wordMask u (ws.getD 0 0), ?_⟩
    rw [step_issue hc hf ha hmay hp hw, runPath_illegal (curPath_left hp hleft) hfetch hdec]
    rfl

/-! ### Clause starts (R46 to R48, R253) -/

theorem awaits_iff (f : Flock) (h : Nat) : (List.range 12).any (fun k => bitAt h (13 + k) && getCf f k != 0) = true ↔
    ∃ k < 12, h.testBit (13 + k) = true ∧ getCf f k ≠ 0 := by
  simp only [List.any_eq_true, List.mem_range, Bool.and_eq_true, bne_iff_ne, bitAt_eq_testBit]

/-- A path at a header, whose last clause's hint is spent, merges and enters its clause. -/
theorem exec_clauseStart {s : State} {p : Path} (hp : pathOf (cur s) s.second = some p) (hleft : p.left = 0) (hhint : p.hint = false) :
    exec .clauseStart s = .next (enterClause (mergeCur s)) := by
  show execClauseStart s = _
  simp only [execClauseStart, hp, hleft, hhint]
  rfl

section
variable {s t u : State} {h : Nat} {ws : List Nat} (hf : fetchWord (curPath s).pc s = (t, some h))
include hf

theorem enterClause_illegalHeader (hh : headerLegal h = false) : enterClause s = takeTrap (clauseRec h t) t := by
  simp [enterClause, hf, hh]

variable (hh : headerLegal h = true) (hp : peekWords (bits h 27 25 + 1) ((curPath s).pc + 4) t = (u, some ws))
include hh hp

theorem enterClause_illegalWords (hc : clauseWords ws = false) : enterClause s = takeTrap (clauseRec h u) u := by
  simp [enterClause, hf, hh, hp, hc]

theorem enterClause_waits (hc : clauseWords ws = true) (hk : ∃ k < 12, h.testBit (13 + k) = true ∧ getCf (cur u) k ≠ 0) :
    enterClause s = waitFor (.flags (bits h 24 13)) u := by
  simp [enterClause, hf, hh, hp, hc, (awaits_iff (cur u) h).mpr hk]

theorem enterClause_enters (hc : clauseWords ws = true) (hk : ∀ k < 12, h.testBit (13 + k) = true → getCf (cur u) k = 0) :
    enterClause s = mapCurPath (fun p => { p with
      pc := (curPath s).pc + 4, left := bits h 27 25 + 1, hint := h.testBit 4, setA := bits h 12 9, setB := bits h 8 5, wait := .none }) u := by
  have hno : ¬ (List.range 12).any (fun k => bitAt h (13 + k) && getCf (cur u) k != 0) = true := fun ha => by
    obtain ⟨k, hlt, hbit, hne⟩ := (awaits_iff (cur u) h).mp ha
    exact hne (hk k hlt hbit)
  rw [Bool.not_eq_true] at hno
  simp only [bitAt_eq_testBit] at hno
  simp [enterClause, hf, hh, hp, hc, hno, bitAt_eq_testBit]
end

/-- The paths that a merge leaves: one in slot 0, and the top of the stack in slot 1. -/
theorem mergePaths_meet {clk : Nat} {f : Flock} {p q : Path} (hp : f.path0 = some p) (hq : f.path1 = some q) (hpc : p.pc = q.pc)
    (hpl : p.left = 0) (hql : q.left = 0) (hph : p.hint = false) (hqh : q.hint = false) : mergePaths clk f =
      some (restartCount clk (refill { f with path0 := some (pathAt p.pc (p.mask ||| q.mask)), path1 := none, ahead := [] } true)) := by
  simp [mergePaths, hp, hq, hpc, hpl, hql, hph, hqh]

/-- Settles O43: a clause start's checks in their order, and what the merge makes of two paths. -/
theorem clauseStartsEnterTheirClause : Obligations.ClauseStartsEnterTheirClause := by
  unfold Obligations.ClauseStartsEnterTheirClause
  constructor
  · intro s s1 s2 h ws p hp hleft hhint s0 hf
    rw [exec_clauseStart hp hleft hhint]
    refine ⟨fun hh => ?_, fun hh hw => ⟨fun hc => ?_, fun hc hk => ?_, fun hc hk => ?_⟩⟩
    · rw [enterClause_illegalHeader hf hh]
    · rw [enterClause_illegalWords hf hh hw hc]
    · rw [enterClause_enters hf hh hw hc hk]
    · rw [enterClause_waits hf hh hw hc hk]
  · intro clk f p q hp hq hpc hpl hql hph hqh
    refine ⟨_, mergePaths_meet hp hq hpc hpl hql hph hqh, ?_⟩
    cases hs : f.stack with
    | nil => simp [refill, pathOf, restartCount, smapFind]
    | cons x r => simp [refill, pathOf, restartCount, smapFind, intoSlot, withPath, dropAhead, smapDrop]

end Sys2Proof.Proofs
end

section
/-! SUPPORT. Completed instructions and yield points (R45, R46, R52, R253 to R255), and the proof of the statement about them. -/

namespace Sys2Proof.Proofs

open Machine Laws

/-! ### Completed instructions and yield points (R45, R46, R52, R253 to R255) -/

/-- A path past n words of its clause: the hint of a clause that ends is spent. -/
def pastWords (n : Nat) (p : Path) : Path :=
  { p with pc := p.pc + 4 * n, left := p.left - n, hint := p.hint && decide (n < p.left), wait := .none }

theorem stepPath_eq_past {n : Nat} {p : Path} (h : p.hint = false ∨ n < p.left) : stepPath n p = pastWords n p := by
  have : p.hint = (p.hint && decide (n < p.left)) := by
    rcases h with h | h
    · rw [h, Bool.false_and]
    · rw [decide_eq_true h, Bool.and_true]
  rw [pastWords, ← this, stepPath]

theorem stepPath_spent {n : Nat} {p : Path} (hn : p.left ≤ n) : { stepPath n p with hint := false } = pastWords n p := by
  rw [pastWords, decide_eq_false (Nat.not_lt.mpr hn), Bool.and_false, stepPath]

/-- A hinted clause that ends is a yield of its path. -/
theorem advancePath_yields {n : Nat} (clk : Nat) {second : Bool} {f : Flock} {p : Path} (hp : pathOf f second = some p) (hh : p.hint = true)
    (hn : p.left ≤ n) : advancePath n clk second f = yieldPoint true clk second (withPath f second (some (pastWords n p))) := by
  simp only [advancePath, hp]
  rw [if_pos ⟨hn, hh⟩, stepPath_spent hn]

/-- The path that a swap sends to the bottom of the stack: a nap's rest is discarded (R278). -/
def swappedOut (p : Path) : Path :=
  match p.wait with
  | .nap _ => { p with wait := .none }
  | _ => p

theorem swappedOut_keeps (p : Path) : (swappedOut p).pc = p.pc ∧ (swappedOut p).left = p.left ∧ (swappedOut p).mask = p.mask ∧
    (swappedOut p).hint = p.hint := by
  rw [swappedOut]
  split <;> exact ⟨rfl, rfl, rfl, rfl⟩

theorem swapPath_some {clk : Nat} {second : Bool} {f : Flock} {p q : Path} {r : List Path} (hp : pathOf f second = some p)
    (hs : f.stack = q :: r) : swapPath clk second f =
      restartCount clk { intoSlot f second q with stack := r ++ [swappedOut p], latch := none } := by
  simp only [swapPath, hp, hs]
  rfl

theorem swapPath_nil {clk : Nat} {second : Bool} {f : Flock} (hs : f.stack = []) : swapPath clk second f = f := by
  simp only [swapPath, hs]
  split <;> trivial

theorem yieldPoint_empty {clk : Nat} {second : Bool} {f : Flock} (hs : f.stack = []) :
    yieldPoint true clk second f = { f with yielded := true } := by
  simp [yieldPoint, hs]

theorem yieldPoint_swaps {isYield : Bool} {clk : Nat} {f : Flock} {q : Path} {r : List Path} (second : Bool) (hs : f.stack = q :: r)
    (h : isYield = true ∨ 4096 ≤ clk - f.swapBase) : yieldPoint isYield clk second f = swapPath clk second f := by
  have hc : (isYield || decide (Config.swapLimit ≤ clk - f.swapBase)) = true := by
    rw [Bool.or_eq_true, decide_eq_true_eq]
    exact h
  simp [yieldPoint, hs, hc]

theorem yieldPoint_stays {clk : Nat} {f : Flock} (second : Bool) (h : f.stack = [] ∨ clk - f.swapBase < 4096) :
    yieldPoint false clk second f = f := by
  rw [yieldPoint, Bool.false_and, if_neg Bool.false_ne_true, Bool.false_or]
  split
  · next hc =>
    refine swapPath_nil (h.resolve_right ?_)
    exact Nat.not_lt.mpr (of_decide_eq_true hc)
  · rfl

@[simp] theorem withPath_withPath (f : Flock) (second : Bool) (p q : Option Path) :
    withPath (withPath f second p) second q = withPath f second q := by cases second <;> rfl

/-- A flock whose path has yielded to the top of its stack. -/
theorem yieldPoint_past {n clk : Nat} {second : Bool} {f : Flock} {q : Path} {r : List Path} (p : Path) (hs : f.stack = q :: r) :
    yieldPoint true clk second (withPath f second (some (pastWords n p))) =
      { withPath f second (some q) with
        stack := r ++ [pastWords n p], swapBase := clk, latch := none, ahead := dropAhead second f.ahead } := by
  have hp : pathOf (withPath f second (some (pastWords n p))) second = some (pastWords n p) := by
    rw [pathOf_withPath, if_pos rfl]
  rw [yieldPoint_swaps second ((stack_withPath ..).trans hs) (.inl rfl), swapPath_some hp ((stack_withPath ..).trans hs), intoSlot,
    withPath_withPath]
  cases second <;> rfl

theorem memorySide_place {s t : State} (h : MemorySide s t) : t.core = s.core ∧ t.slot = s.slot := by
  obtain ⟨⟨_, _, _, _, e⟩, -, -⟩ := h
  rw [e]
  exact ⟨rfl, rfl⟩

theorem scheduleSide_place {s t : State} (h : ScheduleSide s t) : t.core = s.core ∧ t.slot = s.slot := by
  obtain ⟨⟨_, e⟩, -⟩ := h
  rw [e]
  exact ⟨rfl, rfl⟩

/-- The write of a stack to its flock's record in the frame (R259). -/
def stackWritten (x : Flock) (s : State) : State × Bool :=
  let l := launchOf s x.launch
  deviceWrite l.dom true (flockVa l x.wg x.index + 0x400) (stackBytes x.stack) s

theorem setFlockStack_eq (c f : Nat) (x : Flock) (s : State) : setFlockStack c f x s =
    let u := setFlock c f x s
    if x.stack = (flockAt s c f).stack then u
    else if (stackWritten x u).2 then (stackWritten x u).1 else frameLost x.launch (stackWritten x u).1 := by
  by_cases hx : x.stack = (flockAt s c f).stack
  · simp only [setFlockStack, if_pos hx]
  · rcases hw : stackWritten x (setFlock c f x s) with ⟨t, ok⟩
    have hd := hw
    rw [stackWritten] at hd
    simp only [setFlockStack, if_neg hx, hd, hw]
    cases ok <;> rfl

theorem setFlockStack_place (c f : Nat) (x : Flock) (s : State) :
    (setFlockStack c f x s).core = s.core ∧ (setFlockStack c f x s).slot = s.slot := by
  rw [setFlockStack_eq]
  have hw := memorySide_place (memorySide_deviceWrite (launchOf (setFlock c f x s) x.launch).dom true
    (flockVa (launchOf (setFlock c f x s) x.launch) x.wg x.index + 0x400) (stackBytes x.stack) (setFlock c f x s))
  have hl := scheduleSide_place (scheduleSide_frameLost x.launch (stackWritten x (setFlock c f x s)).1)
  dsimp only
  split
  · exact ⟨rfl, rfl⟩
  · split
    · exact hw
    · exact ⟨hl.1.trans hw.1, hl.2.trans hw.2⟩

theorem cur_setCurStack (x : Flock) (s : State) : cur (setCurStack x s) = x := by
  obtain ⟨hc, hs⟩ := setFlockStack_place s.core s.slot x s
  rw [cur, setCurStack, hc, hs, flockAt_setFlockStack, if_pos ⟨rfl, rfl⟩]

theorem withPath_names (f : Flock) (second : Bool) (p : Option Path) : (withPath f second p).launch = f.launch ∧
    (withPath f second p).wg = f.wg ∧ (withPath f second p).index = f.index := by cases second <;> exact ⟨rfl, rfl, rfl⟩

/-- Settles O24: the path moves past its words, and a hinted clause that ends yields. -/
theorem completedInstructionsMoveAndSwapPaths : Obligations.CompletedInstructionsMoveAndSwapPaths := by
  unfold Obligations.CompletedInstructionsMoveAndSwapPaths
  constructor
  · intro s n p hp past
    refine ⟨fun h => ?_, fun hh hn hs => ?_, fun q r hh hn hs => ?_⟩
    · rw [advance_stays n s p hp h, stepPath_eq_past h]
      rfl
    · rw [advance, advancePath_yields _ hp hh hn, yieldPoint_empty ((stack_withPath ..).trans hs)]
      exact setFlockStack_keeps _ _ _ _ (stack_withPath ..)
    · have ht : advance n s = setCurStack { withPath (cur s) s.second (some q) with
          stack := r ++ [past], swapBase := clockOf s s.core, latch := none, ahead := dropAhead s.second (cur s).ahead } s := by
        rw [advance, advancePath_yields _ hp hh hn, yieldPoint_past p hs]
        rfl
      have hcur : cur (advance n s) = _ := (congrArg cur ht).trans (cur_setCurStack ..)
      obtain ⟨hl, hw, hi⟩ := withPath_names (cur s) s.second (some q)
      refine ⟨hcur, fun c f hcf => flockAt_advance n s c f hcf, ?_⟩
      rw [hcur, ht, setCurStack, setFlockStack_eq, ← cur, hs]
      simp only [stackWritten, hl, hw, hi]
      rfl
  · intro isYield second clk f
    refine ⟨fun p q r hp hs h => ?_, fun hy h => hy ▸ yieldPoint_stays second h, fun hy hs => hy ▸ yieldPoint_empty hs⟩
    rw [yieldPoint_swaps second hs h, swapPath_some hp hs]
    refine ⟨?_, ?_, rfl, swappedOut p, rfl, swappedOut_keeps p⟩ <;> cases second <;> rfl

end Sys2Proof.Proofs
end

section
/-! SUPPORT. Issue, holding and completion of long-latency work (R48, R49, R187, R215), and the proof of the statement about it. -/

namespace Sys2Proof.Proofs

open Machine Laws

/-! ### Issue of long-latency work (R48) -/

/-- The flags of a flock whose flag f counts one issue more. -/
theorem getCf_issueLong (f : Nat) (p : Pending) (s : State) (n : Nat) : getCf (cur (issueLong f p s)) n =
    getCf (cur s) n + if flagOf (curPath s) f = some n then 1 else 0 := by
  rw [issueLong]
  cases flagOf (curPath s) f with
  | none => simp [cur_due, getCf]
  | some k =>
    rcases eq_or_ne n k with rfl | hn
    · simp [cur_due, getCf, putCf]
    · simp [cur_due, getCf, putCf, hn, hn.symm]

theorem cur_issueLong (f : Nat) (p : Pending) (s : State) : cur (issueLong f p s) =
    { cur s with
      cf := (cur (issueLong f p s)).cf
      pending := (cur s).pending ++ [{ p with uid := s.fresh, flag := flagOf (curPath s) f }] } := by
  rw [issueLong]
  cases flagOf (curPath s) f <;> simp [cur_due, putCf]

theorem issueLong_eq (f : Nat) (p : Pending) (s : State) : ∃ x, issueLong f p s =
    due (.longLatencyCompletion s.core s.slot s.fresh) (setCur x { s with fresh := s.fresh + 1 }) := ⟨_, rfl⟩

/-- Issue makes the completion due, and changes no other flock, no line and no workgroup. -/
theorem issueLong_keeps (f : Nat) (p : Pending) (s : State) :
    .longLatencyCompletion s.core s.slot s.fresh ∈ (issueLong f p s).todo ∧ (issueLong f p s).lines = s.lines ∧
      (issueLong f p s).wgs = s.wgs ∧ ∀ c k, (c ≠ s.core ∨ k ≠ s.slot) → flockAt (issueLong f p s) c k = flockAt s c k := by
  obtain ⟨x, hx⟩ := issueLong_eq f p s
  rw [hx]
  refine ⟨mem_due .., by rw [due_eq]; rfl, due_wgs .., fun c k hck => ?_⟩
  rw [flockAt_due, flockAt_setCur, if_neg (not_and_or.mpr hck)]
  rfl

/-- A flag that is not full counts at most 63 after one issue more. -/
theorem getCf_lt_of_not_full {s : State} {f n : Nat} (h : flagFull s f = false) (hn : flagOf (curPath s) f = some n) :
    getCf (cur s) n < 63 := by
  simpa [flagFull, hn] using h

/-! ### What a completion delivers (R49) -/

/-- A v register's word written by its key, with its latch. -/
def putKey (f : Flock) (k : Nat) (x : Word) : Flock := { f with v := smapSet 0 f.v k x, latch := latchAfter f.latch (k / 32) }

/-- A list of writes, the later ones over the earlier. -/
def writeAll (ws : List (Nat × Word)) (m : SMap Word) : SMap Word := ws.foldl (fun m w => smapSet 0 m w.1 w.2) m

theorem writeAll_concat (ws : List (Nat × Word)) (w : Nat × Word) (m : SMap Word) :
    writeAll (ws ++ [w]) m = smapSet 0 (writeAll ws m) w.1 w.2 := List.foldl_concat ..

/-- The last write of a list to a key stands there. -/
theorem get_writeAll (ws : List (Nat × Word)) (m : SMap Word) (k : Nat) : smapGet 0 (writeAll ws m) k =
    match ws.reverse.find? (fun w => w.1 == k) with
    | some w => w.2
    | none => smapGet 0 m k := by
  induction ws using List.reverseRecOn with
  | nil => rfl
  | append_singleton ws w ih =>
    rw [writeAll_concat, get_set, List.reverse_concat, List.find?_cons]
    rcases eq_or_ne k w.1 with rfl | hk
    · rw [if_pos rfl, beq_self_eq_true]
    · rw [if_neg hk, beq_eq_false_iff_ne.mpr hk.symm, ih]

theorem foldl_putKey (ws : List (Nat × Word)) (f : Flock) : ∃ la, ws.foldl (fun f w => putKey f w.1 w.2) f =
    { f with v := writeAll ws f.v, latch := la } := by
  induction ws generalizing f with
  | nil => exact ⟨f.latch, rfl⟩
  | cons w ws ih => exact ih (putKey f w.1 w.2)

theorem foldl_putMasked (ws : List (Nat × Word × Word)) (f : Flock) : ∃ v la, (ws = [] → v = f.v) ∧
    ws.foldl (fun f w => putKey f w.1 ((smapGet 0 f.v w.1 &&& ~~~w.2.1) ||| (w.2.2 &&& w.2.1))) f = { f with v := v, latch := la } := by
  induction ws generalizing f with
  | nil => exact ⟨f.v, f.latch, fun _ => rfl, rfl⟩
  | cons w ws ih =>
    obtain ⟨v, la, -, h⟩ := ih (putKey f w.1 ((smapGet 0 f.v w.1 &&& ~~~w.2.1) ||| (w.2.2 &&& w.2.1)))
    exact ⟨v, la, fun hn => absurd hn (List.cons_ne_nil _ _), h⟩

theorem foldl_putS (ws : List (Nat × Word)) (f : Flock) : ∃ la, ws.foldl (fun f w => putS f w.1 w.2) f =
    { f with s := writeAll ws f.s, latch := la } := by
  induction ws generalizing f with
  | nil => exact ⟨f.latch, rfl⟩
  | cons w ws ih => exact ih (putS f w.1 w.2)

/-- The b registers after a delivery. -/
def deliveredB (p : Pending) (b : SMap (BitVec 256)) : SMap (BitVec 256) :=
  match p.bw with
  | some w => smapSet 0 b w.1 w.2
  | none => b

/-- The flags after a delivery: its own counts one less. -/
def deliveredCf (p : Pending) (cf : SMap Nat) : SMap Nat :=
  match p.flag with
  | some n => smapSet 0 cf n (smapGet 0 cf n - 1)
  | none => cf

/-- The v and s registers after a delivery. -/
def deliverRegs (p : Pending) (f : Flock) : Flock :=
  let f := p.vw.foldl (fun f w => putKey f w.1 w.2) f
  let f := p.vm.foldl (fun f w => putKey f w.1 ((smapGet 0 f.v w.1 &&& ~~~w.2.1) ||| (w.2.2 &&& w.2.1))) f
  p.sw.foldl (fun f w => putS f w.1 w.2) f

theorem deliver_eq_regs (p : Pending) (f : Flock) : deliver p f =
    { deliverRegs p f with
      b := deliveredB p (deliverRegs p f).b, cf := deliveredCf p (deliverRegs p f).cf
      pending := (deliverRegs p f).pending.filter fun q => q.uid != p.uid } := by
  rcases p with ⟨uid, _ | flag, vw, vm, sw, _ | bw⟩ <;> rfl

theorem deliverRegs_eq (p : Pending) (f : Flock) : ∃ v la, (p.vm = [] → v = writeAll p.vw f.v) ∧
    deliverRegs p f = { f with v := v, latch := la, s := writeAll p.sw f.s } := by
  obtain ⟨l1, h1⟩ := foldl_putKey p.vw f
  obtain ⟨v, l2, hv, h2⟩ := foldl_putMasked p.vm { f with v := writeAll p.vw f.v, latch := l1 }
  obtain ⟨la, h3⟩ := foldl_putS p.sw { f with v := v, latch := l2 }
  refine ⟨v, la, hv, ?_⟩
  rw [deliverRegs, h1]
  exact (congrArg (p.sw.foldl fun f w => putS f w.1 w.2) h2).trans h3

theorem deliver_eq (p : Pending) (f : Flock) : ∃ v la, (p.vm = [] → v = writeAll p.vw f.v) ∧ deliver p f =
    { f with
      v := v, latch := la, s := writeAll p.sw f.s, b := deliveredB p f.b, cf := deliveredCf p f.cf
      pending := f.pending.filter fun q => q.uid != p.uid } := by
  obtain ⟨v, la, hv, h⟩ := deliverRegs_eq p f
  exact ⟨v, la, hv, by rw [deliver_eq_regs, h]⟩

theorem getCf_deliver (p : Pending) (f : Flock) (n : Nat) :
    getCf (deliver p f) n = if p.flag = some n then getCf f n - 1 else getCf f n := by
  obtain ⟨v, la, -, h⟩ := deliver_eq p f
  rw [h]
  show smapGet 0 (deliveredCf p f.cf) n = _
  rw [deliveredCf]
  cases p.flag with
  | none => rfl
  | some k =>
    rcases eq_or_ne n k with rfl | hn
    · simp [getCf]
    · simp [getCf, hn, hn.symm]

theorem getB_deliver (p : Pending) (f : Flock) (n : Nat) : getB (deliver p f) n = match p.bw with
    | some w => if w.1 = n then w.2 else getB f n
    | none => getB f n := by
  obtain ⟨v, la, -, h⟩ := deliver_eq p f
  rw [h]
  show smapGet 0 (deliveredB p f.b) n = _
  rw [deliveredB]
  cases p.bw with
  | none => rfl
  | some w => simp only [get_set, eq_comm, getB]

/-! ### Held instructions (R187, R215) -/

/-- A held instruction of a flock, other than a fence, with an identifier. -/
def heldAs (core slot uid : Nat) (h : Held) : Prop := h.core = core ∧ h.slot = slot ∧ h.what.uid = uid ∧ h.what.op.act ≠ .fence

theorem heldAs_iff (core slot uid : Nat) (h : Held) :
    (h.core == core && h.slot == slot && h.what.uid == uid && h.what.op.act != .fence) = true ↔ heldAs core slot uid h := by
  simp only [Bool.and_eq_true, beq_iff_eq, bne_iff_ne, heldAs, and_assoc, ne_eq]

/-- What keeps an operation waiting. -/
theorem keptAt_iff (s : State) (core slot : Nat) (l : OpenOp) : keptAt s core slot l = true ↔
    (∃ e ∈ openOps s core slot, blocks e l = true) ∨ (l.op.act = .mma ∧ unitBusy s core l.uid = true) := by
  rw [keptAt, Bool.or_eq_true, waits_iff, Bool.and_eq_true, beq_iff_eq]

theorem performReady_none {s : State} {core slot uid : Nat} (h : ∀ x ∈ s.held, ¬ heldAs core slot uid x) :
    performReady core slot uid s = s := by
  have : s.held.find? (fun h => h.core == core && h.slot == slot && h.what.uid == uid && h.what.op.act != .fence) = none :=
    List.find?_eq_none.mpr fun x hx hc => h x hx ((heldAs_iff ..).mp hc)
  rw [performReady, this]

theorem performReady_some {s : State} {core slot uid : Nat} {before after : List Held} {h : Held} (hs : s.held = before ++ h :: after)
    (hb : ∀ x ∈ before, ¬ heldAs core slot uid x) (hm : heldAs core slot uid h) :
    performReady core slot uid s = if performs s core slot = true ∧ keptAt s core slot h.what = false then performHeld h s else s := by
  have hnone : before.find? (fun h => h.core == core && h.slot == slot && h.what.uid == uid && h.what.op.act != .fence) = none :=
    List.find?_eq_none.mpr fun x hx hc => hb x hx ((heldAs_iff ..).mp hc)
  have hfind : s.held.find? (fun h => h.core == core && h.slot == slot && h.what.uid == uid && h.what.op.act != .fence) = some h := by
    rw [hs, List.find?_append, hnone, Option.none_or, List.find?_cons_of_pos]
    exact (heldAs_iff ..).mpr hm
  rw [performReady, hfind]
  simp only [heldReady, hm.1, hm.2.1, Bool.and_eq_true, Bool.not_eq_true']

/-- Trying a completion that performs nothing, and of an instruction that waits for no full-empty word, changes nothing. -/
theorem tryHeld_quiet {s : State} {core slot uid : Nat} (h : performReady core slot uid s = s)
    (hp : ∀ q ∈ (flockAt s core slot).pending, q.uid = uid → q.fe = none) : tryHeld core slot uid s = s := by
  have hfe : (flockAt s core slot).pending.any (fun p => p.uid == uid && p.fe.isSome) = false := by
    rw [List.any_eq_false]
    intro q hq hc
    rw [Bool.and_eq_true, beq_iff_eq] at hc
    rw [hp q hq hc.1] at hc
    exact absurd hc.2 Bool.false_ne_true
  simp only [tryHeld, h, hfe]
  simp

/-! ### Completion events (R49) -/

/-- Whether a line's update is still to be acknowledged. -/
def updating (s : State) (l : Nat × Nat) : Bool :=
  match findLine s l.1 l.2 with
  | some x => x.st == .updating
  | none => false

theorem updating_none {s : State} {ls : List (Nat × Nat)} (h : ∀ l ∈ ls, ∀ x, findLine s l.1 l.2 = some x → x.st ≠ .updating) :
    ∀ l ∈ ls, updating s l = false := by
  intro l hl
  rw [updating]
  cases hx : findLine s l.1 l.2 with
  | none => rfl
  | some x => exact beq_eq_false_iff_ne.mpr (h l hl x hx)

/-- The state in which a pending instruction has delivered what it brings. -/
def delivered (core slot : Nat) (p : Pending) (u : State) : State :=
  retireCheck core slot (tileAwaits core slot p.tile (setFlock core slot (deliver p (flockAt u core slot)) u))

/-- An instruction that awaits no line's acknowledgement completes, where nothing else keeps it waiting. -/
theorem exec_completion {s u : State} {core slot uid : Nat} {p : Pending} (hu : u = tryHeld core slot uid s)
    (hp : (flockAt u core slot).pending.find? (fun q => q.uid == uid) = some p) (hl : ∀ l ∈ p.lines, updating u l = false) :
    exec (.longLatencyCompletion core slot uid) s = .next (if stillWaits u core p then u else delivered core slot p u) := by
  have hbusy : p.lines.filter (updating u) = [] := List.filter_eq_nil_iff.mpr fun l h => by simp [hl l h]
  subst hu
  show execLongLatencyCompletion core slot uid s = _
  simp only [execLongLatencyCompletion, hp]
  exact congrArg Host.Outcome.next (if_neg (not_not.mpr hbusy))

theorem stillWaits_eq {u : State} {p : Pending} (core : Nat) (hl : ∀ l ∈ p.lines, updating u l = false) : stillWaits u core p =
    ((p.product && unitBusy u core p.uid) || p.fe.any (fun i => i.mask != 0) || u.held.any (fun h => h.what.uid == p.uid) ||
      p.lane.isSome || p.pad.isSome) := by
  have : p.lines.any (updating u) = false := List.any_eq_false.mpr fun l h => by simp [hl l h]
  show (_ || p.lines.any (updating u)) = _
  rw [this, Bool.or_false]

/-- Making an event due where a test holds changes the schedule alone. -/
theorem dueIf_keeps {s t : State} {i : Instr} (h : t = s ∨ t = due i s) : (∀ c f, flockAt t c f = flockAt s c f) ∧ t.mem = s.mem ∧
    t.lines = s.lines := by
  rcases h with rfl | rfl
  · exact ⟨fun _ _ => rfl, rfl, rfl⟩
  · exact ⟨fun _ _ => flockAt_due .., due_mem .., by rw [due_eq]⟩

theorem retireCheck_or (c f : Nat) (s : State) : retireCheck c f s = s ∨ retireCheck c f s = due (.flockRetirement c f) s := by
  unfold retireCheck
  extract_lets x
  split
  · exact .inr rfl
  · exact .inl rfl

theorem tileAwaits_keeps (core slot : Nat) (tile : Option Nat) (s : State) :
    (∀ c f, flockAt (tileAwaits core slot tile s) c f = flockAt s c f) ∧ (tileAwaits core slot tile s).mem = s.mem ∧
      (tileAwaits core slot tile s).lines = s.lines := by
  unfold tileAwaits
  split
  · next t =>
    refine dueIf_keeps (i := .tileReleaseEffective core t) ?_
    split
    · exact .inr rfl
    · exact .inl rfl
  · exact ⟨fun _ _ => rfl, rfl, rfl⟩

/-- Delivering changes its flock, the schedule and nothing in memory. -/
theorem delivered_keeps (core slot : Nat) (p : Pending) (u : State) :
    flockAt (delivered core slot p u) core slot = deliver p (flockAt u core slot) ∧ (delivered core slot p u).mem = u.mem ∧
      (delivered core slot p u).lines = u.lines := by
  obtain ⟨hf, hm, hn⟩ := dueIf_keeps (retireCheck_or core slot
    (tileAwaits core slot p.tile (setFlock core slot (deliver p (flockAt u core slot)) u)))
  obtain ⟨hf', hm', hn'⟩ := tileAwaits_keeps core slot p.tile (setFlock core slot (deliver p (flockAt u core slot)) u)
  refine ⟨?_, hm.trans hm', hn.trans hn'⟩
  rw [delivered, hf, hf', flockAt_setFlock, if_pos ⟨rfl, rfl⟩]

/-- Settles O25: issue, the performing of held instructions, and completion, each by its lemmas. -/
theorem longLatencyWorkIsIssuedAndCompleted : Obligations.LongLatencyWorkIsIssuedAndCompleted := by
  unfold Obligations.LongLatencyWorkIsIssuedAndCompleted
  refine ⟨fun s f p hfull => ?_, fun s core slot uid => ?_, fun s u core slot uid p hu hp hheld hlines hlane hpad hfe => ?_⟩
  · intro t flag
    obtain ⟨htodo, hlines, hwgs, hflocks⟩ := issueLong_keeps f p s
    refine ⟨by rw [cur_issueLong], getCf_issueLong f p s, fun n hn => ?_, htodo, ?_, issueLong_mem f p s, hlines, hwgs, hflocks⟩
    · have := getCf_lt_of_not_full hfull hn
      rw [getCf_issueLong, if_pos hn]
      omega
    · have h := cur_issueLong f p s
      rw [h]
  · intro mine plain
    refine ⟨fun hnone hplain => tryHeld_quiet (performReady_none hnone) hplain, fun before h after p hs hb hm hp => ?_⟩
    intro waiting
    have hk : keptAt s core slot h.what = true ↔ waiting := keptAt_iff s core slot h.what
    have hr := performReady_some hs hb hm
    have hstay : waiting ∨ performs s core slot = false → performReady core slot uid s = s := fun hw => by
      rw [hr, if_neg]
      rintro ⟨ha, hb⟩
      rcases hw with hw | hw
      · rw [hk.mpr hw] at hb; exact absurd hb (by decide)
      · rw [hw] at ha; exact absurd ha (by decide)
    refine ⟨fun hw hplain hnil => ?_, hstay, fun hw hperf => ?_⟩
    · have hmem : h ∈ s.held := by rw [hs]; exact List.mem_append_right _ List.mem_cons_self
      have huid : p.uid = uid := by simpa using List.find?_some hp
      have hl : ∀ l ∈ p.lines, updating s l = false := fun l hl => absurd hl (hnil ▸ List.not_mem_nil)
      have hwaits : s.held.any (fun x => x.what.uid == p.uid) = true :=
        List.any_eq_true.mpr ⟨h, hmem, beq_iff_eq.mpr (hm.2.2.1.trans huid.symm)⟩
      rw [exec_completion (tryHeld_quiet (hstay (.inl hw)) hplain).symm hp hl, stillWaits_eq core hl, hwaits]
      simp
    · rw [hr, if_pos ⟨hperf, by simpa using mt hk.mp hw⟩]
  · have hl := updating_none hlines
    have huid : p.uid = uid := by simpa using List.find?_some hp
    have hno : u.held.any (fun h => h.what.uid == p.uid) = false :=
      List.any_eq_false.mpr fun h hh hc => hheld h hh ((beq_iff_eq.mp hc).trans huid)
    have hmask : p.fe.any (fun i => i.mask != 0) = false := by
      cases hfe' : p.fe with
      | none => rfl
      | some i => simp [hfe i hfe']
    have hwaits : stillWaits u core p = (p.product && unitBusy u core p.uid) := by
      rw [stillWaits_eq core hl, hno, hmask, hlane, hpad]
      simp
    rw [exec_completion hu hp hl, hwaits]
    refine ⟨fun hprod hbusy => ?_, fun hfree => ⟨delivered core slot p u, ?_, ?_⟩⟩
    · rw [hprod, hbusy]; rfl
    · have : (p.product && unitBusy u core p.uid) = false := by
        cases hprod : p.product
        · rfl
        · exact hfree hprod
      rw [this]; rfl
    · obtain ⟨hf, hmem, hlin⟩ := delivered_keeps core slot p u
      intro f g
      have hg : g = deliver p f := hf
      obtain ⟨v, la, hv, hd⟩ := deliver_eq p f
      refine ⟨?_, fun n => hg ▸ getCf_deliver p f n, fun hvm k => ?_, fun n => ?_, fun n => hg ▸ getB_deliver p f n, ?_, ?_, ?_, ?_, ?_, hmem, hlin⟩
      · rw [hg, hd, huid]
      · rw [hg, hd, hv hvm]
        exact get_writeAll p.vw f.v k
      · rw [hg, hd]
        exact get_writeAll p.sw f.s n
      all_goals rw [hg, hd]

end Sys2Proof.Proofs
end

section
/-! SUPPORT. Rounding to whole numbers and on a rising grid of numbers (R90). -/

namespace Sys2Proof.Proofs

open Machine Laws

/-! ### Rounding to whole numbers (R90) -/

/-- A shift beyond the significand's length keeps nothing and leaves less than half of the last place. -/
theorem roundsUp_small {m a b : Nat} (mode : RMode) (neg : Bool) (ha : m < a) (hb : m < b) :
    roundsUp mode neg (0 % 2 == 1) m a = roundsUp mode neg (0 % 2 == 1) m b := by
  have ha' : ¬ a < m := by omega
  have hb' : ¬ b < m := by omega
  have hna : ¬ a ≤ m := by omega
  have hnb : ¬ b ≤ m := by omega
  cases mode <;> simp [roundsUp, ha', hb', hna, hnb]

theorem roundShift_nat (mode : RMode) (neg : Bool) (m : Nat) {k : Nat} (hk : 0 < k) : roundShift mode neg m k =
    (if roundsUp mode neg (m / 2 ^ k % 2 == 1) (m % 2 ^ k) (2 ^ (k - 1)) then m / 2 ^ k + 1 else m / 2 ^ k, m % 2 ^ k != 0) := by
  have hpos : ¬((k : Int) ≤ 0) := by omega
  rcases le_or_gt k (Nat.log2 m + 2) with h | h
  · simp only [roundShift, if_neg hpos, Int.toNat_natCast, Nat.min_eq_left h]
  · have hlt : m < 2 ^ (Nat.log2 m + 2 - 1) := Nat.lt_log2_self
    have hle : m < 2 ^ (k - 1) := hlt.trans_le (Nat.pow_le_pow_right (by decide) (by omega))
    have hn : m < 2 ^ (Nat.log2 m + 2) := hlt.trans_le (Nat.pow_le_pow_right (by decide) (by omega))
    have hk' : m < 2 ^ k := hle.trans_le (Nat.pow_le_pow_right (by decide) (by omega))
    simp only [roundShift, if_neg hpos, Int.toNat_natCast, Nat.min_eq_right h.le, Nat.div_eq_of_lt hn, Nat.mod_eq_of_lt hn,
      Nat.div_eq_of_lt hk', Nat.mod_eq_of_lt hk', roundsUp_small mode neg hlt hle]

/-- Half of the last place, doubled. -/
theorem two_mul_half {k : Nat} (hk : 0 < k) : 2 * 2 ^ (k - 1) = 2 ^ k := by
  rw [← pow_succ', Nat.sub_add_cancel hk]

/-- What each mode makes of a magnitude between two whole numbers. -/
theorem roundShift_modes (mode : RMode) (neg : Bool) (m k : Nat) (hk : 0 < k) :
    let r := roundShift mode neg m k
    let below := m / 2 ^ k
    let rest := m % 2 ^ k
    r.2 = decide (rest ≠ 0) ∧ (rest = 0 → r.1 = below) ∧ (rest ≠ 0 → r.1 = below ∨ r.1 = below + 1) ∧
    (rest ≠ 0 → match mode with
      | .rz => r.1 = below
      | .rp => r.1 = if neg then below else below + 1
      | .rm => r.1 = if neg then below + 1 else below
      | .rna => r.1 = if 2 * rest < 2 ^ k then below else below + 1
      | .rn => if 2 * rest = 2 ^ k then r.1 % 2 = 0 else r.1 = if 2 * rest < 2 ^ k then below else below + 1) := by
  intro r below rest
  have hr : r = (if roundsUp mode neg (below % 2 == 1) rest (2 ^ (k - 1)) then below + 1 else below, rest != 0) := roundShift_nat mode neg m hk
  have h2 := two_mul_half hk
  have hpos : 0 < 2 ^ (k - 1) := by positivity
  generalize 2 ^ (k - 1) = half at hr h2 hpos
  rw [← h2, hr]
  refine ⟨?_, fun h0 => ?_, fun _ => ?_, fun h0 => ?_⟩
  · by_cases h0 : rest = 0 <;> simp [h0]
  · have : roundsUp mode neg (below % 2 == 1) rest half = false := by
      rw [h0]
      cases mode <;> simp [roundsUp] <;> omega
    rw [this]; rfl
  · dsimp only
    split <;> simp
  · have hp : 0 < rest := Nat.pos_of_ne_zero h0
    cases mode with
    | rz => simp [roundsUp]
    | rp => cases neg <;> simp [roundsUp, hp]
    | rm => cases neg <;> simp [roundsUp, hp]
    | rna =>
      simp only [roundsUp, decide_eq_true_eq]
      split <;> split <;> omega
    | rn =>
      simp only [roundsUp, Bool.or_eq_true, Bool.and_eq_true, decide_eq_true_eq, beq_iff_eq]
      split_ifs <;> omega

/-! ### Rounding on a grid of numbers (R90) -/

/-- The decision of a magnitude between two neighbours, in terms of what lies above the lower one. -/
theorem reaches_between (mode : RMode) (neg odd : Bool) {base step mag : Rat} (h : mag < base + step) :
    Safety.reaches mode neg odd base step mag = (decide (base < mag) && match mode with
      | .rn => decide (base + step / 2 < mag) || (decide (base + step / 2 = mag) && odd)
      | .rna => decide (base + step / 2 ≤ mag)
      | .rz => false
      | .rp => !neg
      | .rm => neg) := by
  have hnot : decide (base + step ≤ mag) = false := decide_eq_false (not_le.mpr h)
  cases mode <;> simp only [Safety.reaches, hnot, Bool.false_or]

theorem reaches_of_le (mode : RMode) (neg odd : Bool) {base step mag : Rat} (h : base + step ≤ mag) :
    Safety.reaches mode neg odd base step mag = true := by
  rw [Safety.reaches.eq_def, decide_eq_true h, Bool.true_or]

theorem reaches_of_ge (mode : RMode) (neg odd : Bool) {base step mag : Rat} (hs : 0 < step) (h : mag ≤ base) :
    Safety.reaches mode neg odd base step mag = false := by
  rw [Safety.reaches.eq_def, decide_eq_false (by linarith), decide_eq_false (not_lt.mpr h), Bool.false_or, Bool.false_and]

/-- A remainder decides as the magnitude does. -/
theorem roundsUp_eq_reaches (mode : RMode) (neg odd : Bool) {rest half : Nat} {base w : Rat} (hw : 0 < w) (h : rest < 2 * half) :
    roundsUp mode neg odd rest half = Safety.reaches mode neg odd base (2 * half * w) (base + rest * w) := by
  have hlt : base + rest * w < base + 2 * half * w := by
    have : (rest : Rat) < 2 * half := by exact_mod_cast h
    nlinarith
  have hpos : (base < base + rest * w) ↔ 0 < rest := by
    rw [lt_add_iff_pos_right, mul_pos_iff_of_pos_right hw, Nat.cast_pos]
  have hhalf : base + 2 * half * w / 2 = base + half * w := by ring
  have hle : (base + half * w ≤ base + rest * w) ↔ half ≤ rest := by
    rw [add_le_add_iff_left, mul_le_mul_iff_left₀ hw, Nat.cast_le]
  have hl : (base + half * w < base + rest * w) ↔ half < rest := by
    rw [add_lt_add_iff_left, mul_lt_mul_iff_left₀ hw, Nat.cast_lt]
  have heq : (base + half * w = base + rest * w) ↔ rest = half := by
    rw [add_right_inj, mul_left_inj' hw.ne', Nat.cast_inj, eq_comm]
  have h0 : 0 < half := by omega
  rw [reaches_between _ _ _ hlt]
  cases mode with
  | rn =>
    simp only [hpos, hhalf, hl, heq, roundsUp]
    rcases Nat.eq_zero_or_pos rest with rfl | hr
    · simp [h0.ne]
    · simp [hr, beq_eq_decide]
  | rna =>
    simp only [hpos, hhalf, hle, roundsUp]
    rcases Nat.eq_zero_or_pos rest with rfl | hr
    · simp [h0.ne']
    · simp [hr]
  | rz => simp [roundsUp]
  | rp => simp [hpos, roundsUp, Bool.and_comm]
  | rm => simp [hpos, roundsUp, Bool.and_comm]

/-- Rounding m · 2^e to a multiple of 2^q: the multiple below it, or the next one where the mode reaches it. -/
theorem roundShift_grid (mode : RMode) (neg : Bool) (m : Nat) (e q : Int) : ∃ n : Nat,
    let v : Rat := m * 2 ^ e
    let u : Rat := 2 ^ q
    n * u ≤ v ∧ v < (n + 1) * u ∧ (roundShift mode neg m (q - e)).2 = decide (v ≠ n * u) ∧
    (roundShift mode neg m (q - e)).1 = if Safety.reaches mode neg (n % 2 == 1) (n * u) u v then n + 1 else n := by
  rcases le_or_gt q e with h | h
  · obtain ⟨k, rfl⟩ := Int.le.dest h
    have hshift : roundShift mode neg m (q - (q + k)) = (m * 2 ^ k, false) := by
      rw [roundShift, if_pos (by omega)]
      congr 3
      omega
    have hu : (0 : Rat) < 2 ^ q := by positivity
    have hv : (m : Rat) * 2 ^ (q + k) = (m * 2 ^ k : Nat) * 2 ^ q := by
      rw [zpow_add₀ (by norm_num), zpow_natCast]
      push_cast; ring
    refine ⟨m * 2 ^ k, ?_⟩
    intro v u
    have hvu : v = (m * 2 ^ k : Nat) * u := hv
    rw [hshift, hvu, reaches_of_ge _ _ _ hu le_rfl]
    exact ⟨le_rfl, by linarith, by simp, rfl⟩
  · obtain ⟨k, rfl⟩ : ∃ k : Nat, q = e + (k + 1 : Nat) := ⟨(q - e - 1).toNat, by omega⟩
    have hw : (0 : Rat) < 2 ^ e := by positivity
    have hu : (2 : Rat) ^ (e + ((k + 1 : Nat) : Int)) = 2 * ((2 ^ k : Nat) : Rat) * 2 ^ e := by
      rw [zpow_add₀ (by norm_num), zpow_natCast]
      push_cast; ring
    have hdiv := Nat.div_add_mod m (2 ^ (k + 1))
    have hmod := Nat.mod_lt m (show 0 < 2 ^ (k + 1) by positivity)
    have hshift : roundShift mode neg m (e + (k + 1 : Nat) - e) =
        (if roundsUp mode neg (m / 2 ^ (k + 1) % 2 == 1) (m % 2 ^ (k + 1)) (2 ^ k) then m / 2 ^ (k + 1) + 1 else m / 2 ^ (k + 1),
          m % 2 ^ (k + 1) != 0) := by
      rw [add_sub_cancel_left]
      exact roundShift_nat mode neg m (Nat.succ_pos k)
    refine ⟨m / 2 ^ (k + 1), ?_⟩
    generalize m / 2 ^ (k + 1) = n at *
    generalize m % 2 ^ (k + 1) = rest at *
    intro v u
    have hvr : v = n * u + rest * 2 ^ e := by
      show (m : Rat) * 2 ^ e = n * 2 ^ (e + ((k + 1 : Nat) : Int)) + rest * 2 ^ e
      rw [hu, ← hdiv]
      push_cast; ring
    have hrest : (rest : Rat) * 2 ^ e < u := by
      show (rest : Rat) * 2 ^ e < 2 ^ (e + ((k + 1 : Nat) : Int))
      rw [hu, mul_lt_mul_iff_left₀ hw]
      have : rest < 2 * 2 ^ k := by rw [← pow_succ']; exact hmod
      exact_mod_cast this
    have hrest0 : (0 : Rat) ≤ rest * 2 ^ e := by positivity
    refine ⟨by linarith, by linarith, ?_, ?_⟩
    · rw [hshift, hvr]
      rcases eq_or_ne rest 0 with rfl | h0
      · simp
      · simp [h0, hw.ne']
    · rw [hshift, roundsUp_eq_reaches mode neg _ (base := n * u) hw (by rw [← pow_succ']; exact hmod), ← hu, ← hvr]

/-! ### The number of a grid that a mode picks (R90) -/

/-- What a mode asks of the number w that it picks for v, beside a number y of the grid. -/
def PickedOver (mode : RMode) (even : Prop) (v w y : Rat) : Prop :=
  match mode with
  | .rn => |w - v| ≤ |y - v| ∧ (|w - v| = |y - v| → y = w ∨ even)
  | .rna => |w - v| ≤ |y - v| ∧ (|w - v| = |y - v| → |y| ≤ |w|)
  | .rz => |w| ≤ |v| ∧ 0 ≤ w * v ∧ (|y| ≤ |v| → 0 ≤ y * v → |y| ≤ |w|)
  | .rp => v ≤ w ∧ (v ≤ y → w ≤ y)
  | .rm => w ≤ v ∧ (y ≤ v → y ≤ w)

theorem picks_iff (mode : RMode) (grid : Rat → Prop) (even : Prop) (v w : Rat) : Safety.Picks mode grid even v w ↔
    grid w ∧ ∀ y, grid y → PickedOver mode even v w y := by
  cases mode <;> exact Iff.rfl

section
variable {lo hi v y : Rat} (h0 : 0 ≤ lo) (hlo : lo ≤ v) (hhi : v < hi) (hy : y ≤ lo ∨ hi ≤ y)

include hlo hy in
/-- The distance of a number that does not lie between the neighbours. -/
theorem dist_outside (hhi : v < hi) : (y ≤ lo ∧ |y - v| = v - y) ∨ (hi ≤ y ∧ |y - v| = y - v) := by
  rcases hy with h | h
  · exact .inl ⟨h, by rw [abs_sub_comm, abs_of_nonneg (by linarith)]⟩
  · exact .inr ⟨h, abs_of_nonneg (by linarith)⟩

include h0 hlo hhi hy

/-- The lower neighbour is picked where a mode does not reach the upper one. -/
theorem pickedOver_lower {mode : RMode} {odd : Bool} (hr : Safety.reaches mode false odd lo (hi - lo) v = false) :
    PickedOver mode (odd = false) v lo y := by
  have hdist : |lo - v| = v - lo := by rw [abs_sub_comm, abs_of_nonneg (by linarith)]
  rw [reaches_between _ _ _ (by linarith), Bool.and_eq_false_iff, decide_eq_false_iff_not, not_lt] at hr
  cases mode with
  | rn =>
    simp only [Bool.or_eq_false_iff, Bool.and_eq_false_iff, decide_eq_false_iff_not, not_lt] at hr
    rw [PickedOver, hdist]
    rcases dist_outside hlo hy hhi with ⟨h, hd⟩ | ⟨h, hd⟩ <;> rw [hd]
    · exact ⟨by linarith, fun he => .inl (by linarith)⟩
    · rcases hr with hr | ⟨hr, ho⟩
      · exact ⟨by linarith, fun he => .inl (by linarith)⟩
      · exact ⟨by linarith, fun he => .inr (ho.resolve_left (by push Not; linarith))⟩
  | rna =>
    simp only [decide_eq_false_iff_not, not_le] at hr
    rw [PickedOver, hdist]
    rcases dist_outside hlo hy hhi with ⟨h, hd⟩ | ⟨h, hd⟩ <;> rw [hd]
    · exact ⟨by linarith, fun he => by rw [show y = lo by linarith]⟩
    · rcases hr with hr | hr
      · exact ⟨by linarith, fun he => by linarith⟩
      · exact ⟨by linarith, fun he => by linarith⟩
  | rz =>
    have hv : 0 ≤ v := h0.trans hlo
    refine ⟨abs_le_abs_of_nonneg h0 hlo, mul_nonneg h0 hv, fun hyv hsign => ?_⟩
    rw [abs_of_nonneg hv] at hyv
    rw [abs_of_nonneg h0]
    rcases hy with h | h
    · rcases le_or_gt 0 y with h' | h'
      · rwa [abs_of_nonneg h']
      · have : v ≤ 0 := not_lt.mp fun hp => absurd hsign (not_le.mpr (mul_neg_of_neg_of_pos h' hp))
        linarith
    · linarith [le_abs_self y]
  | rp =>
    have : v ≤ lo := by simpa using hr
    exact ⟨this, fun h => hlo.trans h⟩
  | rm => exact ⟨hlo, fun h => hy.resolve_right (by linarith)⟩

/-- The upper neighbour is picked where a mode reaches it. -/
theorem pickedOver_upper {mode : RMode} {odd : Bool} (hr : Safety.reaches mode false odd lo (hi - lo) v = true) :
    PickedOver mode (odd = true) v hi y := by
  have hdist : |hi - v| = hi - v := abs_of_nonneg (by linarith)
  rw [reaches_between _ _ _ (by linarith), Bool.and_eq_true, decide_eq_true_eq] at hr
  obtain ⟨hlt, hr⟩ := hr
  cases mode with
  | rn =>
    simp only [Bool.or_eq_true, Bool.and_eq_true, decide_eq_true_eq] at hr
    rw [PickedOver, hdist]
    rcases dist_outside hlo hy hhi with ⟨h, hd⟩ | ⟨h, hd⟩ <;> rw [hd]
    · rcases hr with hr | ⟨hr, ho⟩
      · exact ⟨by linarith, fun he => by linarith⟩
      · exact ⟨by linarith, fun _ => .inr ho⟩
    · exact ⟨by linarith, fun he => .inl (by linarith)⟩
  | rna =>
    simp only [decide_eq_true_eq] at hr
    rw [PickedOver, hdist]
    rcases dist_outside hlo hy hhi with ⟨h, hd⟩ | ⟨h, hd⟩ <;> rw [hd]
    · refine ⟨by linarith, fun he => ?_⟩
      rw [abs_of_nonneg (by linarith : 0 ≤ hi)]
      exact abs_le.mpr ⟨by linarith, by linarith⟩
    · exact ⟨by linarith, fun he => by rw [show y = hi by linarith]⟩
  | rz => exact absurd hr Bool.false_ne_true
  | rp => exact ⟨hhi.le, fun h => hy.resolve_left (by linarith)⟩
  | rm => exact absurd hr Bool.false_ne_true
end

/-- The mode by which a magnitude rounds where its number is below zero or not. -/
def towards (neg : Bool) : RMode → RMode
  | .rp => if neg then .rm else .rp
  | .rm => if neg then .rp else .rm
  | mode => mode

theorem reaches_towards (mode : RMode) (neg odd : Bool) (base step mag : Rat) :
    Safety.reaches mode neg odd base step mag = Safety.reaches (towards neg mode) false odd base step mag := by
  cases mode <;> cases neg <;> rfl

theorem pickedOver_neg {mode : RMode} {even : Prop} {v w y : Rat} (h : PickedOver (towards true mode) even v w (-y)) :
    PickedOver mode even (-v) (-w) y := by
  have h1 : |-w - -v| = |w - v| := by rw [← abs_neg]; congr 1; ring
  have h2 : |y - -v| = |-y - v| := by rw [← abs_neg]; congr 1; ring
  cases mode with
  | rn =>
    simp only [PickedOver, towards, h1, h2] at h ⊢
    exact h.imp_right fun h he => (h he).imp_left fun h => by linarith
  | rna =>
    simp only [PickedOver, towards, h1, h2, abs_neg] at h ⊢
    exact h
  | rz =>
    simp only [PickedOver, towards, abs_neg, neg_mul_neg] at h ⊢
    rw [mul_neg, ← neg_mul]
    exact h
  | rp =>
    simp only [PickedOver, towards, if_true] at h ⊢
    exact ⟨by linarith, fun hy => by linarith [h.2 (by linarith)]⟩
  | rm =>
    simp only [PickedOver, towards, if_true] at h ⊢
    exact ⟨by linarith, fun hy => by linarith [h.2 (by linarith)]⟩

/-! ### Rounding on a rising grid of magnitudes (R90) -/

/-- The place to which a magnitude rounds that lies at or above place c of a rising grid, and below the next one. -/
def roundedTo (g : Nat → Rat) (mode : RMode) (neg : Bool) (c : Nat) (v : Rat) : Nat :=
  if Safety.reaches mode neg (c % 2 == 1) (g c) (g (c + 1) - g c) v then c + 1 else c

theorem roundedTo_towards (g : Nat → Rat) (mode : RMode) (neg : Bool) (c : Nat) (v : Rat) :
    roundedTo g mode neg c v = roundedTo g (towards neg mode) false c v := by
  rw [roundedTo, reaches_towards, roundedTo]

/-- The numbers of a grid's first places, with either sign. -/
def SignedGrid (g : Nat → Rat) (last : Nat) (y : Rat) : Prop := ∃ k ≤ last, y = g k ∨ y = -g k

theorem signedGrid_neg {g : Nat → Rat} {last : Nat} {y : Rat} (h : SignedGrid g last y) : SignedGrid g last (-y) := by
  obtain ⟨k, hk, rfl | rfl⟩ := h
  · exact ⟨k, hk, .inr rfl⟩
  · exact ⟨k, hk, .inl (neg_neg _)⟩

/-- A number with a sign. -/
def signed (neg : Bool) (v : Rat) : Rat := if neg then -v else v

/-- A number of the grid does not lie between the two neighbours. -/
theorem outside_of_signedGrid {g : Nat → Rat} (hg : StrictMono g) (h0 : 0 ≤ g 0) (c : Nat) {last : Nat} {y : Rat} (hy : SignedGrid g last y) : y ≤ g c ∨ g (c + 1) ≤ y := by
  have hnn (k : Nat) : 0 ≤ g k := h0.trans (hg.monotone (Nat.zero_le k))
  obtain ⟨k, -, rfl | rfl⟩ := hy
  · rcases Nat.lt_or_ge c k with h | h
    · exact .inr (hg.monotone h)
    · exact .inl (hg.monotone h)
  · exact .inl (by linarith [hnn k, hnn c])

section
variable {g : Nat → Rat} (hg : StrictMono g) {c : Nat} {v : Rat} (hlo : g c ≤ v) (hhi : v < g (c + 1))
include hg hlo hhi

/-- A magnitude reaches past a place where it rounds beyond it. -/
theorem reaches_iff_lt (mode : RMode) (neg : Bool) (b : Nat) :
    Safety.reaches mode neg (b % 2 == 1) (g b) (g (b + 1) - g b) v = true ↔ b < roundedTo g mode neg c v := by
  rcases lt_trichotomy b c with h | rfl | h
  · have hb : g (b + 1) ≤ g c := hg.monotone h
    rw [reaches_of_le _ _ _ (by linarith), roundedTo]
    split <;> simp <;> omega
  · rw [roundedTo]
    split <;> simp_all
  · have hb : g (c + 1) ≤ g b := hg.monotone h
    rw [reaches_of_ge _ _ _ (sub_pos.mpr (hg (Nat.lt_succ_self b))) (by linarith), roundedTo]
    split <;> simp <;> omega

theorem pickedOver_roundedTo (h0 : 0 ≤ g 0) (mode : RMode) {last : Nat} {y : Rat} (hy : SignedGrid g last y) :
    PickedOver mode (roundedTo g mode false c v % 2 = 0) v (g (roundedTo g mode false c v)) y := by
  have hc : 0 ≤ g c := h0.trans (hg.monotone (Nat.zero_le c))
  have ho := outside_of_signedGrid hg h0 c hy
  rw [roundedTo]
  split
  · next hr =>
    have he : ((c % 2 == 1) = true) = ((c + 1) % 2 = 0) := propext (by rw [beq_iff_eq]; omega)
    exact he ▸ pickedOver_upper hc hlo hhi ho hr
  · next hr =>
    have he : ((c % 2 == 1) = false) = (c % 2 = 0) := propext (by rw [beq_eq_false_iff_ne]; omega)
    exact he ▸ pickedOver_lower hc hlo hhi ho (Bool.not_eq_true _ ▸ hr)

/-- The rounding of a number is the one of the grid that its mode picks. -/
theorem picks_roundedTo (h0 : 0 ≤ g 0) (mode : RMode) (neg : Bool) {last : Nat} (hlast : roundedTo g mode neg c v ≤ last) :
    Safety.Picks mode (SignedGrid g last) (roundedTo g mode neg c v % 2 = 0) (signed neg v) (signed neg (g (roundedTo g mode neg c v))) := by
  rw [picks_iff]
  cases neg with
  | false => exact ⟨⟨_, hlast, .inl rfl⟩, fun y hy => pickedOver_roundedTo hg hlo hhi h0 mode hy⟩
  | true =>
    refine ⟨⟨_, hlast, .inr rfl⟩, fun y hy => pickedOver_neg ?_⟩
    rw [roundedTo_towards]
    exact pickedOver_roundedTo hg hlo hhi h0 _ (signedGrid_neg hy)
end

end Sys2Proof.Proofs
end

section
/-! SUPPORT. The codes of a format, their magnitudes and their values (R80). -/

namespace Sys2Proof.Proofs

open Machine Laws

/-! ### Magnitudes of a format (R80) -/

/-- The exponent of a format's subnormals. -/
def leastExp (f : Fmt) : Int := 1 - (f.bias : Int) - f.mbits

/-- The significand and the exponent of a magnitude's code, as if exponents had no bound. -/
def magSig (f : Fmt) (c : Nat) : Nat := if c / 2 ^ f.mbits = 0 then c % 2 ^ f.mbits else 2 ^ f.mbits + c % 2 ^ f.mbits
def magExp (f : Fmt) (c : Nat) : Int :=
  if c / 2 ^ f.mbits = 0 then leastExp f else leastExp f + (c / 2 ^ f.mbits : Nat) - 1

/-- The magnitude of a code. -/
def magValue (f : Fmt) (c : Nat) : Rat := magSig f c * 2 ^ magExp f c

/-- The codes of one binade, of the subnormals, and of the binade's upper end. -/
theorem magValue_binade (f : Fmt) {b n : Nat} (hb : b = 0 ∨ 2 ^ f.mbits ≤ n) (hn : n ≤ 2 ^ (f.mbits + 1)) :
    magValue f (b * 2 ^ f.mbits + n) = n * 2 ^ (leastExp f + b) := by
  have hpos : 0 < 2 ^ f.mbits := by positivity
  have h2 : 2 ^ (f.mbits + 1) = 2 ^ f.mbits + 2 ^ f.mbits := by rw [pow_succ, mul_two]
  have hdiv (r : Nat) : (b * 2 ^ f.mbits + r) / 2 ^ f.mbits = b + r / 2 ^ f.mbits := by
    rw [add_comm, Nat.add_mul_div_right _ _ hpos, add_comm]
  have hmod (r : Nat) : (b * 2 ^ f.mbits + r) % 2 ^ f.mbits = r % 2 ^ f.mbits := by
    rw [add_comm, Nat.add_mul_mod_self_right]
  rw [magValue, magSig, magExp, hdiv, hmod]
  rcases Nat.lt_or_ge n (2 ^ f.mbits) with h | h
  · obtain rfl : b = 0 := hb.resolve_right (not_le.mpr h)
    simp [Nat.div_eq_of_lt h, Nat.mod_eq_of_lt h]
  · obtain ⟨r, rfl⟩ := Nat.exists_eq_add_of_le h
    rw [h2] at hn
    have hr : r ≤ 2 ^ f.mbits := by omega
    rw [Nat.add_div_left _ hpos, Nat.add_mod_left]
    rcases Nat.lt_or_ge r (2 ^ f.mbits) with hr' | hr'
    · rw [Nat.div_eq_of_lt hr', Nat.mod_eq_of_lt hr', if_neg (by omega), if_neg (by omega)]
      push_cast
      congr 2
      omega
    · obtain rfl : r = 2 ^ f.mbits := le_antisymm hr hr'
      rw [Nat.div_self hpos, Nat.mod_self, if_neg (by omega), if_neg (by omega)]
      have he : leastExp f + ((b + (1 + 1) : Nat) : Int) - 1 = leastExp f + b + 1 := by push_cast; ring
      rw [he, zpow_add_one₀ (by norm_num)]
      push_cast
      ring

/-- Every code stands in a binade, or among the subnormals. -/
theorem exists_binade (f : Fmt) (c : Nat) : ∃ b n, c = b * 2 ^ f.mbits + n ∧ (b = 0 ∨ 2 ^ f.mbits ≤ n) ∧ n < 2 ^ (f.mbits + 1) := by
  have hpos : 0 < 2 ^ f.mbits := by positivity
  have h2 : 2 ^ (f.mbits + 1) = 2 ^ f.mbits + 2 ^ f.mbits := by rw [pow_succ, mul_two]
  have hdm := Nat.div_add_mod' c (2 ^ f.mbits)
  have hm := Nat.mod_lt c hpos
  cases hd : c / 2 ^ f.mbits with
  | zero =>
    rw [hd, zero_mul, zero_add] at hdm
    exact ⟨0, c % 2 ^ f.mbits, by omega, .inl rfl, by omega⟩
  | succ b =>
    rw [hd, Nat.succ_mul] at hdm
    exact ⟨b, 2 ^ f.mbits + c % 2 ^ f.mbits, by omega, .inr (by omega), by omega⟩

theorem magValue_succ (f : Fmt) {b n : Nat} (hb : b = 0 ∨ 2 ^ f.mbits ≤ n) (hn : n < 2 ^ (f.mbits + 1)) :
    magValue f (b * 2 ^ f.mbits + n + 1) = magValue f (b * 2 ^ f.mbits + n) + 2 ^ (leastExp f + b) := by
  rw [magValue_binade f hb hn.le, add_assoc, magValue_binade f (hb.imp_right fun h => by omega) hn]
  push_cast
  ring

theorem magValue_strictMono (f : Fmt) : StrictMono (magValue f) := by
  refine strictMono_nat_of_lt_succ fun c => ?_
  obtain ⟨b, n, rfl, hb, hn⟩ := exists_binade f c
  rw [magValue_succ f hb hn]
  have : (0 : Rat) < 2 ^ (leastExp f + b) := by positivity
  linarith

@[simp] theorem magValue_zero (f : Fmt) : magValue f 0 = 0 := by simp [magValue, magSig]

/-- Where a code is not the first of its binade, its two neighbours lie equally far. -/
theorem magValue_neighbours (f : Fmt) {c : Nat} (h : c % 2 ^ f.mbits ≠ 0) :
    magValue f (c + 1) - magValue f c = magValue f c - magValue f (c - 1) := by
  obtain ⟨b, n, rfl, hb, hn⟩ := exists_binade f c
  rw [add_comm, Nat.add_mul_mod_self_right] at h
  have hn0 : n ≠ 0 := fun h0 => h (by rw [h0, Nat.zero_mod])
  have hn1 : n ≠ 2 ^ f.mbits := fun h0 => h (by rw [h0, Nat.mod_self])
  obtain ⟨k, rfl⟩ := Nat.exists_eq_succ_of_ne_zero hn0
  have hup := magValue_succ f hb hn
  have hdown := magValue_succ f (n := k) (hb.imp_right fun h => by omega) (by omega)
  rw [Nat.succ_eq_add_one, ← add_assoc, Nat.add_sub_cancel] at *
  linarith

/-! ### Codes and their values (R80) -/

/-- A format with an exponent and a fraction. -/
def Proper (f : Fmt) : Prop := 1 ≤ f.ebits ∧ 1 ≤ f.mbits

theorem pow_mbits_mul (f : Fmt) : 2 ^ f.mbits * 2 ^ f.ebits = signWeight f := by rw [signWeight, add_comm, pow_add]

/-- The value of a code, by its sign and its magnitude. -/
theorem fdecode_eq {f : Fmt} (hf : Proper f) (code : Nat) : fdecode f code =
    let neg := bitAt code (f.ebits + f.mbits)
    let mag := code % signWeight f
    if mag ≤ maxCode f then .fin neg (magSig f mag) (magExp f mag)
    else if f.kind = .ieee ∧ mag = infCode f then .inf neg else .nan := by
  obtain ⟨he, hm⟩ := hf
  have hbits : bits code (f.ebits + f.mbits - 1) f.mbits = code % signWeight f / 2 ^ f.mbits := by
    rw [bits, ← pow_mbits_mul, Nat.mod_mul_right_div_self]
    congr 2
    omega
  have hmf : code % 2 ^ f.mbits = code % signWeight f % 2 ^ f.mbits := by
    rw [← pow_mbits_mul, Nat.mod_mul_right_mod]
  have hmag : code % signWeight f < signWeight f := Nat.mod_lt _ (by rw [signWeight]; positivity)
  simp only [fdecode, hbits, hmf, magSig, magExp, leastExp]
  generalize code % signWeight f = mag at *
  have hM : 0 < 2 ^ f.mbits := by positivity
  have hdm := Nat.div_add_mod mag (2 ^ f.mbits)
  have hlt := Nat.mod_lt mag hM
  have hE : mag / 2 ^ f.mbits < 2 ^ f.ebits := by
    rw [Nat.div_lt_iff_lt_mul hM, mul_comm, pow_mbits_mul]; exact hmag
  rw [← pow_mbits_mul] at hmag
  have hEM : 2 ^ (f.ebits + f.mbits) = 2 ^ f.mbits * 2 ^ f.ebits := by rw [add_comm, pow_add]
  obtain ⟨d, hd⟩ := Nat.exists_eq_add_of_le (Nat.le_self_pow (by omega : f.ebits ≠ 0) 2)
  have h1M : 2 ≤ 2 ^ f.mbits := Nat.le_self_pow (by omega) 2
  have hone : 2 + d - 1 = d + 1 := by omega
  simp only [maxCode, infCode, hEM, hd, hone] at *
  generalize mag / 2 ^ f.mbits = ef at *
  generalize mag % 2 ^ f.mbits = mf at *
  generalize 2 ^ f.mbits = w at *
  have hw1 : w * (2 + d) = w * d + 2 * w := by ring
  have hw2 : (d + 1) * w = w * d + w := by ring
  rcases Nat.lt_or_ge ef (d + 1) with hef | hef
  · have hle : w * ef ≤ w * d := Nat.mul_le_mul_left _ (by omega)
    have hne : ef ≠ d + 1 := by omega
    cases hk : f.kind <;> dsimp only <;> simp only [hne, false_and, and_false, if_false]
    case ieee => rw [if_pos (show mag ≤ (d + 1) * w - 1 by omega)]; by_cases h0 : ef = 0 <;> simp only [h0, if_true, if_false]
    case nanOnly => rw [if_pos (show mag ≤ w * (2 + d) - 2 by omega)]; by_cases h0 : ef = 0 <;> simp only [h0, if_true, if_false]
    case finite => rw [if_pos (show mag ≤ w * (2 + d) - 1 by omega)]; by_cases h0 : ef = 0 <;> simp only [h0, if_true, if_false]
  · obtain rfl : ef = d + 1 := by omega
    have hw3 : w * (d + 1) = w * d + w := by ring
    cases hk : f.kind <;> dsimp only <;> simp only [true_and, false_and, and_true, if_true, if_false, reduceCtorEq]
    case ieee =>
      have : (mf = 0) = (mag = (d + 1) * w) := propext (by omega)
      simp only [if_neg (show ¬ mag ≤ (d + 1) * w - 1 by omega), this]
    case nanOnly =>
      by_cases hmf : mf = w - 1
      · rw [if_pos hmf, if_neg (by omega)]
      · rw [if_neg hmf, if_pos (show mag ≤ w * (2 + d) - 2 by omega)]
    case finite =>
      rw [if_pos (show mag ≤ w * (2 + d) - 1 by omega)]

theorem signWeight_pos (f : Fmt) : 0 < signWeight f := by rw [signWeight]; positivity

theorem two_dvd_signWeight {f : Fmt} (hf : Proper f) : 2 ∣ signWeight f := by
  rw [signWeight]
  exact dvd_pow_self 2 (by have := hf.2; omega)

theorem withSign_mod (f : Fmt) (neg : Bool) {mag : Nat} (h : mag < signWeight f) : withSign f neg mag % signWeight f = mag := by
  cases neg <;> simp [withSign, Nat.mod_eq_of_lt h]

theorem bitAt_withSign (f : Fmt) (neg : Bool) {mag : Nat} (h : mag < signWeight f) : bitAt (withSign f neg mag) (f.ebits + f.mbits) = neg := by
  rw [bitAt, ← signWeight, withSign]
  cases neg
  · rw [if_neg Bool.false_ne_true, Nat.div_eq_of_lt h]; rfl
  · rw [if_pos rfl, Nat.add_div_right _ (signWeight_pos f), Nat.div_eq_of_lt h]; rfl

theorem withSign_parts (f : Fmt) {code : Nat} (h : code < 2 ^ (1 + f.ebits + f.mbits)) :
    withSign f (bitAt code (f.ebits + f.mbits)) (code % signWeight f) = code := by
  have h2 : 2 ^ (1 + f.ebits + f.mbits) = 2 * signWeight f := by rw [signWeight, add_assoc, pow_add, pow_one]
  have hq : code / signWeight f < 2 := Nat.div_lt_of_lt_mul (by rw [mul_comm, ← h2]; exact h)
  have hdm := Nat.div_add_mod code (signWeight f)
  rw [bitAt, ← signWeight, withSign]
  interval_cases hd : code / signWeight f <;> simp <;> omega

theorem withSign_even {f : Fmt} (hf : Proper f) (neg : Bool) (mag : Nat) : withSign f neg mag % 2 = mag % 2 := by
  have := two_dvd_signWeight hf
  cases neg <;> simp [withSign]
  omega

/-- The largest code of a format has a code below it in its binade, and none of a greater magnitude. -/
def Bounded (f : Fmt) : Prop := Proper f ∧ maxCode f < signWeight f ∧ maxCode f % 2 ^ f.mbits ≠ 0

theorem fdecode_withSign {f : Fmt} (hf : Bounded f) (neg : Bool) {mag : Nat} (h : mag ≤ maxCode f) :
    fdecode f (withSign f neg mag) = .fin neg (magSig f mag) (magExp f mag) := by
  obtain ⟨hp, hlt, -⟩ := hf
  rw [fdecode_eq hp]
  dsimp only
  rw [withSign_mod f neg (h.trans_lt hlt), bitAt_withSign f neg (h.trans_lt hlt), if_pos h]

theorem value_fin (neg : Bool) (m : Nat) (e : Int) : Safety.value (.fin neg m e) = signed neg (m * 2 ^ e) := by
  cases neg <;> simp [Safety.value, signed]

theorem value_withSign {f : Fmt} (hf : Bounded f) (neg : Bool) {mag : Nat} (h : mag ≤ maxCode f) :
    Safety.value (fdecode f (withSign f neg mag)) = signed neg (magValue f mag) := by
  rw [fdecode_withSign hf neg h, value_fin, magValue]

/-- A code with a finite value has a magnitude within bounds. -/
theorem fdecode_fin {f : Fmt} (hf : Proper f) {code : Nat} {neg : Bool} {m : Nat} {e : Int} (h : fdecode f code = .fin neg m e) :
    code % signWeight f ≤ maxCode f ∧ neg = bitAt code (f.ebits + f.mbits) ∧ m = magSig f (code % signWeight f) ∧
      e = magExp f (code % signWeight f) := by
  rw [fdecode_eq hf] at h
  dsimp only at h
  split at h
  · next hle =>
    injection h with h1 h2 h3
    exact ⟨hle, h1.symm, h2.symm, h3.symm⟩
  · split at h <;> cases h

/-- The numbers of a format are the magnitudes of its codes, with either sign. -/
theorem representable_eq {f : Fmt} (hf : Bounded f) : Safety.Representable f = SignedGrid (magValue f) (maxCode f) := by
  funext y
  refine propext ⟨?_, ?_⟩
  · rintro ⟨c, ⟨n, m, e, hc⟩, rfl⟩
    obtain ⟨hle, -, rfl, rfl⟩ := fdecode_fin hf.1 hc
    refine ⟨_, hle, ?_⟩
    rw [hc, value_fin, ← magValue]
    cases n
    · exact .inl rfl
    · exact .inr rfl
  · rintro ⟨k, hk, rfl | rfl⟩
    · exact ⟨withSign f false k, ⟨_, _, _, fdecode_withSign hf false hk⟩, value_withSign hf false hk⟩
    · exact ⟨withSign f true k, ⟨_, _, _, fdecode_withSign hf true hk⟩, value_withSign hf true hk⟩

theorem isSubnormal_withSign {f : Fmt} (neg : Bool) {mag : Nat} (h : mag < signWeight f) :
    isSubnormal f (withSign f neg mag) = (decide (0 < mag) && decide (mag < 2 ^ f.mbits)) := by
  rw [isSubnormal, withSign_mod f neg h]

theorem bounded_of_mem {f : Fmt} (hf : f ∈ [fmtF32, fmtBf16, fmtF16, fmtE4m3, fmtE5m2, fmtE2m1]) : Bounded f := by
  simp only [List.mem_cons, List.not_mem_nil, or_false] at hf
  rcases hf with rfl | rfl | rfl | rfl | rfl | rfl <;> exact ⟨⟨by decide, by decide⟩, by decide, by decide⟩

end Sys2Proof.Proofs
end

section
/-! SUPPORT. Rounding to a format, exact sums and products, and canonical NaNs (R79, R81, R90 to R93, R101, R114), and the proof of the statement about them. -/

namespace Sys2Proof.Proofs

open Machine Laws

/-! ### Rounding to a format (R90 to R93) -/

/-- The exponent of a significand: m · 2^e lies in its binade. -/
theorem mem_binade {m : Nat} (hm : m ≠ 0) (e : Int) :
    (2 : Rat) ^ ((Nat.log2 m : Int) + e) ≤ m * 2 ^ e ∧ (m : Rat) * 2 ^ e < 2 ^ ((Nat.log2 m : Int) + e + 1) := by
  have he : (0 : Rat) < 2 ^ e := by positivity
  have h1 : ((2 ^ Nat.log2 m : Nat) : Rat) ≤ m := by exact_mod_cast Nat.log2_self_le hm
  have h2 : (m : Rat) < ((2 ^ (Nat.log2 m + 1) : Nat) : Rat) := by exact_mod_cast Nat.lt_log2_self
  push_cast at h1 h2
  constructor
  · rw [zpow_add₀ (by norm_num), zpow_natCast]
    exact mul_le_mul_of_nonneg_right h1 he.le
  · rw [show (Nat.log2 m : Int) + e + 1 = ((Nat.log2 m + 1 : Nat) : Int) + e by push_cast; ring, zpow_add₀ (by norm_num), zpow_natCast]
    exact mul_lt_mul_of_pos_right h2 he

/-- The last place at which a value of an exponent is rounded, and the place of its binade among the codes. -/
def lastPlace (f : Fmt) (x : Int) : Int := max x (1 - (f.bias : Int)) - f.mbits
def binadeOf (f : Fmt) (x : Int) : Nat := (lastPlace f x - leastExp f).toNat

theorem binadeOf_cast (f : Fmt) (x : Int) : (binadeOf f x : Int) = lastPlace f x - leastExp f := by
  rw [binadeOf, Int.toNat_of_nonneg]
  rw [lastPlace, leastExp]
  omega

theorem leastExp_add_binadeOf (f : Fmt) (x : Int) : leastExp f + (binadeOf f x : Int) = lastPlace f x := by
  rw [binadeOf_cast]; ring

/-- The whole significand of a value at its last place fits its binade. -/
theorem significand_fits (f : Fmt) {m n : Nat} {e : Int} (hm : m ≠ 0)
    (hlo : (n : Rat) * 2 ^ lastPlace f (Nat.log2 m + e) ≤ m * 2 ^ e) (hhi : (m : Rat) * 2 ^ e < (n + 1) * 2 ^ lastPlace f (Nat.log2 m + e)) :
    n < 2 ^ (f.mbits + 1) ∧ (binadeOf f (Nat.log2 m + e) = 0 ∨ 2 ^ f.mbits ≤ n) := by
  obtain ⟨h1, h2⟩ := mem_binade hm e
  generalize (Nat.log2 m : Int) + e = x at *
  have hu : (0 : Rat) < 2 ^ lastPlace f x := by positivity
  constructor
  · have hx : (2 : Rat) ^ (x + 1) ≤ 2 ^ (((f.mbits + 1 : Nat) : Int) + lastPlace f x) :=
      zpow_le_zpow_right₀ (by norm_num) (by rw [lastPlace]; push_cast; omega)
    rw [zpow_add₀ (by norm_num : (2 : Rat) ≠ 0) ((f.mbits + 1 : Nat) : Int), zpow_natCast] at hx
    have : (n : Rat) < 2 ^ (f.mbits + 1) := lt_of_mul_lt_mul_right (by linarith) hu.le
    exact_mod_cast this
  · rcases le_or_gt x (1 - (f.bias : Int)) with h | h
    · left
      rw [binadeOf, lastPlace, leastExp]
      omega
    · right
      have hx : (2 : Rat) ^ x = 2 ^ f.mbits * 2 ^ lastPlace f x := by
        rw [← zpow_natCast, ← zpow_add₀ (by norm_num : (2 : Rat) ≠ 0), lastPlace]
        congr 1
        omega
      rw [hx] at h1
      have : (2 : Rat) ^ f.mbits < n + 1 := lt_of_mul_lt_mul_right (by linarith) hu.le
      have : 2 ^ f.mbits < n + 1 := by exact_mod_cast this
      omega

/-- The code below a value, with its neighbour above, and the rounding between them. -/
theorem exists_place {f : Fmt} (hf : Proper f) (mode : RMode) (neg : Bool) {m : Nat} (hm : m ≠ 0) (e : Int) : ∃ c,
    let v : Rat := m * 2 ^ e
    let x : Int := Nat.log2 m + e
    let r := roundShift mode neg m (lastPlace f x - e)
    magValue f c ≤ v ∧ v < magValue f (c + 1) ∧ r.2 = decide (v ≠ magValue f c) ∧
      (lastPlace f x + f.mbits + f.bias - 1) * 2 ^ f.mbits + r.1 = (roundedTo (magValue f) mode neg c v : Int) := by
  obtain ⟨n, hlo, hhi, hne, hr⟩ := roundShift_grid mode neg m e (lastPlace f (Nat.log2 m + e))
  obtain ⟨hn, hb⟩ := significand_fits f hm hlo hhi
  have hval : magValue f (binadeOf f (Nat.log2 m + e) * 2 ^ f.mbits + n) = n * 2 ^ lastPlace f (Nat.log2 m + e) := by
    rw [magValue_binade f hb hn.le, leastExp_add_binadeOf]
  have hsucc : magValue f (binadeOf f (Nat.log2 m + e) * 2 ^ f.mbits + n + 1) = (n + 1) * 2 ^ lastPlace f (Nat.log2 m + e) := by
    rw [magValue_succ f hb hn, hval, leastExp_add_binadeOf]
    ring
  refine ⟨binadeOf f (Nat.log2 m + e) * 2 ^ f.mbits + n, ?_⟩
  intro v x r
  rw [hval, hsucc]
  refine ⟨hlo, hhi, hne, ?_⟩
  have hb' : lastPlace f x + f.mbits + f.bias - 1 = (binadeOf f x : Int) := by
    rw [binadeOf_cast, leastExp]; ring
  have hpar : (binadeOf f x * 2 ^ f.mbits + n) % 2 = n % 2 := by
    obtain ⟨k, hk⟩ := dvd_pow_self 2 (show f.mbits ≠ 0 by have := hf.2; omega)
    rw [hk, mul_left_comm, Nat.mul_add_mod]
  have hstep : ((n : Rat) + 1) * 2 ^ lastPlace f x - n * 2 ^ lastPlace f x = 2 ^ lastPlace f x := by ring
  rw [hb', roundedTo, hval, hsucc, hpar, hstep]
  show _ + (((roundShift mode neg m (lastPlace f x - e)).1 : Nat) : Int) = _
  rw [hr]
  split <;> push_cast <;> ring

/-- The multiples of a last place. -/
def multiples (q : Int) (n : Nat) : Rat := n * 2 ^ q

theorem multiples_strictMono (q : Int) : StrictMono (multiples q) := fun a b h =>
  mul_lt_mul_of_pos_right (Nat.cast_lt.mpr h) (by positivity)

theorem multiples_succ_sub (q : Int) (n : Nat) : multiples q (n + 1) - multiples q n = 2 ^ q := by
  rw [multiples, multiples]
  push_cast
  ring

/-- A rounded significand stays at or below a place that the value does not reach beyond. -/
theorem roundShift_le_iff (mode : RMode) (neg : Bool) (m : Nat) (e q : Int) (b : Nat) : (roundShift mode neg m (q - e)).1 ≤ b ↔
    Safety.reaches mode neg (b % 2 == 1) (b * 2 ^ q) (2 ^ q) (m * 2 ^ e) = false := by
  obtain ⟨n, hlo, hhi, -, hr⟩ := roundShift_grid mode neg m e q
  have hhi' : (m : Rat) * 2 ^ e < multiples q (n + 1) := by
    rw [multiples]; push_cast; exact hhi
  have h := reaches_iff_lt (multiples_strictMono q) (show multiples q n ≤ (m : Rat) * 2 ^ e from hlo) hhi' mode neg b
  rw [roundedTo, multiples_succ_sub, multiples_succ_sub] at h
  rw [hr, ← not_lt, ← Bool.not_eq_true]
  exact not_congr h.symm

/-- A value is tiny where its rounding at one place more than the subnormals' does not reach the smallest normal. -/
theorem tiny_eq (f : Fmt) (mode : RMode) (neg : Bool) {m : Nat} (hm : m ≠ 0) (e : Int) :
    let x : Int := Nat.log2 m + e
    let emin : Int := 1 - (f.bias : Int)
    (decide (x < emin - 1) || (decide (x = emin - 1) && decide ((roundShift mode neg m (x - f.mbits - e)).1 < 2 ^ (f.mbits + 1)))) =
      Safety.tiny f mode (signed neg (m * 2 ^ e)) := by
  intro x emin
  obtain ⟨h1, h2⟩ := mem_binade hm e
  have hv : (0 : Rat) < m * 2 ^ e := lt_of_lt_of_le (by positivity) h1
  have hneg : decide (signed neg ((m : Rat) * 2 ^ e) < 0) = neg := by
    cases neg <;> simp [signed] <;> linarith
  have habs : |signed neg ((m : Rat) * 2 ^ e)| = m * 2 ^ e := by
    cases neg <;> simp only [signed, if_true, Bool.false_eq_true, if_false, abs_neg] <;> exact abs_of_pos hv
  have hS : (0 : Rat) < 2 ^ (emin - 1 - f.mbits) := by positivity
  have hN : (2 : Rat) ^ emin = 2 ^ (f.mbits + 1) * 2 ^ (emin - 1 - f.mbits) := by
    rw [← zpow_natCast, ← zpow_add₀ (by norm_num)]
    congr 1
    push_cast; ring
  have hstep : (2 : Rat) ^ emin / 2 ^ (f.mbits + 1) = 2 ^ (emin - 1 - f.mbits) := by
    rw [hN, mul_div_cancel_left₀ _ (by positivity)]
  have htiny : Safety.tiny f mode (signed neg (m * 2 ^ e)) =
      !Safety.reaches mode neg true (2 ^ emin - 2 ^ (emin - 1 - f.mbits)) (2 ^ (emin - 1 - f.mbits)) (m * 2 ^ e) := by
    rw [Safety.tiny, hneg, habs, hstep]
  rw [htiny]
  rcases lt_trichotomy x (emin - 1) with hx | hx | hx
  · have hle : (2 : Rat) ^ (x + 1) ≤ 2 ^ f.mbits * 2 ^ (emin - 1 - f.mbits) := by
      rw [← zpow_natCast, ← zpow_add₀ (by norm_num)]
      exact zpow_le_zpow_right₀ (by norm_num) (by omega)
    have hM : (1 : Rat) ≤ 2 ^ f.mbits := one_le_pow₀ (by norm_num)
    rw [decide_eq_true hx, Bool.true_or, reaches_of_ge _ _ _ hS, Bool.not_false]
    rw [hN, pow_succ]
    nlinarith
  · have hb : (2 ^ (f.mbits + 1) - 1) % 2 == 1 := by
      have : 2 ^ (f.mbits + 1) = 2 * 2 ^ f.mbits := pow_succ' 2 f.mbits
      have : 0 < 2 ^ f.mbits := by positivity
      rw [beq_iff_eq]; omega
    have hbase : ((2 ^ (f.mbits + 1) - 1 : Nat) : Rat) * 2 ^ (emin - 1 - f.mbits) = 2 ^ emin - 2 ^ (emin - 1 - f.mbits) := by
      rw [hN, Nat.cast_sub Nat.one_le_two_pow]
      push_cast
      ring
    have h := roundShift_le_iff mode neg m e (emin - 1 - f.mbits) (2 ^ (f.mbits + 1) - 1)
    rw [hb, hbase, Nat.le_sub_one_iff_lt (by positivity)] at h
    rw [decide_eq_false hx.not_lt, decide_eq_true hx, Bool.false_or, Bool.true_and, hx]
    by_cases hr : (roundShift mode neg m (emin - 1 - f.mbits - e)).1 < 2 ^ (f.mbits + 1)
    · rw [decide_eq_true hr, h.mp hr, Bool.not_false]
    · rw [decide_eq_false hr, Bool.of_not_eq_false (mt h.mpr hr), Bool.not_true]
  · have hle : (2 : Rat) ^ emin ≤ 2 ^ x := zpow_le_zpow_right₀ (by norm_num) (by omega)
    rw [decide_eq_false hx.asymm, decide_eq_false hx.ne', reaches_of_le _ _ _ (by linarith)]
    rfl

/-- A value is too large where it rounds beyond the largest code. -/
theorem tooLarge_iff {f : Fmt} (hf : Bounded f) (mode : RMode) (neg : Bool) {c : Nat} {v : Rat} (hv : 0 < v) (hlo : magValue f c ≤ v)
    (hhi : v < magValue f (c + 1)) :
    Safety.tooLarge f mode (signed neg v) = true ↔ maxCode f < roundedTo (magValue f) mode neg c v := by
  have hneg : decide (signed neg v < 0) = neg := by
    cases neg <;> simp [signed] <;> linarith
  have habs : |signed neg v| = v := by
    cases neg <;> simp only [signed, if_true, Bool.false_eq_true, if_false, abs_neg] <;> exact abs_of_pos hv
  have hval {k : Nat} (hk : k ≤ maxCode f) (hw : k < signWeight f) : Safety.value (fdecode f k) = magValue f k :=
    (congrArg (fun c => Safety.value (fdecode f c)) (by simp [withSign])).trans (value_withSign hf false hk)
  rw [← reaches_iff_lt (magValue_strictMono f) hlo hhi, magValue_neighbours f hf.2.2, Safety.tooLarge, Safety.largest, hneg, habs,
    hval le_rfl hf.2.1, hval (Nat.sub_le _ _) (lt_of_le_of_lt (Nat.sub_le _ _) hf.2.1)]

/-- The flags of a rounding that is not too large. -/
def roundFlags (f : Fmt) (mode : RMode) (v : Rat) : Nat := if Safety.tiny f mode v then flUnderflow ||| flInexact else flInexact

/-- Rounding in terms of the places of a format's magnitudes. -/
theorem roundFin_eq {f : Fmt} (hf : Proper f) (mode : RMode) (sat ftz neg : Bool) {m : Nat} (hm : m ≠ 0) (e : Int) : ∃ c,
    let v : Rat := m * 2 ^ e
    let r := roundedTo (magValue f) mode neg c v
    magValue f c ≤ v ∧ v < magValue f (c + 1) ∧ roundFin f mode sat ftz neg m e =
      if maxCode f < r then replaced f mode sat neg
      else if ftz ∧ r ≠ 0 ∧ r < 2 ^ f.mbits then (withSign f neg 0, flUnderflow ||| flInexact)
      else (withSign f neg r, if v = magValue f c then 0 else roundFlags f mode (signed neg v)) := by
  obtain ⟨c, hlo, hhi, hne, hr⟩ := exists_place hf mode neg hm e
  refine ⟨c, hlo, hhi, ?_⟩
  have htiny := tiny_eq f mode neg hm e
  simp only [lastPlace] at hne hr
  simp only [roundFin, if_neg hm, hr, Nat.cast_lt, Int.toNat_natCast, htiny, hne, roundFlags, flOr, decide_eq_true_eq, ne_eq, ite_not]

theorem roundFin_zero (f : Fmt) (mode : RMode) (sat ftz neg : Bool) (e : Int) :
    roundFin f mode sat ftz neg 0 e = (withSign f neg 0, 0) := by
  rw [roundFin, if_pos rfl]

/-- A code whose magnitude is the value rounded is the place it rounds to. -/
theorem roundedTo_exact {f : Fmt} (mode : RMode) (neg : Bool) {c mag : Nat} {v : Rat} (hv : v = magValue f mag)
    (hlo : magValue f c ≤ v) (hhi : v < magValue f (c + 1)) : c = mag ∧ roundedTo (magValue f) mode neg c v = mag := by
  have hg := magValue_strictMono f
  subst hv
  have h1 := hg.le_iff_le.mp hlo
  have h2 := hg.lt_iff_lt.mp hhi
  obtain rfl : c = mag := by omega
  refine ⟨rfl, ?_⟩
  rw [roundedTo, reaches_of_ge _ _ _ (sub_pos.mpr (hg (Nat.lt_succ_self c))) le_rfl]
  rfl

/-- A finite value of a format rounds to its own code. -/
theorem roundFin_own {f : Fmt} (hf : Bounded f) (mode : RMode) (sat neg : Bool) {code m : Nat} {e : Int}
    (hc : code < 2 ^ (1 + f.ebits + f.mbits)) (hd : fdecode f code = .fin neg m e) : roundFin f mode sat false neg m e = (code, 0) := by
  obtain ⟨hle, rfl, hm, he⟩ := fdecode_fin hf.1 hd
  have hv : (m : Rat) * 2 ^ e = magValue f (code % signWeight f) := by rw [hm, he, magValue]
  have hcode := withSign_parts f hc
  rcases eq_or_ne m 0 with h0 | h0
  · have hmag : code % signWeight f = 0 := by
      refine (magValue_strictMono f).injective ?_
      rw [← hv, h0, magValue_zero, Nat.cast_zero, zero_mul]
    rw [h0, roundFin_zero, ← hmag, hcode]
  · obtain ⟨c, hlo, hhi, hr⟩ := roundFin_eq hf.1 mode sat false (bitAt code (f.ebits + f.mbits)) h0 e
    obtain ⟨rfl, hto⟩ := roundedTo_exact mode (bitAt code (f.ebits + f.mbits)) hv hlo hhi
    rw [hr, hto, if_neg (not_lt.mpr hle), if_neg (by simp), hcode, if_pos hv]

/-- What R91 writes for a result too large. -/
theorem replaced_eq (f : Fmt) (mode : RMode) (sat neg : Bool) : replaced f mode sat neg = Safety.replacement f mode sat neg := by
  cases sat with
  | true => simp [replaced, Safety.replacement, flOr]
  | false => cases hk : f.kind <;> cases mode <;> cases neg <;> simp [replaced, Safety.replacement, hk, flOr]

/-- A value rounds to itself where it is the number of a place, and not otherwise. -/
theorem roundedTo_eq_self_iff {g : Nat → Rat} (hg : StrictMono g) (mode : RMode) (neg : Bool) {c : Nat} {v : Rat}
    (hhi : v < g (c + 1)) : g (roundedTo g mode neg c v) = v ↔ v = g c := by
  rw [roundedTo]
  split
  · next hr =>
    refine iff_of_false hhi.ne' fun he => ?_
    rw [reaches_of_ge _ _ _ (sub_pos.mpr (hg (Nat.lt_succ_self c))) he.le] at hr
    exact Bool.false_ne_true hr
  · exact eq_comm

theorem signed_inj (neg : Bool) {v w : Rat} : signed neg v = signed neg w ↔ v = w := by
  cases neg <;> simp [signed]

/-- Rounding gives the number that the mode picks, with its flags, or the replacement of a result too large. -/
theorem roundFin_rounds {f : Fmt} (hf : Bounded f) (mode : RMode) (sat ftz neg : Bool) {m : Nat} (hm : m ≠ 0) (e : Int) :
    Safety.Rounds f mode sat ftz (signed neg (m * 2 ^ e)) (roundFin f mode sat ftz neg m e) := by
  obtain ⟨c, hlo, hhi, hr⟩ := roundFin_eq hf.1 mode sat ftz neg hm e
  have hv : (0 : Rat) < m * 2 ^ e := lt_of_lt_of_le (by positivity) (mem_binade hm e).1
  have hneg : decide (signed neg ((m : Rat) * 2 ^ e) < 0) = neg := by
    cases neg <;> simp [signed] <;> linarith
  have hlarge := tooLarge_iff hf mode neg hv hlo hhi
  have hg := magValue_strictMono f
  have hpicks := @picks_roundedTo _ hg c _ hlo hhi (magValue_zero f).ge mode neg (maxCode f)
  have hself := roundedTo_eq_self_iff hg mode neg hhi
  rw [Safety.Rounds, hneg, hr, ← replaced_eq]
  generalize roundedTo (magValue f) mode neg c (m * 2 ^ e) = mag at *
  by_cases h : maxCode f < mag
  · rw [if_pos (hlarge.mpr h), if_pos h]
  · have hle : mag ≤ maxCode f := not_lt.mp h
    rw [if_neg (mt hlarge.mp h), if_neg h]
    refine ⟨mag, hle, ?_⟩
    dsimp only
    rw [value_withSign hf neg hle, withSign_even hf.1, representable_eq hf, isSubnormal_withSign neg (hle.trans_lt hf.2.1)]
    refine ⟨hpicks hle, ?_⟩
    simp only [signed_inj, hself, roundFlags, Bool.and_eq_true, decide_eq_true_eq, Nat.pos_iff_ne_zero]

theorem roundFin_roundsOrZero {f : Fmt} (hf : Bounded f) (mode : RMode) (sat ftz neg : Bool) (m : Nat) (e : Int) :
    Safety.RoundsOrZero f mode sat ftz (Safety.value (.fin neg m e)) neg (roundFin f mode sat ftz neg m e) := by
  rw [Safety.RoundsOrZero, value_fin]
  rcases eq_or_ne m 0 with rfl | hm
  · rw [if_pos (by cases neg <;> simp [signed]), roundFin_zero]
  · rw [if_neg]
    · exact roundFin_rounds hf mode sat ftz neg hm e
    · have hv : (0 : Rat) < m * 2 ^ e := lt_of_lt_of_le (by positivity) (mem_binade hm e).1
      cases neg
      · exact hv.ne'
      · exact (neg_neg_of_pos hv).ne

/-! ### Exact sums and products, and their order (R79, R101, R114) -/

theorem scaledTo_value {k e : Int} (h : k ≤ e) (neg : Bool) (m : Nat) :
    (scaledTo k neg m e : Rat) * 2 ^ k = Safety.value (.fin neg m e) := by
  have he : (2 : Rat) ^ (e - k).toNat * 2 ^ k = 2 ^ e := by
    rw [← zpow_natCast, ← zpow_add₀ (by norm_num), Int.toNat_of_nonneg (by omega), sub_add_cancel]
  rw [value_fin, ← he]
  cases neg <;> simp only [scaledTo, signed, if_true, Bool.false_eq_true, if_false] <;> push_cast <;> ring

/-- The value of a whole multiple of a power of two. -/
theorem value_natAbs (n k : Int) : Safety.value (.fin (decide (n < 0)) n.natAbs k) = n * 2 ^ k := by
  rw [value_fin]
  rcases lt_or_ge n 0 with h | h
  · have : (n.natAbs : Rat) = -(n : Rat) := by rw [Nat.cast_natAbs, abs_of_neg h, Int.cast_neg]
    rw [decide_eq_true h, signed, if_pos rfl, this]
    ring
  · have : (n.natAbs : Rat) = (n : Rat) := by rw [Nat.cast_natAbs, abs_of_nonneg h]
    rw [decide_eq_false (not_lt.mpr h), signed, if_neg Bool.false_ne_true, this]

theorem value_zero (neg : Bool) (e : Int) : Safety.value (.fin neg 0 e) = 0 := by
  rw [value_fin]
  cases neg <;> simp [signed]

theorem sum_scaledTo (n n' : Bool) (m m' : Nat) (e e' : Int) :
    ((scaledTo (min e e') n m e + scaledTo (min e e') n' m' e' : Int) : Rat) * 2 ^ min e e' =
      Safety.value (.fin n m e) + Safety.value (.fin n' m' e') := by
  rw [← scaledTo_value (min_le_left e e'), ← scaledTo_value (min_le_right e e')]
  push_cast
  ring

/-- A sum of finite values is formed exactly. -/
theorem faddVal_value (mode : RMode) (n n' : Bool) (m m' : Nat) (e e' : Int) :
    Safety.value (faddVal mode (.fin n m e) (.fin n' m' e')).1 = Safety.value (.fin n m e) + Safety.value (.fin n' m' e') ∧
      (faddVal mode (.fin n m e) (.fin n' m' e')).2 = false := by
  rw [← sum_scaledTo]
  simp only [faddVal]
  split
  · next h =>
    rw [h, Int.cast_zero, zero_mul]
    split <;> exact ⟨value_zero _ _, rfl⟩
  · exact ⟨value_natAbs _ _, rfl⟩

/-- A product of finite values is formed exactly. -/
theorem fmulVal_value (n n' : Bool) (m m' : Nat) (e e' : Int) :
    Safety.value (fmulVal (.fin n m e) (.fin n' m' e')).1 = Safety.value (.fin n m e) * Safety.value (.fin n' m' e') ∧
      (fmulVal (.fin n m e) (.fin n' m' e')).2 = false := by
  refine ⟨?_, rfl⟩
  simp only [fmulVal, value_fin]
  rw [zpow_add₀ (by norm_num)]
  push_cast
  cases n <;> cases n' <;> simp [signed] <;> ring

/-- Finite values compare as numbers. -/
theorem fltVal_iff (n n' : Bool) (m m' : Nat) (e e' : Int) :
    fltVal (.fin n m e) (.fin n' m' e') = true ↔ Safety.value (.fin n m e) < Safety.value (.fin n' m' e') := by
  have hk : (0 : Rat) < 2 ^ min e e' := by positivity
  rw [fltVal, ← scaledTo_value (min_le_left e e'), ← scaledTo_value (min_le_right e e'), mul_lt_mul_iff_left₀ hk, Int.cast_lt]
  exact decide_eq_true_iff

/-! ### NaNs (R81) -/

/-- A format with infinities and NaNs at the all-ones exponent, as the float majors have (R56). -/
def Ieee (f : Fmt) : Prop := Bounded f ∧ f.kind = .ieee

theorem ieee_of_mem {f : Fmt} (hf : f ∈ [fmtF32, fmtBf16, fmtF16]) : Ieee f := by
  simp only [List.mem_cons, List.not_mem_nil, or_false] at hf
  rcases hf with rfl | rfl | rfl <;> exact ⟨bounded_of_mem (by decide), rfl⟩

/-- A NaN of a format is the canonical one. -/
def Canonical (f : Fmt) (code : Nat) : Prop := fdecode f code = .nan → code = nanCode f

theorem fdecode_infinity {f : Fmt} (hf : Ieee f) (neg : Bool) : fdecode f (withSign f neg (infCode f)) = .inf neg := by
  obtain ⟨⟨⟨he, hm⟩, -, -⟩, hk⟩ := hf
  have hlt : infCode f < signWeight f := by
    rw [infCode, ← pow_mbits_mul, mul_comm]
    exact Nat.mul_lt_mul_of_pos_left (Nat.sub_lt (by positivity) one_pos) (by positivity)
  have hpos : 0 < infCode f := Nat.mul_pos (Nat.sub_pos_of_lt (Nat.one_lt_two_pow (by omega))) (by positivity)
  have hmax : maxCode f = infCode f - 1 := by simp only [maxCode, hk, infCode]
  rw [fdecode_eq ⟨he, hm⟩]
  dsimp only
  rw [withSign_mod f neg hlt, bitAt_withSign f neg hlt, if_neg (by omega), if_pos ⟨hk, rfl⟩]

theorem canonical_infinity {f : Fmt} (hf : Ieee f) (neg : Bool) : Canonical f (withSign f neg (infCode f)) := fun h => by
  rw [fdecode_infinity hf] at h
  cases h

theorem canonical_finite {f : Fmt} (hf : Bounded f) (neg : Bool) {mag : Nat} (h : mag ≤ maxCode f) : Canonical f (withSign f neg mag) :=
  fun hn => by
    rw [fdecode_withSign hf neg h] at hn
    cases hn

theorem canonical_replacement {f : Fmt} (hf : Ieee f) (mode : RMode) (neg : Bool) :
    Canonical f (Safety.replacement f mode false neg).1 := by
  have h1 := canonical_finite hf.1 neg le_rfl
  have h2 := canonical_infinity hf neg
  simp only [Safety.replacement, hf.2, reduceCtorEq, Bool.false_eq_true, or_self, if_false]
  cases mode <;> cases neg <;> assumption

theorem canonical_roundFin {f : Fmt} (hf : Ieee f) (mode : RMode) (ftz neg : Bool) (m : Nat) (e : Int) :
    Canonical f (roundFin f mode false ftz neg m e).1 := by
  rcases eq_or_ne m 0 with rfl | hm
  · rw [roundFin_zero]
    exact canonical_finite hf.1 neg (Nat.zero_le _)
  · obtain ⟨c, -, -, hr⟩ := roundFin_eq hf.1.1 mode false ftz neg hm e
    rw [hr]
    split
    · rw [replaced_eq]
      exact canonical_replacement hf mode neg
    · next h =>
      split
      · exact canonical_finite hf.1 neg (Nat.zero_le _)
      · exact canonical_finite hf.1 neg (not_lt.mp h)

theorem canonical_fround79 {f : Fmt} (hf : Ieee f) (mode : RMode) (ftz : Bool) (v : FVal) :
    Canonical f (fround79 f mode false ftz v).1 := by
  cases v with
  | nan => exact fun _ => by simp [fround79, hf.2]
  | inf neg =>
    have : fround79 f mode false ftz (.inf neg) = (withSign f neg (infCode f), 0) := by simp [fround79, hf.2]
    rw [this]
    exact canonical_infinity hf neg
  | fin neg m e => exact canonical_roundFin hf mode ftz neg m e

theorem canonical_fresult {f : Fmt} (hf : Ieee f) (mode : RMode) (ftz : Bool) (r : FVal × Bool) :
    Canonical f (fresult f mode false ftz r).1 := by
  rw [fresult]
  split
  · exact fun _ => rfl
  · exact canonical_fround79 hf mode ftz r.1

theorem canonical_ffmaCode {f : Fmt} (hf : Ieee f) (mode : RMode) (ftz : Bool) (a b c : Nat) :
    Canonical f (ffmaCode f mode ftz a b c).1 := by
  simp only [ffmaCode]
  split
  · exact fun _ => rfl
  · exact canonical_fresult hf mode ftz _

theorem canonical_fminmaxCode (f : Fmt) (wantMax : Bool) (a b : Nat) : Canonical f (fminmaxCode f wantMax a b) := by
  intro h
  unfold fminmaxCode at h ⊢
  split_ifs at h ⊢ with ha hb hb hc
  · rfl
  · exact absurd h hb
  · exact absurd h ha
  · exact absurd h hb
  · exact absurd h ha
  · exact absurd h hb
  · exact absurd h ha

/-- Settles O14: the shift's rounding, exact sums and products, a value's own code, and the rounding on the grid of a format's numbers. -/
theorem roundingAndNansFollowTheirRules : Obligations.RoundingAndNansFollowTheirRules := by
  unfold Obligations.RoundingAndNansFollowTheirRules
  refine ⟨roundShift_modes, fun mode n n' m m' e e' => ?_, fun f mode sat neg code m e hf hc hd => ?_,
    fun f mode sat ftz neg m e hf => ?_, by decide, fun f a b c mode ftz hf => ⟨fun r hr => ?_, fun wantMax => ?_⟩⟩
  · obtain ⟨ha, ha'⟩ := faddVal_value mode n n' m m' e e'
    obtain ⟨hm, hm'⟩ := fmulVal_value n n' m m' e e'
    exact ⟨ha, ha', hm, hm', fltVal_iff n n' m m' e e'⟩
  · exact roundFin_own (bounded_of_mem hf) mode sat neg hc hd
  · exact roundFin_roundsOrZero (bounded_of_mem hf) mode sat ftz neg m e
  · have hi := ieee_of_mem hf
    simp only [List.mem_cons, List.not_mem_nil, or_false] at hr
    rcases hr with rfl | rfl | rfl | rfl
    · exact canonical_fresult hi .rn false _
    · exact canonical_fresult hi .rn false _
    · exact canonical_fresult hi .rn false _
    · exact canonical_ffmaCode hi mode ftz a b c
  · exact canonical_fminmaxCode f wantMax a b

end Sys2Proof.Proofs
end

section
/-! SUPPORT. The float majors with two or three operands and their codes (R56, R81, R114, R115, R119, R121), and the proof of the statement about them. -/

namespace Sys2Proof.Proofs

open Machine Laws

/-! ### Float majors on their elements (R56, R114 to R121) -/

/-- An instruction that writes one register completes with the results that its checks let through. -/
theorem computes_of_regOp {i : Instr} {m : Mask} {d : Dst} {srcs : List Src} {r : Flock → Nat → Word × Nat} {s : State}
    {val : Nat → Word} {fl : Nat → Nat} (he : exec i s = regOp i m d srcs r s) (ha : Safety.Accepts i (Safety.named d srcs) s)
    (hr : ∀ t, r (cur s) t = (val t, fl t)) : Safety.Computes i s m d val fl := by
  obtain ⟨g, hg, hw, hse, hp, hst⟩ := regOp_computes i m d srcs r s ha
  simp only [hr] at hw hst
  exact ⟨g, he.trans hg, hw, hse, hp, hst⟩

/-- An operation on an element of a width, as one on codes. -/
def OnCodes (packed : Bool) (op : Nat → Nat → Nat → Nat × Nat) (code : Nat → Nat → Nat × Nat) : Prop :=
  if packed then ∀ x y : BitVec 16, op 16 x.toNat y.toNat = code x.toNat y.toNat
  else ∀ x y : Word, op 32 x.toNat y.toNat = code x.toNat y.toNat

theorem binaryFloat_of_binOp {i : Instr} {s : State} {g d a b c : Nat} {packed : Bool} {op : Nat → Nat → Nat → Nat × Nat}
    {code : Nat → Nat → Nat × Nat} (he : exec i s = binOp i g d a b c packed op s)
    (ha : Safety.Accepts i (Safety.named (dstOf c d) [srcOf c a, srcB c b]) s) (hop : OnCodes packed op code) :
    Safety.BinaryFloat i s g d a b c packed code := by
  refine computes_of_regOp he ha fun t => perElement_eachCode packed _ _ code (fun x y u => ?_) _ _
  cases packed
  · exact hop x y
  · exact ⟨hop _ _, hop _ _⟩

theorem onCodes_same (packed : Bool) (code : Nat → Nat → Nat × Nat) : OnCodes packed (fun _ x y => code x y) code := by
  cases packed <;> exact fun _ _ => rfl

theorem toSigned_toNat {w : Nat} (hw : 0 < w) (y : BitVec w) : toSigned w y.toNat = y.toInt := by
  rw [toSigned, BitVec.toInt_eq_toNat_cond]
  have : 2 ^ w = 2 * 2 ^ (w - 1) := (two_mul_half hw).symm
  have hlt := y.isLt
  push_cast
  split <;> split <;> omega

theorem onCodes_fscale (t : Nat) : OnCodes (t != 0) (fun w x y => fscaleCode (floatFmt t) x (toSigned w y))
    (fun x y => fscaleCode (floatFmt t) x (if t = 0 then (BitVec.ofNat 32 y).toInt else (BitVec.ofNat 16 y).toInt)) := by
  rcases eq_or_ne t 0 with rfl | ht
  · intro x y
    simp only [if_true, BitVec.ofNat_toNat, BitVec.setWidth_eq, toSigned_toNat (by decide : 0 < 32)]
  · rw [OnCodes, if_pos (bne_iff_ne.mpr ht)]
    intro x y
    simp only [if_neg ht, BitVec.ofNat_toNat, BitVec.setWidth_eq, toSigned_toNat (by decide : 0 < 16)]

theorem rmodeOf_lt {k : Nat} {mode : RMode} (h : rmodeOf k = some mode) : k < 5 := by
  unfold rmodeOf at h
  split at h
  · decide
  · decide
  · decide
  · decide
  · decide
  · cases h

theorem exec_ffma (s : State) (g d a b c t cc fm : Nat) : exec (.ffma g d a b c t cc fm) s =
    regOp (.ffma g d a b c t cc fm) (active s g) (dstOf c d) [srcOf c a, srcB c b, srcOf c cc]
      (fun f th => perElement (t != 0)
        (fun _ x y z => ffmaCode (floatFmt t) ((rmodeOf (fm % 8)).getD .rn) (8 ≤ fm) x y z)
        (readSrc f (srcOf c a) th) (readSrc f (srcB c b) th) (readSrc f (srcOf c cc) th)) s := rfl

/-- A three-operand operation on codes, on the one element or the two of a word. -/
theorem perElement_codes (t : Nat) (op : Nat → Nat → Nat → Nat × Nat) (x y z : Word) :
    let one (k : Nat) : Nat × Nat :=
      let w := if t = 0 then 32 else 16
      op (x.extractLsb' (16 * k) w).toNat (y.extractLsb' (16 * k) w).toNat (z.extractLsb' (16 * k) w).toNat
    perElement (t != 0) (fun _ x y z => op x y z) x y z =
      (if t = 0 then BitVec.ofNat 32 (one 0).1 else BitVec.ofNat 16 (one 1).1 ++ BitVec.ofNat 16 (one 0).1,
        if t = 0 then (one 0).2 else (one 0).2 ||| (one 1).2) := by
  intro one
  rcases eq_or_ne t 0 with rfl | ht
  · have hx (x : Word) : (x.extractLsb' (16 * 0) 32).toNat = x.toNat := by simp
    have h1 : one 0 = op x.toNat y.toNat z.toNat := by
      rw [← hx x, ← hx y, ← hx z]
      rfl
    rw [if_pos rfl, if_pos rfl, h1]
    rfl
  · have hb : (t != 0) = true := bne_iff_ne.mpr ht
    have h1 (k : Nat) : one k = op (half x k) (half y k) (half z k) := by
      dsimp only [one]
      rw [if_neg ht, half_eq, half_eq, half_eq]
    rw [if_neg ht, if_neg ht, h1, h1, perElement, hb, if_pos rfl]
    dsimp only
    rw [joinHalves_eq, flOr]

section
variable {s : State} {g d a b c t : Nat} (hc : c < 3) (ht : t < 3)
  (hb : ∀ n ∈ Safety.named (dstOf c d) [srcOf c a, srcB c b], n < (cur s).budget)
include hc ht hb

/-- The two-operand float majors work on each element. -/
theorem binaryFloats : let f := floatFmt t
    Safety.BinaryFloat (.fadd g d a b c t) s g d a b c (t != 0) (faddCode f) ∧
    Safety.BinaryFloat (.fsub g d a b c t) s g d a b c (t != 0) (fsubCode f) ∧
    Safety.BinaryFloat (.fmul g d a b c t) s g d a b c (t != 0) (fmulCode f) ∧
    Safety.BinaryFloat (.fmin g d a b c t) s g d a b c (t != 0) (fun x y => (fminmaxCode f false x y, 0)) ∧
    Safety.BinaryFloat (.fmax g d a b c t) s g d a b c (t != 0) (fun x y => (fminmaxCode f true x y, 0)) ∧
    Safety.BinaryFloat (.fscale g d a b c t) s g d a b c (t != 0)
      (fun x y => fscaleCode f x (if t = 0 then (BitVec.ofNat 32 y).toInt else (BitVec.ofNat 16 y).toInt)) := by
  have hl : (decide (c < 3) && decide (t < 3)) = true := by simp [hc, ht]
  exact ⟨binaryFloat_of_binOp rfl ⟨hl, hb⟩ (onCodes_same _ _), binaryFloat_of_binOp rfl ⟨hl, hb⟩ (onCodes_same _ _),
    binaryFloat_of_binOp rfl ⟨hl, hb⟩ (onCodes_same _ _), binaryFloat_of_binOp rfl ⟨hl, hb⟩ (onCodes_same _ _),
    binaryFloat_of_binOp rfl ⟨hl, hb⟩ (onCodes_same _ _), binaryFloat_of_binOp rfl ⟨hl, hb⟩ (onCodes_fscale t)⟩
end

/-! ### Codes of NaNs, infinities and invalid operations (R81, R91, R93) -/

section
variable {f : Fmt} (hf : Ieee f) (mode : RMode) (ftz : Bool)
include hf

theorem fround79_nan : fround79 f mode false ftz .nan = Safety.quiet f := by simp [fround79, hf.2, Safety.quiet]

theorem fround79_inf (neg : Bool) : fround79 f mode false ftz (.inf neg) = Safety.infinity f neg := by
  simp [fround79, hf.2, Safety.infinity]

theorem fresult_nan : fresult f mode false ftz (.nan, false) = Safety.quiet f := fround79_nan hf mode ftz
theorem fresult_inf (neg : Bool) : fresult f mode false ftz (.inf neg, false) = Safety.infinity f neg := fround79_inf hf mode ftz neg
omit hf in
theorem fresult_invalid (v : FVal) : fresult f mode false ftz (v, true) = Safety.invalid f := rfl
end

@[simp] theorem faddVal_nan_left (mode : RMode) (y : FVal) : faddVal mode .nan y = (.nan, false) := rfl
@[simp] theorem faddVal_nan_right (mode : RMode) (x : FVal) : faddVal mode x .nan = (.nan, false) := by cases x <;> rfl
@[simp] theorem fmulVal_nan_left (y : FVal) : fmulVal .nan y = (.nan, false) := rfl
@[simp] theorem fmulVal_nan_right (x : FVal) : fmulVal x .nan = (.nan, false) := by cases x <;> rfl
@[simp] theorem faddVal_inf_fin (mode : RMode) (n n' : Bool) (m : Nat) (e : Int) : faddVal mode (.inf n) (.fin n' m e) = (.inf n, false) := rfl
@[simp] theorem faddVal_fin_inf (mode : RMode) (n n' : Bool) (m : Nat) (e : Int) : faddVal mode (.fin n' m e) (.inf n) = (.inf n, false) := rfl
theorem faddVal_inf_inf (mode : RMode) (n n' : Bool) :
    faddVal mode (.inf n) (.inf n') = if n = n' then (.inf n, false) else (.nan, true) := rfl

theorem fmulVal_infinite {x y : FVal} {n : Bool} (h : Safety.ProductInfinite x y n) : fmulVal x y = (.inf n, false) := by
  obtain ⟨n, n', rfl, ⟨rfl, rfl⟩ | ⟨m, e, hm, ⟨rfl, rfl⟩ | ⟨rfl, rfl⟩⟩⟩ := h
  · rfl
  · simp [fmulVal, hm]
  · simp [fmulVal, hm]

theorem fmulVal_invalid {x y : FVal} (h : Safety.ProductInvalid x y) : fmulVal x y = (.nan, true) := by
  obtain ⟨n, n', e, ⟨rfl, rfl⟩ | ⟨rfl, rfl⟩⟩ := h <;> rfl

/-- The sign of an exact sum that is zero (R114, R121). -/
def zeroSign (mode : RMode) (n n' : Bool) : Bool := if n = n' then n' else mode == .rm

theorem scaledTo_same_sign {k : Int} {n : Bool} {m m' : Nat} {e e' : Int} (h : scaledTo k n m e + scaledTo k n m' e' = 0) :
    m = 0 ∧ m' = 0 := by
  have hz : m * 2 ^ (e - k).toNat = 0 ∧ m' * 2 ^ (e' - k).toNat = 0 := by
    cases n <;> simp only [scaledTo, if_true, Bool.false_eq_true, if_false] at h <;> omega
  have hp (j : Nat) : 2 ^ j ≠ 0 := by positivity
  exact ⟨(Nat.mul_eq_zero.mp hz.1).resolve_right (hp _), (Nat.mul_eq_zero.mp hz.2).resolve_right (hp _)⟩

/-- What is written of a number that is not zero does not ask for the sign of a zero. -/
theorem roundsOrZero_of_ne {f : Fmt} {mode : RMode} {sat ftz : Bool} {v : Rat} {z : Bool} {r : Nat × Nat} (hv : v ≠ 0) (z' : Bool)
    (h : Safety.RoundsOrZero f mode sat ftz v z r) : Safety.RoundsOrZero f mode sat ftz v z' r := by
  rw [Safety.RoundsOrZero, if_neg hv] at h ⊢
  exact h

/-- A sum of finite values is rounded once, and an exact zero has the sign of its rule. -/
theorem fresult_faddVal {f : Fmt} (hf : Bounded f) (mode : RMode) (ftz : Bool) (n n' : Bool) (m m' : Nat) (e e' : Int) :
    Safety.RoundsOrZero f mode false ftz (Safety.value (.fin n m e) + Safety.value (.fin n' m' e')) (zeroSign mode n n')
      (fresult f mode false ftz (faddVal mode (.fin n m e) (.fin n' m' e'))) := by
  have hsum := sum_scaledTo n n' m m' e e'
  rw [← hsum]
  simp only [faddVal]
  split
  · next h =>
    have hsign : (if m = 0 ∧ m' = 0 ∧ n = n' then (FVal.fin n 0 0, false) else (.fin (decide (mode = .rm)) 0 0, false)) =
        (FVal.fin (zeroSign mode n n') 0 0, false) := by
      rw [zeroSign]
      rcases eq_or_ne n n' with rfl | hn
      · rw [if_pos rfl, if_pos ⟨(scaledTo_same_sign h).1, (scaledTo_same_sign h).2, rfl⟩]
      · rw [if_neg hn, if_neg (fun h => hn h.2.2)]
        cases mode <;> rfl
    rw [hsign, h, Int.cast_zero, zero_mul, Safety.RoundsOrZero, if_pos rfl]
    exact roundFin_zero f mode false ftz _ 0
  · next h =>
    have hv : ((scaledTo (min e e') n m e + scaledTo (min e e') n' m' e' : Int) : Rat) * 2 ^ min e e' ≠ 0 :=
      mul_ne_zero (Int.cast_ne_zero.mpr h) (by positivity)
    have hr := roundFin_roundsOrZero hf mode false ftz (decide (scaledTo (min e e') n m e + scaledTo (min e e') n' m' e' < 0))
      (scaledTo (min e e') n m e + scaledTo (min e e') n' m' e').natAbs (min e e')
    rw [value_natAbs] at hr
    exact roundsOrZero_of_ne hv _ hr

theorem value_fnegVal (n : Bool) (m : Nat) (e : Int) : Safety.value (.fin (!n) m e) = -Safety.value (.fin n m e) := by
  rw [value_fin, value_fin]
  cases n <;> simp [signed]

/-- A product of finite values is rounded once. -/
theorem fresult_fmulVal {f : Fmt} (hf : Bounded f) (mode : RMode) (ftz : Bool) (n n' : Bool) (m m' : Nat) (e e' : Int) :
    Safety.RoundsOrZero f mode false ftz (Safety.value (.fin n m e) * Safety.value (.fin n' m' e')) (n != n')
      (fresult f mode false ftz (fmulVal (.fin n m e) (.fin n' m' e'))) := by
  rw [← (fmulVal_value n n' m m' e e').1]
  exact roundFin_roundsOrZero hf mode false ftz _ _ _

/-! ### Orders of codes (R101, R115) -/

/-- The place of a magnitude with a sign in the order of codes, -0 below +0. -/
def keyOf (neg : Bool) (mag : Nat) : Int := if neg then -(mag : Int) - 1 else mag

theorem orderKey_eq (f : Fmt) (code : Nat) : orderKey f code = keyOf (bitAt code (f.ebits + f.mbits)) (code % signWeight f) := rfl

/-- A code that is not a NaN is a number of the format, or an infinity just beyond. -/
theorem decode_cases {f : Fmt} (hf : Ieee f) {code : Nat} (h : fdecode f code ≠ .nan) :
    (∃ neg, ∃ mag ≤ maxCode f, fdecode f code = .fin neg (magSig f mag) (magExp f mag) ∧ orderKey f code = keyOf neg mag) ∨
    ∃ neg, fdecode f code = .inf neg ∧ orderKey f code = keyOf neg (maxCode f + 1) := by
  obtain ⟨⟨hp, -, hne⟩, hk⟩ := hf
  have hpos : 0 < maxCode f := Nat.pos_of_ne_zero fun h0 => hne (by rw [h0, Nat.zero_mod])
  have hinf : infCode f = maxCode f + 1 := by
    simp only [maxCode, hk, infCode] at hpos ⊢
    omega
  rw [orderKey_eq]
  rw [fdecode_eq hp] at h ⊢
  dsimp only at h ⊢
  split at h
  · next hle => exact .inl ⟨_, _, hle, if_pos hle, rfl⟩
  · next hle =>
    split at h
    · next hi => exact .inr ⟨_, by rw [if_neg hle, if_pos hi], by rw [hi.2, hinf]⟩
    · exact absurd rfl h

theorem signed_le_of_key {g : Nat → Rat} (hg : StrictMono g) (h0 : 0 ≤ g 0) {n n' : Bool} {k k' : Nat}
    (h : keyOf n k ≤ keyOf n' k') : signed n (g k) ≤ signed n' (g k') := by
  have hnn (k : Nat) : 0 ≤ g k := h0.trans (hg.monotone (Nat.zero_le k))
  cases n <;> cases n' <;> simp only [keyOf, signed, if_true, Bool.false_eq_true, if_false] at h ⊢
  · exact hg.monotone (by omega)
  · omega
  · linarith [hnn k, hnn k']
  · exact neg_le_neg (hg.monotone (by omega))

/-- A code that another does not exceed in order does not exceed it as a number. -/
theorem not_fltVal_of_orderKey_le {f : Fmt} (hf : Ieee f) {a b : Nat} (ha : fdecode f a ≠ .nan) (hb : fdecode f b ≠ .nan)
    (h : orderKey f a ≤ orderKey f b) : fltVal (fdecode f b) (fdecode f a) = false := by
  rcases decode_cases hf ha with ⟨n, k, hk, hd, hkey⟩ | ⟨n, hd, hkey⟩ <;>
    rcases decode_cases hf hb with ⟨n', k', hk', hd', hkey'⟩ | ⟨n', hd', hkey'⟩ <;> rw [hkey, hkey'] at h <;> rw [hd, hd']
  · rw [← Bool.not_eq_true, fltVal_iff, value_fin, value_fin, not_lt]
    exact signed_le_of_key (magValue_strictMono f) (magValue_zero f).ge h
  · cases n' with
    | false => rfl
    | true => cases n <;> simp only [keyOf, if_true, Bool.false_eq_true, if_false] at h <;> omega
  · cases n with
    | true => rfl
    | false => cases n' <;> simp only [keyOf, if_true, Bool.false_eq_true, if_false] at h <;> omega
  · cases n' with
    | false => rfl
    | true =>
      cases n with
      | false =>
        simp only [keyOf, if_true, Bool.false_eq_true, if_false] at h
        omega
      | true => rfl

/-- The codes of fmin and fmax of two numbers (R115). -/
theorem fminmaxCode_numbers {f : Fmt} {wantMax : Bool} {a b : Nat} (ha : fdecode f a ≠ .nan) (hb : fdecode f b ≠ .nan) :
    fminmaxCode f wantMax a b =
      if (if wantMax then decide (orderKey f a < orderKey f b) else decide (orderKey f b < orderKey f a)) then b else a := by
  rw [fminmaxCode, if_neg ha, if_neg hb]

/-- fmax picks the greater in order, and fmin the lesser. -/
theorem orderKey_fminmaxCode {f : Fmt} {wantMax : Bool} {a b : Nat} (ha : fdecode f a ≠ .nan) (hb : fdecode f b ≠ .nan) :
    orderKey f (fminmaxCode f wantMax a b) =
      if wantMax then max (orderKey f a) (orderKey f b) else min (orderKey f a) (orderKey f b) := by
  rw [fminmaxCode_numbers ha hb]
  cases wantMax <;> simp only [if_true, Bool.false_eq_true, if_false, decide_eq_true_eq] <;> split <;> omega

theorem fminmaxCode_or {f : Fmt} {wantMax : Bool} {a b : Nat} (ha : fdecode f a ≠ .nan) (hb : fdecode f b ≠ .nan) :
    fminmaxCode f wantMax a b = a ∨ fminmaxCode f wantMax a b = b := by
  rw [fminmaxCode_numbers ha hb]
  split
  · split <;> simp
  · split <;> simp

/-- The codes of zeros. -/
theorem zero_code {f : Fmt} (hf : Proper f) {code : Nat} {n : Bool} {e : Int} (h : fdecode f code = .fin n 0 e) :
    e = magExp f 0 ∧ orderKey f code = keyOf n 0 := by
  obtain ⟨-, hn, hm, he⟩ := fdecode_fin hf h
  have hmag : code % signWeight f = 0 := by
    refine (magValue_strictMono f).injective ?_
    rw [magValue, ← hm, Nat.cast_zero, zero_mul, magValue_zero]
  rw [orderKey_eq, ← hn, he, hmag]
  exact ⟨rfl, rfl⟩

/-- Of two zeros, fmax gives -0 where both are, and fmin where one is. -/
theorem fminmaxCode_zeros {f : Fmt} (hf : Proper f) {wantMax n n' : Bool} {a b : Nat} {e e' : Int} (ha : fdecode f a = .fin n 0 e)
    (hb : fdecode f b = .fin n' 0 e') : fdecode f (fminmaxCode f wantMax a b) = .fin (if wantMax then n && n' else n || n') 0 e := by
  obtain ⟨rfl, hka⟩ := zero_code hf ha
  obtain ⟨rfl, hkb⟩ := zero_code hf hb
  rw [fminmaxCode_numbers (by rw [ha]; exact FVal.noConfusion) (by rw [hb]; exact FVal.noConfusion), hka, hkb]
  cases wantMax <;> cases n <;> cases n' <;> simp [keyOf, ha, hb]

/-! ### The rules of the float majors -/

section
variable {f : Fmt} (hf : Ieee f) (a b : Nat)
include hf

theorem floats_of_nan (h : fdecode f a = .nan ∨ fdecode f b = .nan) :
    ∀ op ∈ [faddCode, fsubCode, fmulCode], op f a b = Safety.quiet f := by
  have hq := fresult_nan hf .rn false
  intro op hop
  simp only [List.mem_cons, List.not_mem_nil, or_false] at hop
  rcases hop with rfl | rfl | rfl <;> rcases h with h | h <;>
    simp only [faddCode, fsubCode, fmulCode, h, fnegVal, faddVal_nan_left, faddVal_nan_right, fmulVal_nan_left, fmulVal_nan_right, hq]

theorem sums_of_infinities (n n' : Bool) (hx : fdecode f a = .inf n) (hy : fdecode f b = .inf n') :
    faddCode f a b = (if n = n' then Safety.infinity f n else Safety.invalid f) ∧
      fsubCode f a b = (if n = n' then Safety.invalid f else Safety.infinity f n) := by
  have hi := fresult_inf hf .rn false
  rw [faddCode, fsubCode, hx, hy, fnegVal, faddVal_inf_inf, faddVal_inf_inf]
  cases n <;> cases n' <;> simp [hi, fresult_invalid]

theorem sums_of_infinity_and_finite (n n' : Bool) (m : Nat) (e : Int) (hx : fdecode f a = .inf n) (hy : fdecode f b = .fin n' m e) :
    faddCode f a b = Safety.infinity f n ∧ faddCode f b a = Safety.infinity f n ∧ fsubCode f a b = Safety.infinity f n ∧
      fsubCode f b a = Safety.infinity f (!n) := by
  have hi := fresult_inf hf .rn false
  simp only [faddCode, fsubCode, hx, hy, fnegVal, faddVal_inf_fin, faddVal_fin_inf, hi, and_self]

theorem floats_of_finite (n n' : Bool) (m m' : Nat) (e e' : Int) (hx : fdecode f a = .fin n m e) (hy : fdecode f b = .fin n' m' e') :
    Safety.RoundsOrZero f .rn false false (Safety.value (fdecode f a) + Safety.value (fdecode f b)) (n && n') (faddCode f a b) ∧
    Safety.RoundsOrZero f .rn false false (Safety.value (fdecode f a) - Safety.value (fdecode f b)) (n && !n') (fsubCode f a b) ∧
    Safety.RoundsOrZero f .rn false false (Safety.value (fdecode f a) * Safety.value (fdecode f b)) (n != n') (fmulCode f a b) := by
  have hz (n n' : Bool) : zeroSign .rn n n' = (n && n') := by cases n <;> cases n' <;> rfl
  have hadd := fresult_faddVal hf.1 .rn false n n' m m' e e'
  have hsub := fresult_faddVal hf.1 .rn false n (!n') m m' e e'
  rw [hz] at hadd hsub
  rw [value_fnegVal, ← sub_eq_add_neg] at hsub
  rw [faddCode, fsubCode, fmulCode, hx, hy]
  exact ⟨hadd, hsub, fresult_fmulVal hf.1 .rn false n n' m m' e e'⟩

theorem fscale_rules (k : Int) : (fdecode f a = .nan → fscaleCode f a k = Safety.quiet f) ∧
    (∀ n : Bool, fdecode f a = .inf n → fscaleCode f a k = Safety.infinity f n) ∧
    ∀ (n : Bool) (m : Nat) (e : Int), fdecode f a = .fin n m e →
      Safety.RoundsOrZero f .rn false false (Safety.value (fdecode f a) * 2 ^ k) n (fscaleCode f a k) := by
  refine ⟨fun h => ?_, fun n h => ?_, fun n m e h => ?_⟩
  · simp only [fscaleCode, h]
    exact fround79_nan hf .rn false
  · simp only [fscaleCode, h]
    exact fround79_inf hf .rn false n
  · have hv : Safety.value (.fin n m (e + k)) = Safety.value (.fin n m e) * 2 ^ k := by
      rw [value_fin, value_fin, zpow_add₀ (by norm_num)]
      cases n <;> simp only [signed, if_true, Bool.false_eq_true, if_false] <;> ring
    have hr := roundFin_roundsOrZero hf.1 .rn false false n m (e + k)
    rw [hv] at hr
    simp only [fscaleCode, h]
    exact hr

theorem fminmax_rules (wantMax : Bool) :
    let x := fdecode f a
    let y := fdecode f b
    let r := fminmaxCode f wantMax a b
    (x = .nan → y ≠ .nan → r = b) ∧ (x ≠ .nan → y = .nan → r = a) ∧ (x = .nan → y = .nan → r = nanCode f) ∧
    (x ≠ .nan → y ≠ .nan → (r = a ∨ r = b) ∧
      (∀ z ∈ [x, y], (if wantMax then fltVal (fdecode f r) z else fltVal z (fdecode f r)) = false) ∧
      ∀ (n n' : Bool) (e e' : Int), x = .fin n 0 e → y = .fin n' 0 e' →
        fdecode f r = .fin (if wantMax then n && n' else n || n') 0 e) := by
  intro x y r
  refine ⟨fun hx hy => ?_, fun hx hy => ?_, fun hx hy => ?_, fun hx hy => ⟨fminmaxCode_or hx hy, fun z hz => ?_,
    fun n n' e e' h h' => fminmaxCode_zeros hf.1.1 h h'⟩⟩
  · exact (if_pos hx).trans (if_neg hy)
  · exact (if_neg hx).trans (if_pos hy)
  · exact (if_pos hx).trans (if_pos hy)
  · have hkey := orderKey_fminmaxCode (wantMax := wantMax) hx hy
    have hr : fdecode f r ≠ .nan := by
      rcases fminmaxCode_or (wantMax := wantMax) hx hy with h | h
      · exact (congrArg (fdecode f) h).trans_ne hx
      · exact (congrArg (fdecode f) h).trans_ne hy
    simp only [List.mem_cons, List.not_mem_nil, or_false] at hz
    cases wantMax with
    | true =>
      rcases hz with rfl | rfl
      · exact not_fltVal_of_orderKey_le hf hx hr ((le_max_left _ _).trans hkey.ge)
      · exact not_fltVal_of_orderKey_le hf hy hr ((le_max_right _ _).trans hkey.ge)
    | false =>
      rcases hz with rfl | rfl
      · exact not_fltVal_of_orderKey_le hf hr hx (hkey.le.trans (min_le_left _ _))
      · exact not_fltVal_of_orderKey_le hf hr hy (hkey.le.trans (min_le_right _ _))
end

/-- ffma on the values of its operands. -/
def ffmaOf (f : Fmt) (mode : RMode) (ftz : Bool) (x y z : FVal) : Nat × Nat :=
  if (fmulVal x y).2 then (nanCode f, if z = .nan then 0 else flInvalid) else fresult f mode false ftz (faddVal mode (fmulVal x y).1 z)

theorem ffmaCode_eq (f : Fmt) (mode : RMode) (ftz : Bool) (a b c : Nat) : ffmaCode f mode ftz a b c =
    ffmaOf f mode ftz (fdecode f (flushIn f ftz a)) (fdecode f (flushIn f ftz b)) (fdecode f (flushIn f ftz c)) := rfl

theorem ffmaOf_rules {f : Fmt} (hf : Ieee f) (mode : RMode) (ftz : Bool) (x y z : FVal) :
    let r := ffmaOf f mode ftz x y z
    (x = .nan ∨ y = .nan ∨ z = .nan → r = Safety.quiet f) ∧
    (Safety.ProductInvalid x y → z ≠ .nan → r = Safety.invalid f) ∧
    (∀ n : Bool, Safety.ProductInfinite x y n → z ≠ .nan → r = if z = .inf (!n) then Safety.invalid f else Safety.infinity f n) ∧
    (∀ n : Bool, Safety.Finite x → Safety.Finite y → z = .inf n → r = Safety.infinity f n) ∧
    ∀ (n n' n'' : Bool) (m m' m'' : Nat) (e e' e'' : Int), x = .fin n m e → y = .fin n' m' e' → z = .fin n'' m'' e'' →
      Safety.RoundsOrZero f mode false ftz (Safety.value x * Safety.value y + Safety.value z)
        (if (n != n') = n'' then n'' else mode == .rm) r := by
  intro r
  have hq := fresult_nan hf mode ftz
  have hi := fresult_inf hf mode ftz
  refine ⟨fun h => ?_, fun h hz => ?_, fun n h hz => ?_, fun n ⟨n1, m1, e1, hx⟩ ⟨n2, m2, e2, hy⟩ hz => ?_,
    fun n n' n'' m m' m'' e e' e'' hx hy hz => ?_⟩
  · rcases h with rfl | rfl | rfl
    · simp only [r, ffmaOf, fmulVal_nan_left, faddVal_nan_left, hq, Bool.false_eq_true, if_false]
    · simp only [r, ffmaOf, fmulVal_nan_right, faddVal_nan_left, hq, Bool.false_eq_true, if_false]
    · simp only [r, ffmaOf, faddVal_nan_right, hq, if_true]
      split <;> rfl
  · simp only [r, ffmaOf, fmulVal_invalid h, if_true, if_neg hz]
    rfl
  · simp only [r, ffmaOf, fmulVal_infinite h, Bool.false_eq_true, if_false]
    cases z with
    | nan => exact absurd rfl hz
    | inf n' =>
      rw [faddVal_inf_inf]
      cases n <;> cases n' <;> simp [hi, fresult_invalid]
    | fin n' m e => simp [hi]
  · subst hx hy hz
    exact hi n
  · subst hx hy hz
    have h := fresult_faddVal hf.1 mode ftz (n != n') n'' (m * m') m'' (e + e') e''
    have hp := (fmulVal_value n n' m m' e e').1
    rw [fmulVal] at hp
    rw [hp, zeroSign] at h
    exact h

/-- Settles O12: each major on its elements, and the rules of its codes. -/
theorem floatArithmeticPerElement : Obligations.FloatArithmeticPerElement := by
  unfold Obligations.FloatArithmeticPerElement
  refine ⟨fun s g d a b c t hc ht hb => binaryFloats hc ht hb, fun s g d a b c t cc fm mode hc ht hfm hmode hb => ?_,
    fun f a b hf => ?_, fun f mode ftz a b c hf => ?_⟩
  · intro z one
    have hl : legalForm (.ffma g d a b c t cc fm) = true := by
      simp [legalForm, hc, ht, rmodeOf_lt hmode]
    refine computes_of_regOp (exec_ffma s g d a b c t cc fm) ⟨hl, hb⟩ fun th => ?_
    rw [hmode]
    exact perElement_codes t (ffmaCode (floatFmt t) mode (decide (8 ≤ fm))) _ _ _
  · have hi := ieee_of_mem hf
    intro x y
    refine ⟨floats_of_nan hi a b, sums_of_infinities hi a b, sums_of_infinity_and_finite hi a b, fun n h => ?_, fun h => ?_,
      floats_of_finite hi a b, fscale_rules hi a, fminmax_rules hi a b⟩
    · rw [fmulCode, fmulVal_infinite h]
      exact fresult_inf hi .rn false n
    · rw [fmulCode, fmulVal_invalid h]
      rfl
  · exact ffmaOf_rules (ieee_of_mem hf) mode ftz _ _ _

end Sys2Proof.Proofs
end

section
/-! SUPPORT. What an admission makes of a launch, its new workgroup and the flocks that take their places (R61, R247, R248). -/

namespace Sys2Proof.Proofs

open Machine Laws

/-! ### Launches and workgroups after a change of one (R247) -/

theorem launchOf_of_find {s : State} {n : Nat} {l : Launch} (h : s.launches.find? (fun x => x.num == n) = some l) : launchOf s n = l := by
  rw [launchOf, h, Option.getD_some]

theorem find_launch_num {s : State} {n : Nat} {l : Launch} (h : s.launches.find? (fun x => x.num == n) = some l) : l.num = n := by
  simpa using List.find?_some h

theorem find_updLaunch {s : State} {n : Nat} {l : Launch} {f : Launch → Launch} (hf : ∀ x, (f x).num = x.num)
    (h : s.launches.find? (fun x => x.num == n) = some l) : (updLaunch n f s).launches.find? (fun x => x.num == n) = some (f l) := by
  have hmap := find_updFirst (fun x : Launch => x.num == n) f (fun x hx => by rwa [hf x]) s.launches
  rw [h] at hmap
  exact hmap

theorem launchOf_updLaunch {s : State} {n : Nat} {l : Launch} {f : Launch → Launch} (hf : ∀ x, (f x).num = x.num)
    (h : s.launches.find? (fun x => x.num == n) = some l) : launchOf (updLaunch n f s) n = f l :=
  launchOf_of_find (find_updLaunch hf h)

/-- A launch whose next workgroup waits for a core is listed. -/
theorem find_launch_of_hasNext {s : State} {n : Nat} (h : hasNext (launchOf s n) = true) :
    s.launches.find? (fun x => x.num == n) = some (launchOf s n) := by
  cases hfind : s.launches.find? (fun x => x.num == n) with
  | none => rw [launchOf, hfind] at h; exact absurd h (by decide)
  | some l => rw [launchOf_of_find hfind]

theorem hasNext_of_nextCore {s : State} {l : Launch} {core : Nat} (h : nextCore s l = some core) : hasNext l = true := by
  by_contra hn
  rw [nextCore, if_neg hn] at h
  exact absurd h (by simp)

/-- Events that become due change nothing else. -/
theorem foldl_due_eq {α : Type} (g : α → Instr) (l : List α) (s : State) :
    l.foldl (fun s a => due (g a) s) s = { s with todo := (l.foldl (fun s a => due (g a) s) s).todo } := by
  induction l generalizing s with
  | nil => rfl
  | cons a r ih =>
    rw [List.foldl_cons, ih (due (g a) s), due_eq]

theorem pokeCore_eq (c : Nat) (s : State) : pokeCore c s = { s with todo := (pokeCore c s).todo } := foldl_due_eq _ _ s

theorem flockAt_pokeCore (c : Nat) (s : State) (d n : Nat) : flockAt (pokeCore c s) d n = flockAt s d n := by rw [pokeCore_eq]; rfl

/-! ### The flocks of an admitted workgroup (R61, R248) -/

theorem get_foldl_range_set {α : Type} [DecidableEq α] (d : α) (g : Nat → α) (n j : Nat) :
    smapGet d ((List.range n).foldl (fun m k => smapSet d m k (g k)) []) j = if j < n then g j else d := by
  induction n with
  | zero => simp
  | succ n ih =>
    rw [List.range_succ, List.foldl_concat, get_set, ih]
    by_cases h : j = n
    · simp [h]
    · simp only [if_neg h, show j < n + 1 ↔ j < n by omega]

/-- One flock of a workgroup takes its place. -/
def seat (l : Launch) (k core : Nat) (s : State) (p : Place × Nat) : State := setFlock core p.1.slot (startFlock s l k core p.2 p.1) s

theorem seat_eq (l : Launch) (k core : Nat) (s : State) (p : Place × Nat) : seat l k core s p = { s with cores := (seat l k core s p).cores } := rfl

theorem startFlock_seat (l : Launch) (k core : Nat) (s : State) (q : Place × Nat) (index : Nat) (p : Place) :
    startFlock (seat l k core s q) l k core index p = startFlock s l k core index p := by rw [seat_eq]; rfl

theorem flockAt_seat (l : Launch) (k core : Nat) (s : State) (p : Place × Nat) (c n : Nat) :
    flockAt (seat l k core s p) c n = if c = core ∧ n = p.1.slot then startFlock s l k core p.2 p.1 else flockAt s c n :=
  flockAt_setFlock _ _ _ _ _ _

/-- Seating changes the cores alone. -/
theorem foldl_seat_eq (l : Launch) (k core : Nat) (ps : List (Place × Nat)) (s : State) :
    ps.foldl (seat l k core) s = { s with cores := (ps.foldl (seat l k core) s).cores } := by
  induction ps generalizing s with
  | nil => rfl
  | cons p r ih => rw [List.foldl_cons, ih, seat_eq]

theorem flockAt_foldl_seat_other (l : Launch) (k core : Nat) (ps : List (Place × Nat)) (s : State) {c n : Nat}
    (h : c ≠ core ∨ ∀ p ∈ ps, p.1.slot ≠ n) : flockAt (ps.foldl (seat l k core) s) c n = flockAt s c n := by
  induction ps generalizing s with
  | nil => rfl
  | cons p r ih =>
    rw [List.foldl_cons, ih _ (h.imp_right fun h q hq => h q (List.mem_cons_of_mem _ hq)), flockAt_seat, if_neg]
    rintro ⟨hc, hn⟩
    exact h.elim (fun h => h hc) fun h => h p List.mem_cons_self hn.symm

/-- Each flock stands in its own place, where no two places share a slot. -/
theorem flockAt_foldl_seat (l : Launch) (k core : Nat) (ps : List (Place × Nat)) (s : State)
    (hnd : (ps.map fun p => p.1.slot).Nodup) {p : Place × Nat} (hp : p ∈ ps) :
    flockAt (ps.foldl (seat l k core) s) core p.1.slot = startFlock s l k core p.2 p.1 := by
  induction ps generalizing s with
  | nil => exact absurd hp (by simp)
  | cons q r ih =>
    rw [List.map_cons, List.nodup_cons] at hnd
    rw [List.foldl_cons]
    cases List.mem_cons.mp hp with
    | inl h =>
      subst h
      rw [flockAt_foldl_seat_other, flockAt_seat, if_pos ⟨rfl, rfl⟩]
      exact .inr fun x hx he => hnd.1 (List.mem_map.mpr ⟨x, hx, he⟩)
    | inr h => rw [ih _ hnd.2 h, startFlock_seat]

/-- Places that are free one after another share no slot, with each other or with those taken. -/
theorem nodup_of_placesFree {n : Nat} {ps : List Place} {taken : List (Place × Nat)} (h : placesFree n ps taken = true) :
    (ps.map (·.slot)).Nodup ∧ ∀ p ∈ ps, ∀ x ∈ taken, x.1.slot ≠ p.slot := by
  induction ps generalizing taken with
  | nil => simp
  | cons p r ih =>
    rw [placesFree, Bool.and_eq_true] at h
    obtain ⟨hp, hr⟩ := h
    obtain ⟨hnd, hother⟩ := ih hr
    have hfree : ∀ x ∈ taken, x.1.slot ≠ p.slot := fun x hx => by
      simp only [placeFree, Bool.and_eq_true, List.all_eq_true] at hp
      simpa using (hp.2 x hx).1
    refine ⟨List.nodup_cons.mpr ⟨fun hm => ?_, hnd⟩, fun q hq x hx => ?_⟩
    · obtain ⟨q, hq, he⟩ := List.mem_map.mp hm
      exact hother q hq (p, n) List.mem_cons_self he.symm
    · cases List.mem_cons.mp hq with
      | inl h => subst h; exact hfree x hx
      | inr h => exact hother q h x (List.mem_cons_of_mem _ hx)

/-- A flock that starts: the launch's arguments, every other register 0, all threads at the entry. -/
theorem startFlock_starts (s : State) (l : Launch) (k core index : Nat) (p : Place) : let f := startFlock s l k core index p
    f.launch = l.num ∧ f.wg = k ∧ f.index = index ∧ f.budget = l.b ∧ f.octet = p.octet ∧ f.block = p.block ∧
    (∀ n < 16, getS f n = l.args.getD n 0) ∧ (∀ n, 16 ≤ n → getS f n = 0) ∧ (∀ th n, getV f th n = 0) ∧ (∀ n, n ≠ 7 → getP f n = 0) ∧
    f.status = (if isNarrow l then 0x8000 else 0) ∧ f.exited = 0 ∧ f.path1 = none ∧ f.stack = [] ∧
    ∃ off, f.path0 = some (pathAt off (BitVec.allOnes 32)) ∧ ∀ e, entryOf s l = some e → off = e.off := by
  have hs (n : Nat) : getS (startFlock s l k core index p) n = if n < 16 then l.args.getD n 0 else 0 :=
    get_foldl_range_set 0 (fun n => l.args.getD n 0) 16 n
  refine ⟨rfl, rfl, rfl, rfl, rfl, rfl, fun n hn => by rw [hs, if_pos hn], fun n hn => by rw [hs, if_neg (by omega)], fun _ _ => rfl,
    fun n hn => ?_, rfl, rfl, rfl, rfl, ((entryOf s l).map fun (e : Entry) => e.off).getD 0, rfl, fun e he => by rw [he]; rfl⟩
  rw [getP, if_neg hn]
  rfl

/-! ### Admission (R247) -/

/-- A launch once its workgroup k is admitted to a core. -/
def nextAdmission (s : State) (k core : Nat) (x : Launch) : Launch :=
  { x with narrow := some (x.narrow.getD s.mgmt.narrow), next := k + 1, lastCore := some core }

/-- The admitted workgroup. -/
def newWg (s : State) (l : Launch) (core : Nat) (place : List Place) : Wg :=
  { noWg with launch := l.num, index := l.next, core := core, phase := .resident, slots := place.map (·.slot), wn := l.wn, since := s.time }

/-- The state in which an admitted workgroup's flocks take their places. -/
def listed (s : State) (l : Launch) (core : Nat) (place : List Place) : State :=
  let t := updLaunch l.num (nextAdmission s l.next core) s
  beginWait l.num { t with wgs := t.wgs ++ [newWg s l core place] }

/-- An admission in its three parts: the launch and the list of workgroups, the flocks, what waits for the core. -/
theorem exec_workgroupAdmission {s : State} {n : Nat} {l : Launch} {core : Nat} {place : List Place}
    (hfind : s.launches.find? (fun x => x.num == n) = some l) (hcore : nextCore s l = some core) (hlen : place.length = l.f)
    (hfree : placesFree (blocksOf l.b) place (takenPlaces s core) = true) :
    exec (.workgroupAdmission n core place) s =
      .next (pokeCore core (place.zipIdx.foldl (seat (nextAdmission s l.next core l) l.next core) (listed s l core place))) := by
  have hnum := find_launch_num hfind
  subst hnum
  have hl : launchOf (updLaunch l.num (fun x : Launch =>
      { x with narrow := some (x.narrow.getD s.mgmt.narrow), next := l.next + 1, lastCore := some core }) s) l.num =
      nextAdmission s l.next core l :=
    launchOf_updLaunch (f := nextAdmission s l.next core) (fun _ => rfl) hfind
  have hgo : ¬ (l.num ≠ l.num ∨ nextCore s l ≠ some core ∨ place.length ≠ l.f ∨
      (!placesFree (blocksOf l.b) place (takenPlaces s core)) = true) := by
    simp [hcore, hlen, hfree]
  show execWorkgroupAdmission l.num core place s = _
  unfold execWorkgroupAdmission
  simp only [launchOf_of_find hfind, if_neg hgo, hl]
  rfl

theorem launchOf_listed {s : State} {n : Nat} {l : Launch} (core : Nat) (place : List Place)
    (hfind : s.launches.find? (fun x => x.num == n) = some l) :
    launchOf (listed s l core place) n = { nextAdmission s l.next core l with waits := s.fresh } := by
  have hnum := find_launch_num hfind
  subst hnum
  exact launchOf_updLaunch (s := { updLaunch l.num (nextAdmission s l.next core) s with wgs := s.wgs ++ [newWg s l core place] })
    (f := fun x => { x with waits := s.fresh }) (fun _ => rfl) (find_updLaunch (f := nextAdmission s l.next core) (fun _ => rfl) hfind)

/-- R61, R247, R248: what an admission makes of the device. -/
theorem workgroupAdmission_admits {s : State} {launch core : Nat} {place : List Place} (hcore : nextCore s (launchOf s launch) = some core)
    (hlen : place.length = (launchOf s launch).f) (hfree : placesFree (blocksOf (launchOf s launch).b) place (takenPlaces s core) = true) :
    let l := launchOf s launch
    ∃ t, exec (.workgroupAdmission launch core place) s = .next t ∧ t.wgs = s.wgs ++ [newWg s l core place] ∧
      launchOf t launch = { nextAdmission s l.next core l with waits := s.fresh } ∧
      (∀ k p, place[k]? = some p → flockAt t core p.slot = startFlock (listed s l core place) (nextAdmission s l.next core l) l.next core k p) ∧
      (∀ c n, (c ≠ core ∨ ∀ p ∈ place, p.slot ≠ n) → flockAt t c n = flockAt s c n) ∧ t.mem = s.mem := by
  intro l
  have hfind : s.launches.find? (fun x => x.num == launch) = some l := find_launch_of_hasNext (hasNext_of_nextCore hcore)
  have hslots : place.zipIdx.map (fun p => p.1.slot) = place.map (·.slot) := by
    show place.zipIdx.map (Place.slot ∘ Prod.fst) = _
    rw [← List.map_map, List.zipIdx_map_fst]
  refine ⟨_, exec_workgroupAdmission hfind hcore hlen hfree, ?_, ?_, fun k p hp => ?_, fun c n hc => ?_, ?_⟩
  · rw [pokeCore_eq, foldl_seat_eq]
    rfl
  · rw [← launchOf_listed core place hfind, pokeCore_eq, foldl_seat_eq]
    rfl
  · rw [flockAt_pokeCore]
    exact flockAt_foldl_seat _ _ _ _ _ (hslots ▸ (nodup_of_placesFree hfree).1) (p := (p, k)) (List.mem_zipIdx_iff_getElem?.mpr hp)
  · rw [flockAt_pokeCore]
    exact flockAt_foldl_seat_other _ _ _ _ _ (hc.imp_right fun h p hp => h p.1 (List.fst_mem_of_mem_zipIdx hp))
  · rw [pokeCore_eq, foldl_seat_eq]
    rfl

end Sys2Proof.Proofs
end

section
/-! SUPPORT. What leaves launches and workgroups as they are, and what becomes of them where a launch stops or ends (R251, R252, R359). -/

namespace Sys2Proof.Proofs

open Machine Laws

/-! ### What leaves launches and workgroups as they are -/

/-- Two states have the same launches and the same workgroups. -/
def SameWork (s t : State) : Prop := t.launches = s.launches ∧ t.wgs = s.wgs

theorem SameWork.refl (s : State) : SameWork s s := ⟨rfl, rfl⟩

theorem SameWork.trans {s t u : State} (h : SameWork s t) (k : SameWork t u) : SameWork s u := ⟨k.1.trans h.1, k.2.trans h.2⟩

theorem SameWork.launchOf {s t : State} (h : SameWork s t) (n : Nat) : Machine.launchOf t n = Machine.launchOf s n := by
  rw [Machine.launchOf, h.1]
  rfl

theorem SameWork.findWg {s t : State} (h : SameWork s t) (l k : Nat) : Machine.findWg t l k = Machine.findWg s l k := by
  rw [Machine.findWg, h.2]
  rfl

theorem SameWork.wgOf {s t : State} (h : SameWork s t) (l k : Nat) : Machine.wgOf t l k = Machine.wgOf s l k := by
  rw [Machine.wgOf, h.findWg]
  rfl

theorem sameWork_foldl {α : Type} (f : State → α → State) (h : ∀ s a, SameWork s (f s a)) (l : List α) (s : State) :
    SameWork s (l.foldl f s) := by
  induction l generalizing s with
  | nil => exact .refl s
  | cons a r ih => exact (h s a).trans (ih (f s a))

theorem sameWork_ite (c : Prop) [Decidable c] {s a b : State} (ha : SameWork s a) (hb : SameWork s b) : SameWork s (if c then a else b) := by
  split
  · exact ha
  · exact hb

theorem sameWork_due (i : Instr) (s : State) : SameWork s (due i s) := ⟨due_launches i s, due_wgs i s⟩

theorem sameWork_setCore (c : Nat) (k : Core) (s : State) : SameWork s (setCore c k s) := ⟨rfl, rfl⟩

theorem sameWork_setFlock (c f : Nat) (x : Flock) (s : State) : SameWork s (setFlock c f x s) := ⟨rfl, rfl⟩

theorem sameWork_setTile (c t : Nat) (x : Tile) (s : State) : SameWork s (setTile c t x s) := ⟨rfl, rfl⟩

theorem sameWork_of_memorySide {s t : State} (h : MemorySide s t) : SameWork s t := by
  obtain ⟨⟨k, hd, po, du, e⟩, -, -⟩ := h
  rw [e]
  exact ⟨rfl, rfl⟩

theorem sameWork_deviceWrite (dom : Nat) (priv : Bool) (va : Nat) (d : List Byte) (s : State) : SameWork s (deviceWrite dom priv va d s).1 :=
  sameWork_of_memorySide (memorySide_deviceWrite dom priv va d s)

theorem sameWork_pokeCore (c : Nat) (s : State) : SameWork s (pokeCore c s) := sameWork_foldl _ (fun s _ => sameWork_due _ s) _ s

theorem sameWork_padPoke (id : Nat) (s : State) : SameWork s (padPoke id s) := by
  have hdues (g : Nat → Instr) (bs : List Nat) (t : State) : SameWork t (bs.foldl (fun s b => due (g b) s) t) :=
    sameWork_foldl _ (fun s b => sameWork_due (g b) s) bs t
  unfold padPoke
  split
  · exact .refl s
  · split
    · exact .refl s
    · exact (hdues _ _ s).trans ((hdues _ _ _).trans (sameWork_due _ _))

theorem sameWork_updResize (id : Nat) (f : Resize → Resize) (s : State) : SameWork s (updResize id f s) := by
  unfold updResize updPad
  split
  · exact ⟨rfl, rfl⟩
  · exact .refl s

theorem sameWork_windowLeft (core l k : Nat) (s : State) : SameWork s (windowLeft core l k s) :=
  sameWork_foldl _ (fun s id => (sameWork_updResize id _ s).trans (sameWork_padPoke id _)) _ s

/-! ### Leaving a core -/

theorem sameWork_letTileGo (c : Nat) (slots : List Nat) (s : State) (t : Nat) : SameWork s (letTileGo c slots s t) :=
  sameWork_ite _ (sameWork_setTile _ _ _ s) (.refl s)

theorem sameWork_dropLatches (c : Nat) (s : State) : SameWork s (dropLatches c s) := ⟨rfl, rfl⟩

theorem sameWork_vacate (w : Wg) (s : State) : SameWork s (vacate w s) := by
  have htiles := sameWork_foldl _ (sameWork_letTileGo w.core w.slots) (List.range 4) s
  have hflocks (t : State) := sameWork_foldl (fun s f => setFlock w.core f emptyFlock s) (fun s f => sameWork_setFlock w.core f _ s) w.slots t
  unfold vacate
  extract_lets fab t u k k' v
  have hv : SameWork s v := htiles.trans (hflocks t)
  refine hv.trans (.trans ?_ (sameWork_pokeCore _ _))
  exact sameWork_ite _ (sameWork_dropLatches _ _) (.refl _)

/-! ### Signals and the end of a launch -/

theorem sameWork_queueError (q code : Nat) (s : State) : SameWork s (queueError q code s) := by
  unfold queueError
  split
  · exact .refl s
  · rename_i x _
    have h := sameWork_deviceWrite 0 true (s.mgmt.qTable + 64 * q + 32) (leBytes 1 code ++ leBytes 7 x.rd) s
    split
    rename_i e
    rw [e] at h
    exact ⟨h.1, h.2⟩

theorem sameWork_signalDone (q dom va status cause index done : Nat) (s : State) :
    SameWork s (signalDone q dom va status cause index done s) := by
  unfold signalDone
  extract_lets body
  split
  · exact .refl s
  · have hw := sameWork_deviceWrite dom true (va + 8) body s
    split <;> rename_i e <;> rw [e] at hw
    · exact hw.trans (sameWork_queueError q 3 _)
    · rename_i u
      have hr := hw.trans (sameWork_of_memorySide (memorySide_deviceReadNat dom true va 8 u))
      split <;> rename_i e <;> rw [e] at hr
      · exact hr.trans (sameWork_queueError q 3 _)
      · rename_i v x
        have hz := hr.trans (sameWork_deviceWrite dom true va (leBytes 8 ((x + 2 ^ 64 - 1) % 2 ^ 64)) v)
        split <;> rename_i e <;> rw [e] at hz
        · exact hz.trans (sameWork_queueError q 3 _)
        · exact hz

theorem sameWork_packetDone (q seq : Nat) (s : State) : SameWork s (packetDone q seq s) := by
  unfold packetDone
  split
  · exact .refl s
  · exact sameWork_due _ _

theorem sameWork_unsealAll (gs : List Nat) (s : State) : SameWork s (unsealAll gs s) := by
  unfold unsealAll
  refine sameWork_foldl _ (fun s g => ?_) gs s
  exact ⟨rfl, rfl⟩

theorem sameWork_unloadIdle (o : Nat) (s : State) : SameWork s (unloadIdle o s) := by
  unfold unloadIdle
  exact sameWork_ite _ ⟨(sameWork_unsealAll _ _).1, (sameWork_unsealAll _ _).2⟩ (.refl s)

theorem sameWork_dropPartials (l : Nat) (s : State) : SameWork s (dropPartials l s) := by
  unfold dropPartials
  refine sameWork_foldl _ (fun s k => ?_) _ s
  exact ⟨rfl, rfl⟩

theorem sameWork_pokeTeardown (s : State) : SameWork s (pokeTeardown s) := by
  refine sameWork_foldl _ (fun s p => ?_) _ s
  split
  · exact sameWork_ite _ (sameWork_due _ s) (.refl s)
  · exact .refl s

/-! ### The end of a launch (R251, R252) -/

/-- A workgroup when its launch ends. -/
def endWg (l : Nat) (w : Wg) : Wg := if w.launch = l then { w with phase := if w.phase = .done then .done else .stopped } else w

/-- A launch and its workgroups marked as ended. -/
def markEnded (l : Nat) (s : State) : State :=
  { updLaunch l (fun x => { x with ended := true }) s with wgs := s.wgs.map (endWg l) }

/-- The end of a launch marks it and its workgroups, unless it has ended; of launches and workgroups nothing else changes. -/
theorem endLaunch_cases (l status : Nat) (trapped : Bool) (cause index : Nat) (s : State) :
    (endLaunch l status trapped cause index s = s ∧ ((launchOf s l).num ≠ l ∨ (launchOf s l).ended = true)) ∨
    SameWork (markEnded l s) (endLaunch l status trapped cause index s) := by
  unfold endLaunch
  extract_lets x s1 s2 st s3 s4 s5
  split
  · rename_i h
    exact .inl ⟨rfl, h⟩
  · have h3 : SameWork (markEnded l s) s3 := sameWork_signalDone x.queue x.dom x.signal st cause index x.completed.length s2
    have h4 : SameWork s3 s4 :=
      ⟨(sameWork_dropPartials l { s3 with mcasts := s3.mcasts.filter fun m => m.launch != l }).1,
       (sameWork_dropPartials l { s3 with mcasts := s3.mcasts.filter fun m => m.launch != l }).2⟩
    have h5 : SameWork s4 s5 := ⟨rfl, rfl⟩
    exact .inr ((h3.trans (h4.trans h5)).trans ((sameWork_unloadIdle _ _).trans ((sameWork_packetDone _ _ _).trans (sameWork_pokeTeardown _))))

theorem launchOf_markEnded {s : State} {n : Nat} {l : Launch} (h : s.launches.find? (fun x => x.num == n) = some l) :
    launchOf (markEnded n s) n = { l with ended := true } :=
  launchOf_updLaunch (f := fun x : Launch => { x with ended := true }) (fun _ => rfl) h

/-- A launch after its end. -/
theorem launchOf_endLaunch {s : State} {n : Nat} {l : Launch} (h : s.launches.find? (fun x => x.num == n) = some l)
    (status : Nat) (trapped : Bool) (cause index : Nat) : launchOf (endLaunch n status trapped cause index s) n = { l with ended := true } := by
  rcases endLaunch_cases n status trapped cause index s with ⟨hsame, hnot⟩ | hmark
  · rw [launchOf_of_find h] at hnot
    have hended := hnot.resolve_left fun hn => hn (find_launch_num h)
    rw [hsame, launchOf_of_find h, ← hended]
  · rw [hmark.launchOf, launchOf_markEnded h]

/-! ### What becomes of a workgroup that has left its core -/

/-- A workgroup keeps its slots and what is kept of its held instructions, does not come back to its core, and stays done. -/
structure WgFollows (w w' : Wg) : Prop where
  slots : w'.slots = w.slots
  keptHeld : w'.keptHeld = w.keptHeld
  away : onCore w = false → onCore w' = false
  done : w.phase = .done → w'.phase = .done

theorem WgFollows.refl (w : Wg) : WgFollows w w := ⟨rfl, rfl, id, id⟩

theorem WgFollows.trans {a b c : Wg} (h : WgFollows a b) (k : WgFollows b c) : WgFollows a c :=
  ⟨k.slots.trans h.slots, k.keptHeld.trans h.keptHeld, k.away ∘ h.away, k.done ∘ h.done⟩

/-- A workgroup on its core stands there or stops; whatever phase it takes, it was not away, and not done. -/
theorem wgFollows_of_onCore {w w' : Wg} (hon : onCore w = true) (hs : w'.slots = w.slots) (hk : w'.keptHeld = w.keptHeld) : WgFollows w w' :=
  ⟨hs, hk, fun h => absurd (hon.symm.trans h) (by decide), fun h => by rw [onCore, h] at hon; exact absurd hon (by decide)⟩

/-- Every workgroup of the first state is in the second what it may become. -/
def WgsFollow (s t : State) : Prop := ∀ l k w, findWg s l k = some w → ∃ w', findWg t l k = some w' ∧ WgFollows w w'

theorem WgsFollow.refl (s : State) : WgsFollow s s := fun _ _ w h => ⟨w, h, .refl w⟩

theorem WgsFollow.trans {s t u : State} (h : WgsFollow s t) (g : WgsFollow t u) : WgsFollow s u := fun l k w hw => by
  obtain ⟨w', hw', hf⟩ := h l k w hw
  obtain ⟨w'', hw'', hg⟩ := g l k w' hw'
  exact ⟨w'', hw'', hf.trans hg⟩

theorem SameWork.follow {s t : State} (h : SameWork s t) : WgsFollow s t := fun l k w hw => ⟨w, (h.findWg l k).trans hw, .refl w⟩

theorem wgsFollow_foldl {α : Type} (f : State → α → State) (h : ∀ s a, WgsFollow s (f s a)) (l : List α) (s : State) :
    WgsFollow s (l.foldl f s) := by
  induction l generalizing s with
  | nil => exact .refl s
  | cons a r ih => exact (h s a).trans (ih (f s a))

/-- A change of a workgroup that keeps its number, where the workgroup is listed. -/
theorem findWg_updWg {f : Wg → Wg} (hf : ∀ w, (f w).launch = w.launch ∧ (f w).index = w.index) (l k : Nat) (s : State) :
    findWg (updWg l k f s) l k = (findWg s l k).map f :=
  find_updFirst (isWg l k) f (fun w hw => by rw [isWg, (hf w).1, (hf w).2]; exact hw) s.wgs

/-- Another workgroup is not changed. -/
theorem findWg_updWg_ne {f : Wg → Wg} (hf : ∀ w, (f w).launch = w.launch ∧ (f w).index = w.index) {l k l' k' : Nat}
    (hne : ¬ (l' = l ∧ k' = k)) (s : State) : findWg (updWg l k f s) l' k' = findWg s l' k' := by
  have hnot (w : Wg) (hw : isWg l k w = true) : isWg l' k' w = false := by
    simp only [isWg, Bool.and_eq_true, beq_iff_eq] at hw
    simp only [isWg, hw.1, hw.2, Bool.and_eq_false_iff, beq_eq_false_iff_ne]
    tauto
  refine find_updFirst_ne (isWg l k) (isWg l' k') f (fun w hw => ⟨hnot w hw, ?_⟩) s.wgs
  rw [isWg, (hf w).1, (hf w).2]
  exact hnot w hw

theorem wgsFollow_updWg {f : Wg → Wg} {l k : Nat} {s : State} (hf : ∀ w, (f w).launch = w.launch ∧ (f w).index = w.index)
    (h : ∀ w, findWg s l k = some w → WgFollows w (f w)) : WgsFollow s (updWg l k f s) := fun l' k' w hw => by
  by_cases he : l' = l ∧ k' = k
  · obtain ⟨rfl, rfl⟩ := he
    exact ⟨f w, by rw [findWg_updWg hf, hw, Option.map_some], h w hw⟩
  · exact ⟨w, (findWg_updWg_ne hf he s).trans hw, .refl w⟩

/-! ### Stopping (R252, R359) -/

theorem wgFollows_endWg (l : Nat) (w : Wg) : WgFollows w (endWg l w) := by
  unfold endWg
  split
  · refine ⟨rfl, rfl, fun _ => ?_, fun h => by simp [h]⟩
    by_cases hd : w.phase = .done <;> simp [onCore, hd]
  · exact .refl w

theorem wgsFollow_markEnded (l : Nat) (s : State) : WgsFollow s (markEnded l s) := fun l' k w hw => by
  refine ⟨endWg l w, ?_, wgFollows_endWg l w⟩
  have hsame : isWg l' k ∘ endWg l = isWg l' k := funext fun x => by
    simp only [Function.comp, isWg, endWg]
    split <;> rfl
  show (s.wgs.map (endWg l)).find? (isWg l' k) = _
  rw [List.find?_map, hsame, show s.wgs.find? (isWg l' k) = some w from hw, Option.map_some]

theorem wgsFollow_endLaunch (l status : Nat) (trapped : Bool) (cause index : Nat) (s : State) :
    WgsFollow s (endLaunch l status trapped cause index s) := by
  rcases endLaunch_cases l status trapped cause index s with ⟨hsame, -⟩ | hmark
  · rw [hsame]
    exact .refl s
  · exact (wgsFollow_markEnded l s).trans hmark.follow

theorem wgsFollow_endIfDrained (l : Nat) (s : State) : WgsFollow s (endIfDrained l s) := by
  unfold endIfDrained
  split
  · exact .refl s
  · split
    · exact .refl s
    · exact wgsFollow_endLaunch _ _ _ _ _ s

theorem sameWork_dueSave (l k : Nat) (s : State) : SameWork s (dueSave l k s) := by
  unfold dueSave
  exact sameWork_ite _ ⟨rfl, rfl⟩ (sameWork_due _ s)

theorem wgOf_of_find {s : State} {l k : Nat} {w : Wg} (h : findWg s l k = some w) : wgOf s l k = w := by rw [wgOf, h, Option.getD_some]

/-- A stop changes a workgroup on its core alone. -/
theorem wgsFollow_stopWg (cause l k : Nat) (s : State) : WgsFollow s (stopWg cause l k s) := by
  have hstop (f : Wg → Wg) (hf : ∀ w, (f w).launch = w.launch ∧ (f w).index = w.index)
      (hs : ∀ w, (f w).slots = w.slots) (hk : ∀ w, (f w).keptHeld = w.keptHeld) (hon : onCore (wgOf s l k) = true) :
      WgsFollow s (updWg l k f s) :=
    wgsFollow_updWg hf fun w hw => wgFollows_of_onCore (wgOf_of_find hw ▸ hon) (hs w) (hk w)
  unfold stopWg
  extract_lets w
  split
  · rename_i hp
    refine .trans ?_ (sameWork_dueSave l k _).follow
    exact hstop _ (fun _ => ⟨rfl, rfl⟩) (fun _ => rfl) (fun _ => rfl) (by rw [onCore, hp])
  · rename_i c hp
    have hon : onCore (wgOf s l k) = true := by rw [onCore, hp]
    split
    · exact hstop _ (fun _ => ⟨rfl, rfl⟩) (fun _ => rfl) (fun _ => rfl) hon
    · split
      · exact hstop _ (fun _ => ⟨rfl, rfl⟩) (fun _ => rfl) (fun _ => rfl) hon
      · exact .refl s
  · exact .refl s

theorem wgsFollow_updLaunch (l : Nat) (f : Launch → Launch) (s : State) : WgsFollow s (updLaunch l f s) := fun _ _ w hw => ⟨w, hw, .refl w⟩

theorem wgsFollow_stopLaunch (l : Nat) (st : Stop) (s : State) : WgsFollow s (stopLaunch l st s) := by
  unfold stopLaunch
  exact (wgsFollow_updLaunch l _ s).trans (wgsFollow_foldl _ (fun s (w : Wg) => wgsFollow_stopWg 4 l w.index s) _ _)

theorem wgsFollow_misfit (l core : Nat) (s : State) : WgsFollow s (misfit l core s) := by
  unfold misfit
  split
  · exact .refl s
  · exact (wgsFollow_stopLaunch l _ s).trans (wgsFollow_endIfDrained l _)

end Sys2Proof.Proofs
end

section
/-! SUPPORT. Completions, saves and restores of workgroups (R251, R275, R290, R361, R362, R367). -/

namespace Sys2Proof.Proofs

open Machine Laws

/-! ### Completion (R251, R275) -/

/-- An end of a drained launch leaves it as it was, or marks it ended. -/
theorem launchOf_endIfDrained {s : State} {n : Nat} {l : Launch} (h : s.launches.find? (fun x => x.num == n) = some l) :
    launchOf (endIfDrained n s) n = l ∨ launchOf (endIfDrained n s) n = { l with ended := true } := by
  unfold endIfDrained
  split
  · exact .inl (launchOf_of_find h)
  · split
    · exact .inl (launchOf_of_find h)
    · exact .inr (launchOf_endLaunch h _ _ _ _)

theorem endIfDrained_of_running {s : State} {n : Nat} (h : (launchOf s n).stop = none) : endIfDrained n s = s := by
  unfold endIfDrained
  rw [h]

/-- The end of a completion: a launch whose workgroups are all reported ends. -/
def closeLaunch (n : Nat) (s : State) : State :=
  if (launchOf s n).n ≤ (launchOf s n).reported ∧ (launchOf s n).stop.isNone then endLaunch n 0 false 0 0 s else endIfDrained n s

theorem wgsFollow_closeLaunch (n : Nat) (s : State) : WgsFollow s (closeLaunch n s) := by
  unfold closeLaunch
  split
  · exact wgsFollow_endLaunch _ _ _ _ _ s
  · exact wgsFollow_endIfDrained n s

theorem launchOf_closeLaunch {s : State} {n : Nat} {l : Launch} (h : s.launches.find? (fun x => x.num == n) = some l) :
    (launchOf (closeLaunch n s) n).completed = l.completed ∧
    (l.stop = none → l.n ≤ (launchOf (closeLaunch n s) n).reported → (launchOf (closeLaunch n s) n).ended = true) := by
  unfold closeLaunch
  split
  · rw [launchOf_endLaunch h]
    exact ⟨rfl, fun _ _ => rfl⟩
  · rename_i hgo
    rw [launchOf_of_find h] at hgo
    refine ⟨by rcases launchOf_endIfDrained h with e | e <;> rw [e], fun hstop hn => ?_⟩
    rw [endIfDrained_of_running (launchOf_of_find h ▸ hstop), launchOf_of_find h] at hn
    exact absurd ⟨hn, by rw [hstop]; rfl⟩ hgo

/-- A launch whose workgroup k completes. -/
def complete (k : Nat) (l : Launch) : Launch :=
  { l with completed := l.completed ++ [k], reported := reportTo (l.completed ++ [k]).length (l.completed ++ [k]) l.reported }

/-- A workgroup that is done. -/
def finish (w : Wg) : Wg := { w with phase := .done, gone := [], window := [], cb := [], blocked := 0 }

theorem exec_workgroupCompletion {s : State} {launch wg : Nat} (hp : (wgOf s launch wg).phase = .resident) (hs : (wgOf s launch wg).slots = [])
    (hh : handlesSettled s (wgOf s launch wg) = true) :
    ∃ u : State, exec (.workgroupCompletion launch wg) s = .next (closeLaunch launch
        (if !hasNext (launchOf u launch) && hasNext (launchOf (updLaunch launch (complete wg) u) launch)
          then beginWait launch (updLaunch launch (complete wg) u) else updLaunch launch (complete wg) u)) ∧
      SameWork (updWg launch wg finish s) u := by
  have hgo : ¬ ((wgOf s launch wg).phase ≠ .resident ∨ (wgOf s launch wg).slots ≠ [] ∨ (!handlesSettled s (wgOf s launch wg)) = true) := by
    simp [hp, hs, hh]
  refine ⟨windowLeft (wgOf s launch wg).core launch wg (updWg launch wg finish (vacate (wgOf s launch wg) s)), ?_, ?_⟩
  · show execWorkgroupCompletion launch wg s = _
    unfold execWorkgroupCompletion
    simp only [if_neg hgo]
    rfl
  · have hv := sameWork_vacate (wgOf s launch wg) s
    have hu : SameWork (updWg launch wg finish s) (updWg launch wg finish (vacate (wgOf s launch wg) s)) :=
      ⟨hv.1, congrArg (updFirst (isWg launch wg) finish) hv.2⟩
    exact hu.trans (sameWork_windowLeft _ _ _ _)

/-- R251, R275: what a completion makes of the workgroup and of its launch. -/
theorem workgroupCompletion_completes {s : State} {launch wg : Nat} {l : Launch} (hl : s.launches.find? (fun x => x.num == launch) = some l)
    (hp : (wgOf s launch wg).phase = .resident) (hs : (wgOf s launch wg).slots = []) (hh : handlesSettled s (wgOf s launch wg) = true) :
    ∃ t, exec (.workgroupCompletion launch wg) s = .next t ∧ (wgOf t launch wg).phase = .done ∧
      (launchOf t launch).completed = l.completed ++ [wg] ∧
      (l.stop = none → l.n ≤ (launchOf t launch).reported → (launchOf t launch).ended = true) := by
  obtain ⟨u, hu, hsame⟩ := exec_workgroupCompletion hp hs hh
  have hfind : u.launches.find? (fun x => x.num == launch) = some l := by rw [hsame.1]; exact hl
  have hupd := find_updLaunch (f := complete wg) (fun _ => rfl) hfind
  obtain ⟨w, hw⟩ : ∃ w, findWg s launch wg = some w := by
    cases hc : findWg s launch wg with
    | none => rw [wgOf_of_none hc] at hp; exact absurd hp (by decide)
    | some w => exact ⟨w, rfl⟩
  have hdone : findWg u launch wg = some (finish w) := by
    rw [hsame.findWg, findWg_updWg (f := finish) (fun _ => ⟨rfl, rfl⟩), hw, Option.map_some]
  have hclose (v : State) (x : Launch) (hx : v.launches.find? (fun x => x.num == launch) = some x) (hv : findWg v launch wg = some (finish w))
      (hc : x.completed = l.completed ++ [wg]) (hst : x.stop = l.stop) (hn : x.n = l.n) :
      (wgOf (closeLaunch launch v) launch wg).phase = .done ∧ (launchOf (closeLaunch launch v) launch).completed = l.completed ++ [wg] ∧
      (l.stop = none → l.n ≤ (launchOf (closeLaunch launch v) launch).reported → (launchOf (closeLaunch launch v) launch).ended = true) := by
    obtain ⟨w', hw', hf⟩ := wgsFollow_closeLaunch launch v launch wg _ hv
    obtain ⟨h1, h2⟩ := launchOf_closeLaunch hx
    rw [hst, hn] at h2
    exact ⟨by rw [wgOf_of_find hw']; exact hf.done rfl, h1.trans hc, h2⟩
  refine ⟨_, hu, ?_⟩
  split
  · exact hclose _ _ (find_updLaunch (f := fun x : Launch => { x with waits := (updLaunch launch (complete wg) u).fresh }) (fun _ => rfl) hupd)
      hdone rfl rfl rfl
  · exact hclose _ _ hupd hdone rfl rfl rfl

/-! ### Saving (R361) -/

/-- Every workgroup that is listed stays so. -/
def WgsLast (s t : State) : Prop := ∀ l k, (findWg s l k).isSome = true → (findWg t l k).isSome = true

theorem WgsLast.trans {s t u : State} (h : WgsLast s t) (g : WgsLast t u) : WgsLast s u := fun l k hw => g l k (h l k hw)

theorem WgsFollow.last {s t : State} (h : WgsFollow s t) : WgsLast s t := fun l k hw => by
  obtain ⟨w, hw⟩ := Option.isSome_iff_exists.mp hw
  obtain ⟨w', hw', -⟩ := h l k w hw
  rw [hw', Option.isSome_some]

theorem SameWork.last {s t : State} (h : SameWork s t) : WgsLast s t := h.follow.last

theorem wgsLast_foldl {α : Type} (f : State → α → State) (h : ∀ s a, WgsLast s (f s a)) (l : List α) (s : State) :
    WgsLast s (l.foldl f s) := by
  induction l generalizing s with
  | nil => exact fun _ _ => id
  | cons a r ih => exact (h s a).trans (ih (f s a))

theorem wgsLast_updWg {f : Wg → Wg} (hf : ∀ w, (f w).launch = w.launch ∧ (f w).index = w.index) (l k : Nat) (s : State) :
    WgsLast s (updWg l k f s) := fun l' k' hw => by
  by_cases he : l' = l ∧ k' = k
  · obtain ⟨rfl, rfl⟩ := he
    rw [findWg_updWg hf, Option.isSome_map]
    exact hw
  · rw [findWg_updWg_ne hf he]
    exact hw

theorem sameWork_releaseTile (c t : Nat) (s : State) : SameWork s (releaseTile c t s) := sameWork_setTile _ _ _ s

theorem sameWork_wakeUnit (core : Nat) (s : State) : SameWork s (wakeUnit core s) := by
  unfold wakeUnit
  refine sameWork_foldl _ (fun s (f : Nat × Flock) => ?_) _ s
  exact sameWork_foldl _ (fun s (p : Pending) => sameWork_due (.longLatencyCompletion core f.1 p.uid) s) _ s

theorem sameWork_leaveFabric (c : Nat) (s : State) : SameWork s (leaveFabric c s) := by
  unfold leaveFabric
  extract_lets k
  split
  · exact .refl s
  · extract_lets x s1 k1 s2
    have h1 : SameWork s s1 := sameWork_setFlock _ _ _ s
    have h2 : SameWork s s2 := h1.trans ((sameWork_setCore c _ s1).trans (sameWork_dropLatches c _))
    exact sameWork_ite _ (h2.trans (sameWork_due _ s2)) h2

theorem wgsLast_retireFlock (core slot : Nat) (s : State) : WgsLast s (retireFlock core slot s) := by
  unfold retireFlock
  extract_lets s1 f
  have h1 : SameWork s s1 := sameWork_foldl _ (fun s t => sameWork_ite _ (sameWork_releaseTile core t s) (.refl s)) _ s
  refine (h1.trans (sameWork_setFlock core slot emptyFlock s1)).last.trans (wgsLast_updWg ?_ _ _ _)
  exact fun _ => ⟨rfl, rfl⟩

theorem wgsLast_retireHalted (c f : Nat) (s : State) : WgsLast s (retireHalted c f s) := by
  unfold retireHalted
  split
  · exact fun _ _ => id
  · split
    · exact wgsLast_retireFlock c f s
    · split
      · exact fun _ _ => id
      · exact (sameWork_leaveFabric c s).last.trans (wgsLast_retireFlock c f _)

theorem wgsLast_haltFlock (c f : Nat) (s : State) : WgsLast s (haltFlock c f s) := by
  unfold haltFlock
  extract_lets mine again s1 s2 s3 x y s4 s5
  have h1 : SameWork s s1 := ⟨rfl, rfl⟩
  have h3 : SameWork s2 s3 := sameWork_foldl _ (fun s (p : Pending) =>
    sameWork_foldl _ (fun s (l : Nat × Nat) => sameWork_of_memorySide (memorySide_settleLine l.1 l.2 s)) _ s) _ s2
  have h5 : SameWork s4 s5 := sameWork_foldl _ (fun s t => sameWork_ite _ (sameWork_releaseTile c t s) (.refl s)) _ s4
  have h4 : SameWork s3 s4 := sameWork_setFlock c f { y with latch := none, arrived := [] } s3
  have h : SameWork s s5 := h1.trans ((sameWork_wakeUnit c s1).trans (h3.trans (h4.trans h5)))
  split
  · exact h.last
  · exact h.last.trans (wgsLast_retireHalted c f s5)

theorem sameWork_putPieces (l : Launch) (k : Nat) (ps : List (Nat × List Byte)) (s : State) : SameWork s (putPieces l k ps s).1 := by
  induction ps generalizing s with
  | nil => exact .refl s
  | cons p r ih =>
    have h := sameWork_deviceWrite l.dom true (frameVa l k + p.1) p.2 s
    rw [putPieces]
    split <;> rename_i e <;> rw [e] at h
    · exact h
    · exact h.trans (ih _)

theorem wgsLast_saveLost (l k : Nat) (s : State) : WgsLast s (saveLost l k s) :=
  ((wgsFollow_updLaunch l _ s).trans (wgsFollow_stopLaunch l _ _)).last

/-! ### What follows a save (R252, R256, R257, R379) -/

theorem sameWork_writeFault (e : FaultEntry) (s : State) : SameWork s (writeFault e s) := by
  unfold writeFault
  extract_lets d
  have h := sameWork_deviceWrite 0 true (s.mgmt.faultRing * 4096 + 32 * (s.mgmt.faultHead % 4096)) d s
  split
  rename_i e
  rw [e] at h
  exact ⟨h.1, h.2⟩

theorem sameWork_newFault (dom va kind level : Nat) (who : FaultFor) (rcd : Option TrapRec) (s : State) :
    SameWork s (newFault dom va kind level who rcd s) := by
  unfold newFault
  extract_lets e waits m t
  have ht : SameWork s t := ⟨rfl, rfl⟩
  exact sameWork_ite _ ht (ht.trans (sameWork_writeFault e t))

theorem wgsFollow_reportMisses (dom l k : Nat) (ms : List Miss) (seen : List Nat) (s : State) :
    WgsFollow s (reportMisses dom l k ms seen s) := by
  induction ms generalizing seen s with
  | nil => exact .refl s
  | cons m r ih =>
    rw [reportMisses]
    split
    · exact ih seen s
    · refine WgsFollow.trans (.trans ?_ (sameWork_newFault _ _ _ _ _ _ _).follow) (ih _ _)
      exact wgsFollow_updWg (fun _ => ⟨rfl, rfl⟩) fun w _ => ⟨rfl, rfl, id, id⟩

/-- A workgroup that has left its core: it has no slots, and what waits of its held instructions is kept. -/
structure LeftCore (t : State) (l k : Nat) (slots : List Nat) (held : List Held) : Prop where
  slots : (wgOf t l k).slots = slots
  keptHeld : (wgOf t l k).keptHeld = held
  away : onCore (wgOf t l k) = false

/-- A workgroup that takes a phase off its core stays off it. -/
theorem leftCore_of_put {s t : State} {l k : Nat} {w : Wg} {p : Phase} (hw : findWg s l k = some w)
    (hp : ∀ w : Wg, w.phase = p → onCore w = false) (hf : WgsFollow (updWg l k (fun w => { w with phase := p }) s) t) : LeftCore t l k w.slots w.keptHeld := by
  have hput : findWg (updWg l k (fun w : Wg => { w with phase := p }) s) l k = some { w with phase := p } := by
    rw [findWg_updWg (f := fun w : Wg => { w with phase := p }) (fun _ => ⟨rfl, rfl⟩), hw, Option.map_some]
  obtain ⟨w', hw', hf'⟩ := hf l k _ hput
  exact ⟨(wgOf_of_find hw').symm ▸ hf'.slots, (wgOf_of_find hw').symm ▸ hf'.keptHeld, (wgOf_of_find hw').symm ▸ hf'.away (hp _ rfl)⟩

theorem leftCore_afterSave {s : State} {l k : Nat} {w : Wg} (cause : Nat) (hw : findWg s l k = some w) :
    LeftCore (afterSave l k cause s) l k w.slots w.keptHeld := by
  unfold afterSave
  extract_lets w0 x put
  split
  · exact leftCore_of_put hw (fun w h => by rw [onCore, h]) (wgsFollow_endIfDrained l _)
  · split
    · refine leftCore_of_put hw (p := .held) (fun w h => by rw [onCore, h]) (.trans ?_ (sameWork_newFault _ _ _ _ _ _ _).follow)
      exact wgsFollow_updWg (fun _ => ⟨rfl, rfl⟩) fun w _ => ⟨rfl, rfl, id, id⟩
    · refine leftCore_of_put hw (p := .saved 2) (fun w h => by rw [onCore, h]) (.trans ?_ (wgsFollow_misfit l _ _))
      refine WgsFollow.trans (t := reportMisses x.dom l k w0.misses [] (put (.saved 2) s)) (wgsFollow_reportMisses _ _ _ _ _ _) ?_
      exact wgsFollow_updWg (fun _ => ⟨rfl, rfl⟩) fun w _ => ⟨rfl, rfl, id, id⟩
    · exact leftCore_of_put hw (fun w h => by rw [onCore, h]) (wgsFollow_misfit l _ _)

/-! ### The whole save (R361) -/

/-- A save lets its workgroup go in a state in which it is still listed: its slots go, and what its flocks held is kept. -/
theorem saveWg_eq {s : State} {l k : Nat} (hs : (findWg s l k).isSome = true) :
    ∃ (u : State) (core cause : Nat) (F : Wg → Wg), saveWg l k s = afterSave l k cause (windowLeft core l k (updWg l k F u)) ∧
      (findWg u l k).isSome = true ∧ ∀ w, (F w).launch = w.launch ∧ (F w).index = w.index ∧ (F w).slots = [] ∧
        (F w).keptHeld = (wgOf s l k).slots.flatMap (heldBy s (wgOf s l k).core) := by
  unfold saveWg
  extract_lets w cause ds ids held exits frees s1 s2 w2
  have h1 : SameWork s s1 := sameWork_foldl _ (fun s t => sameWork_setTile w.core t _ s) _ s
  have h2 : WgsLast s1 s2 := wgsLast_foldl _ (fun s f => wgsLast_haltFlock w.core f s) _ s1
  have h3 := sameWork_putPieces (launchOf s2 l) k (framePieces s2 w2 cause ds) s2
  split
  rename_i s3 written e
  rw [e] at h3
  extract_lets s4 w4 jobs
  have h4 : WgsLast s3 s4 := by
    show WgsLast s3 (if written then s3 else saveLost l k s3)
    split
    · exact fun _ _ => id
    · exact wgsLast_saveLost l k s3
  have h5 := (h1.last.trans (h2.trans (h3.last.trans h4))).trans (sameWork_vacate w4 s4).last
  exact ⟨vacate w4 s4, _, cause, _, rfl, h5 l k hs, fun _ => ⟨rfl, rfl, rfl, rfl⟩⟩

/-- R361 and log entry 13: a saved workgroup has left its core, and what its flocks still held is kept. -/
theorem leftCore_saveWg {s : State} {l k : Nat} (hs : (findWg s l k).isSome = true) :
    LeftCore (saveWg l k s) l k [] ((wgOf s l k).slots.flatMap (heldBy s (wgOf s l k).core)) := by
  obtain ⟨u, core, cause, F, heq, hu, hF⟩ := saveWg_eq hs
  obtain ⟨w, hw⟩ := Option.isSome_iff_exists.mp hu
  have hkeep : ∀ w, (F w).launch = w.launch ∧ (F w).index = w.index := fun w => ⟨(hF w).1, (hF w).2.1⟩
  have hfind : findWg (windowLeft core l k (updWg l k F u)) l k = some (F w) := by
    rw [(sameWork_windowLeft core l k _).findWg, findWg_updWg hkeep, hw, Option.map_some]
  obtain ⟨-, -, hslots, hheld⟩ := hF w
  rw [heq, ← hslots, ← hheld]
  exact leftCore_afterSave cause hfind

/-- Nothing held is performed where no flock of the workgroup holds anything. -/
theorem performAll_idle {s : State} {w : Wg} (h : ∀ x ∈ s.held, x.core ≠ w.core ∨ x.slot ∉ w.slots) : performAll w s = s := by
  have hnone : ∀ f ∈ w.slots, heldBy s w.core f = [] := fun f hf => List.filter_eq_nil_iff.mpr fun x hx => by
    rw [Bool.and_eq_true, beq_iff_eq, beq_iff_eq]
    rintro ⟨hc, rfl⟩
    exact (h x hx).elim (fun h => h hc) fun h => h hf
  unfold performAll
  generalize w.slots = slots at hnone
  induction slots with
  | nil => rfl
  | cons f r ih =>
    rw [List.foldl_cons, hnone f List.mem_cons_self]
    exact ih fun g hg => hnone g (List.mem_cons_of_mem _ hg)

theorem exec_workgroupSave {s : State} {launch wg c : Nat} (hp : (wgOf s launch wg).phase = .stopping c)
    (hc : controls s (wgOf s launch wg) = false) :
    exec (.workgroupSave launch wg) s = .next (saveWhole launch wg s) := by
  show execWorkgroupSave launch wg s = _
  unfold execWorkgroupSave
  extract_lets w
  simp only [show w.phase = .stopping c from hp, show controls s w = false from hc]
  rfl

/-! ### Restores, drains and quanta (R256, R290, R362, R364 to R367) -/

theorem exec_workgroupRestore {s u : State} {launch wg : Nat} {place : List Place} {h : List Byte}
    (hb : beginRestore (launchOf s launch) (wgOf s launch wg) place s = (u, some h)) (hsp : (wgOf s launch wg).spatial = false) :
    exec (.workgroupRestore launch wg place) s = .next (restoreWg (launchOf s launch) (wgOf s launch wg) h place none u) := by
  show execWorkgroupRestore launch wg place s = _
  simp only [execWorkgroupRestore, hsp, hb]
  rfl

/-- A spatial restore whose fabric's part and image are read. The proof names getPiece anew, so that no check evaluates its 61,440 bytes. -/
theorem exec_spatialRestore {s u u1 u2 : State} {launch wg : Nat} {place : List Place} {h b x : List Byte} {i : Image}
    (hb : beginRestore (launchOf s launch) (wgOf s launch wg) place s = (u, some h)) (hsp : (wgOf s launch wg).spatial = true)
    (hpiece : getPiece (launchOf s launch) wg 0x1000 0xF000 u = (u1, some b))
    (hread : deviceRead (launchOf s launch).dom (launchOf s launch).priv (fieldOf b 8 4) (fieldOf b 0 8) u1 = (u2, some x))
    (hlen : imgNat x 12 4 = fieldOf b 8 4) (himg : parseImage x (fieldOf b 8 4) = some i)
    (hfits : fabricFits u2 (wgOf s launch wg).core (launchOf s launch) place i (fun q => bits (fieldOf b (0x1840 + 4 * q) 4) 11 0) = true) :
    let w := wgOf s launch wg
    let live := (List.range (launchOf s launch).f).filter fun i => w.keptSlots.any fun x => x.1 == i
    let slot := (((live.zip place).find? fun x => x.1 == fieldOf b 12 1).map fun x => x.2.slot).getD 0
    exec (.spatialRestore launch wg place) s = .next (restoreWg (launchOf s launch) w h place
      (some (fabricFrom i (fieldOf b 0 8) (fieldOf b 8 4) slot b w.keptCmds)) u2) := by
  show execSpatialRestore launch wg place s = _
  obtain ⟨piece, hp⟩ : ∃ f, f = getPiece := exists_eq
  unfold execSpatialRestore
  rw [← hp] at hpiece ⊢
  simp only [hsp, hb, hpiece, hread, Option.bind_some, if_pos hlen, himg, hfits]
  simp

end Sys2Proof.Proofs
end

section
/-! SUPPORT. No instruction that can be held lets time pass, so what a workgroup can still do before its save takes none (R51, R187). -/

namespace Sys2Proof.Proofs

open Machine Laws

/-! ### No instruction lets time pass: the shared operations -/

/-- A change of the state in which no time passes. -/
def KeepsTime (f : State → State) : Prop := ∀ s, (f s).time = s.time

/-- Whatever an instruction comes to, no time has passed. -/
def OutKeepsTime (s : State) (o : Out) : Prop := ∀ t, o = .next t → t.time = s.time

theorem time_of_memorySide {s t : State} (h : MemorySide s t) : t.time = s.time := by
  obtain ⟨⟨k, hd, po, du, e⟩, -, -⟩ := h
  rw [e]

theorem time_of_scheduleSide {s t : State} (h : ScheduleSide s t) : t.time = s.time := by
  obtain ⟨⟨k, e⟩, -⟩ := h
  rw [e]

theorem time_foldl {α : Type} (f : State → α → State) (h : ∀ s a, (f s a).time = s.time) (l : List α) (s : State) :
    (l.foldl f s).time = s.time := by
  induction l generalizing s with
  | nil => rfl
  | cons a r ih => exact (ih (f s a)).trans (h s a)

theorem takeTrap_time (r : TrapRec) (s : State) : (takeTrap r s).time = s.time := time_of_scheduleSide (scheduleSide_takeTrap r s)

theorem setFlockStack_time (c f : Nat) (x : Flock) (s : State) : (setFlockStack c f x s).time = s.time := by
  unfold setFlockStack
  extract_lets old t l
  split
  · rfl
  · have h := time_of_memorySide (memorySide_deviceWrite l.dom true (flockVa l x.wg x.index + 0x400) (stackBytes x.stack) t)
    split <;> rename_i e <;> rw [e] at h
    · exact h
    · exact (time_of_scheduleSide (scheduleSide_frameLost x.launch _)).trans h

theorem advance_time (n : Nat) (s : State) : (advance n s).time = s.time := setFlockStack_time _ _ _ s

theorem waitFor_time (w : Wait) (s : State) : (waitFor w s).time = s.time := setCur_time _ s

theorem blockAt_time (w : Wait) (s : State) : (blockAt w s).time = s.time := by
  unfold blockAt
  exact (setFlockStack_time _ _ _ _).trans (waitFor_time w s)

theorem suspend_time (m : Mask) (va : Nat) (kind : AccKind) (level : Nat) (s : State) : (suspend m va kind level s).time = s.time := by
  unfold suspend
  extract_lets l k w x
  rw [haltAt, updWg_time]
  split
  · rfl
  · rw [updWg_time]
    exact time_of_scheduleSide (scheduleSide_stopWg 2 l k s)

theorem finishLong_time (i : Instr) (f : Nat) (p : Pending) (s : State) : (finishLong i f p s).time = s.time :=
  (advance_time _ _).trans (due_time _ _)

theorem holdBack_time (i : Instr) (f : Nat) (l : OpenOp) (s : State) : (holdBack i f l s).time = s.time := finishLong_time _ _ _ _

/-! ### Checks and order -/

theorem checked_time {i : Instr} {m : Mask} {legal : Bool} {regs : List Nat} {body : State → State} (h : KeepsTime body) (s : State) :
    OutKeepsTime s (checked i m legal regs body s) := by
  intro t ht
  obtain rfl := Host.Outcome.next.inj ht
  split
  · exact takeTrap_time _ s
  · split
    · exact takeTrap_time _ s
    · exact h s

theorem longOp_time {i : Instr} {m : Mask} {f : Nat} {regs : List Nat} {body : State → State} (h : KeepsTime body) (s : State) :
    OutKeepsTime s (longOp i m f regs body s) := by
  refine checked_time (fun u => ?_) s
  split
  · exact advance_time _ u
  · split
    · rfl
    · exact h u

theorem inOrder_time {i : Instr} {f : Nat} {l : OpenOp} {body : State → State} (h : KeepsTime body) (s : State) :
    (inOrder i f l body s).time = s.time := by
  unfold inOrder
  split
  · exact h s
  · exact holdBack_time i f l s

theorem matrixOrder_time {i : Instr} {f ru a : Nat} {c : List Nat} {l : OpenOp} {body : State → State} (h : KeepsTime body) (s : State) :
    (matrixOrder i f ru a c l body s).time = s.time := by
  unfold matrixOrder
  split
  · exact h s
  · exact holdBack_time i f l s

theorem withLanes_time {q : Ask} {body : List Reach → State → State} (h : ∀ ls, KeepsTime (body ls)) : KeepsTime (withLanes q body) := by
  intro s
  have hc := time_of_memorySide (memorySide_checkLanes q s)
  unfold withLanes
  split <;> rename_i e <;> rw [e] at hc
  · exact (takeTrap_time _ _).trans hc
  · exact (suspend_time _ _ _ _ _).trans hc
  · exact (h _ _).trans hc

theorem ordered_time {q : Ask} {f : Nat} {op : Op} {ls : List Reach} {body : State → State} (h : KeepsTime body) :
    KeepsTime (ordered q f op ls body) := fun s => inOrder_time h s

theorem withScope_time {q : Ask} {scope : Nat} {acq rel writing : Bool} {ls : List Reach} {body : (State → State) → State → State}
    (h : ∀ note, KeepsTime note → KeepsTime (body note)) : KeepsTime (withScope q scope acq rel writing ls body) := by
  intro s
  unfold withScope
  extract_lets units
  split
  · exact takeTrap_time _ s
  · refine h _ (fun t => time_foldl _ (fun u k => ?_) units t) s
    rfl

/-! ### Reading and writing elements -/

theorem verifyLanes_time (q : Ask) (ls : List Reach) (s : State) : (verifyLanes q ls s).time = s.time := by
  have hv (x va n : Nat) (t : State) := time_of_memorySide (memorySide_verifyElement x va n t)
  refine time_foldl _ (fun s l => ?_) ls s
  split
  · rfl
  · extract_lets t
    split
    · exact (hv _ _ _ t).trans (hv _ _ _ s)
    · exact hv _ _ _ s

theorem loadBytes_time (core : Option Nat) (x va n : Nat) (s : State) : (loadBytes core x va n s).1.time = s.time :=
  time_of_memorySide (memorySide_loadBytes core x va n s)

theorem readLane_time (q : Ask) (slot : Nat) (l : Reach) (s : State) : (readLane q slot l s).1.time = s.time := by
  unfold readLane
  extract_lets x
  split
  · have h1 := loadBytes_time (some s.core) x l.va 1 s
    split
    rename_i u b e
    rw [e] at h1
    have h2 := loadBytes_time (some u.core) x (scaleVa x l.va l.nib) 1 u
    split
    rename_i v k e
    split at e
    · rw [e] at h2
      exact h2.trans h1
    · obtain ⟨rfl, -⟩ := Prod.mk.inj e
      exact h1
  · exact loadBytes_time _ _ _ _ s

theorem readLanesGo_time (q : Ask) (slot : Nat) (ls : List Reach) (seen : List Read) (s : State) :
    (readLanesGo q slot seen ls s).1.time = s.time := by
  induction ls generalizing seen s with
  | nil => rfl
  | cons l r ih =>
    rw [readLanesGo]
    split
    rename_i u v fl e
    have hu : u.time = s.time := by
      split at e
      · obtain ⟨rfl, -⟩ := Prod.mk.inj e
        rfl
      · split at e
        · obtain ⟨rfl, -⟩ := Prod.mk.inj e
          rfl
        · have h := readLane_time q slot l s
          rw [e] at h
          exact h
    exact (ih _ u).trans hu

theorem memorySide_renewSectors (covered : Nat → Bool) (x va n : Nat) (s : State) : MemorySide s (renewSectors covered x va n s) := by
  unfold renewSectors
  extract_lets loc base t
  have ht : MemorySide s t := by
    show MemorySide s (if leafHome x = 2 then readyLine x (leafPad x) base s else s)
    split
    · exact memorySide_readyLine _ _ _ s
    · exact .refl s
  refine ht.trans (memorySide_foldl _ (fun u sec => ?_) _ t)
  split
  · exact memorySide_claimHeld _ _ _ _ u sec
  · exact memorySide_claimSector _ _ _ u sec

theorem writeLanes_time (n : Nat) (value : Nat → Nat) (ls : List Reach) (s : State) : (writeLanes n value ls s).time = s.time := by
  unfold writeLanes
  extract_lets s1 s2
  have h1 : s1.time = s.time := time_foldl _ (fun s l => by
    split
    · rfl
    · exact time_of_memorySide (memorySide_renewSectors _ _ _ _ s)) ls s
  have h2 : s2.time = s1.time := time_foldl _ (fun s l => by
    split
    · rfl
    · exact time_of_memorySide (memorySide_storeBytes _ _ _ _ s)) ls s1
  exact (time_of_memorySide ((memorySide_leaseStamps _ _ s2).trans (memorySide_clearCovered _ _))).trans (h2.trans h1)

/-! ### No memory instruction lets time pass (R181 to R191) -/

theorem raise_time (fl : Nat) (s : State) : (raise fl s).time = s.time := setCur_time _ s

theorem loadOp_time (q : Ask) (z d f scope : Nat) (regs : List Nat) (s : State) : OutKeepsTime s (loadOp q z d f scope regs s) := by
  refine longOp_time (withLanes_time fun ls => ordered_time fun u => ?_) s
  extract_lets r w vs
  split
  · exact finishLong_time _ _ _ u
  · refine withScope_time (fun note hn v => ?_) u
    have hv := verifyLanes_time q ls v
    extract_lets x
    split
    · exact (takeTrap_time _ x).trans hv
    · have h := readLanesGo_time q (rcdSlot r) ls [] x
      split
      rename_i y vs fl e
      rw [show readLanesGo q (rcdSlot r) [] ls x = (y, vs, fl) from e] at h
      exact (finishLong_time _ _ _ _).trans ((raise_time fl _).trans ((hn y).trans (h.trans hv)))

theorem storeOp_time (q : Ask) (z d f scope : Nat) (regs : List Nat) (s : State) : OutKeepsTime s (storeOp q z d f scope regs s) := by
  refine longOp_time (withLanes_time fun ls => ordered_time fun u => ?_) s
  extract_lets data put
  split
  · exact finishLong_time _ _ _ _
  · refine withScope_time (fun note hn v => ?_) u
    split
    · exact takeTrap_time _ v
    · exact (finishLong_time _ _ _ _).trans ((writeLanes_time _ _ _ _).trans (hn v))

theorem atomicRead_time (scope x va n : Nat) (s : State) : (atomicRead scope x va n s).1.time = s.time := by
  unfold atomicRead
  split
  · extract_lets pad base s1 s2 s3
    have h1 : s1.time = s.time := time_of_memorySide (memorySide_readyLine _ _ _ s)
    have h2 : s2.time = s1.time := by
      show (if padMode s1 pad = 0 ∧ scope < 3 then shareLine s1.core pad base s1 else s1).time = s1.time
      split
      · exact time_of_memorySide (memorySide_shareLine _ _ _ s1)
      · rfl
    have h3 : s3.time = s2.time := by
      unfold s3
      split
      · split
        · exact time_of_memorySide (memorySide_setPts _ _ _ s2)
        · rfl
      · rfl
    exact h3.trans (h2.trans h1)
  · exact loadBytes_time none x va n s

theorem atomicStep_time (o n scope : Nat) (k : Datum) (l : Reach) (s : State) : (atomicStep o n scope k l s).1.time = s.time := by
  have h := atomicRead_time scope l.leaf l.va n s
  unfold atomicStep
  split
  rename_i u old e
  rw [e] at h
  exact (time_of_memorySide ((memorySide_storeBytes _ _ _ _ u).trans (memorySide_leaseStamps _ _ _))).trans h

theorem atomicSteps_time (o n scope : Nat) (k : Nat → Datum) (ls : List Reach) (s : State) :
    (atomicSteps o n scope k ls s).1.time = s.time := by
  induction ls generalizing s with
  | nil => rfl
  | cons l r ih =>
    rw [atomicSteps]
    split
    rename_i u old e
    have hu : u.time = s.time := by
      split at e
      · obtain ⟨rfl, -⟩ := Prod.mk.inj e
        rfl
      · have h := atomicStep_time o n scope (k l.t) l s
        rw [e] at h
        exact h
    exact (ih u).trans hu

theorem atomicOp_time (q : Ask) (o z f scope : Nat) (acq rel : Bool) (k : State → Nat → Datum) (ret : Option Nat) (regs : List Nat) (s : State) :
    OutKeepsTime s (atomicOp q o z f scope acq rel k ret regs s) := by
  refine longOp_time (withLanes_time fun ls => ordered_time fun u => ?_) s
  extract_lets data back
  split
  · exact finishLong_time _ _ _ _
  · refine withScope_time (fun note hn v => ?_) u
    have hv := verifyLanes_time q ls v
    split
    · exact takeTrap_time _ v
    · extract_lets x
      split
      · exact (takeTrap_time _ x).trans hv
      · have h := atomicSteps_time o q.bytes scope data ls (note x)
        split
        rename_i y vs e
        rw [e] at h
        exact (finishLong_time _ _ _ _).trans (h.trans ((hn x).trans hv))

theorem reduceStep_time (o n scope b : Nat) (l : Reach) (s : State) : (reduceStep o n scope b l s).time = s.time := by
  unfold reduceStep
  split
  · exact time_of_memorySide ((memorySide_markDirty _ _ s).trans ((memorySide_readyLine _ _ _ _).trans (memorySide_combineRed _ _ _ _ _)))
  · exact atomicStep_time _ _ _ _ _ s

theorem reduceOp_time (q : Ask) (o f scope : Nat) (rel : Bool) (data : State → Nat → Nat) (regs : List Nat) (s : State) :
    OutKeepsTime s (reduceOp q o f scope rel data regs s) := by
  refine longOp_time (withLanes_time fun ls => ordered_time fun u => withScope_time (fun note hn v => ?_) u) s
  have hv := verifyLanes_time q ls v
  split
  · exact takeTrap_time _ v
  · extract_lets x
    split
    · exact (takeTrap_time _ x).trans hv
    · refine (finishLong_time _ _ _ _).trans ((time_foldl _ (fun y l => ?_) ls _).trans ((hn x).trans hv))
      split
      · rfl
      · exact reduceStep_time _ _ _ _ l y

/-! ### Full-empty requests (R165, R187, R188) -/

theorem feDeliver_time (r : FeReq) (v : Option Word) (s : State) : (feDeliver r v s).time = s.time := by
  unfold feDeliver
  rw [due_time, setFlock_time]

theorem feFill_time (loc : Nat) (v : Word) (s : State) : (feFill loc v s).time = s.time := by
  have h := time_of_memorySide (memorySide_writeUnder none loc (leBytes 4 v.toNat) s)
  exact h

theorem feVerify_time (loc : Nat) (s : State) : (feVerify loc s).time = s.time := by
  unfold feVerify
  split
  · exact time_of_memorySide (memorySide_poisonSector _ _ _ s _)
  · rfl

theorem fePoison_time (r : FeReq) (s : State) : (fePoison r s).time = s.time := time_of_scheduleSide (scheduleSide_trapAt _ _ _ s)

theorem feTry_time {r : FeReq} {s t : State} (h : feTry r s = some t) : t.time = s.time := by
  unfold feTry at h
  extract_lets v at h
  split at h
  · rw [← Option.some.inj h]
    exact (fePoison_time r _).trans (feVerify_time _ s)
  · split at h <;> split at h
    · rw [← Option.some.inj h]
      exact feDeliver_time _ _ s
    · exact absurd h (by simp)
    · rw [← Option.some.inj h]
      exact feDeliver_time _ _ _
    · exact absurd h (by simp)
    · exact absurd h (by simp)
    · rw [← Option.some.inj h]
      exact (feDeliver_time _ _ _).trans (feFill_time _ _ s)

theorem feServe_time (n loc : Nat) (s : State) : (feServe n loc s).time = s.time := by
  induction n generalizing s with
  | zero => rfl
  | succ n ih =>
    rw [feServe]
    split
    · rfl
    · split
      · rfl
      · rename_i u hu
        have h : u.time = s.time := feTry_time hu
        exact (ih _).trans h

theorem feTake_time {r : FeReq} {s t : State} (h : feTake r s = some t) : t.time = s.time := by
  unfold feTake at h
  split at h
  · rename_i u hu
    rw [← Option.some.inj h]
    exact (feServe_time _ _ u).trans (feTry_time hu)
  · split at h
    · rw [← Option.some.inj h]
    · exact absurd h (by simp)

theorem feSend_time (r : FeReq) (s : State) : (feSend r s).time = s.time := by
  unfold feSend
  split
  · rfl
  · unfold feArrive
    cases h : feTake r s with
    | none => rfl
    | some t => exact feTake_time h

theorem fourAtMost_time {body : State → State} (h : KeepsTime body) : KeepsTime (fourAtMost body) := fun s => by
  unfold fourAtMost
  split
  · exact waitFor_time _ s
  · exact h s

theorem feOp_time (q : Ask) (kind d f : Nat) (regs : List Nat) (s : State) : OutKeepsTime s (feOp q kind d f regs s) := by
  refine longOp_time (fourAtMost_time (withLanes_time fun ls u => withScope_time (fun note hn v => ?_) u)) s
  have hv := verifyLanes_time q ls v
  extract_lets x
  split
  · exact (takeTrap_time _ x).trans hv
  · refine (advance_time _ _).trans ((time_foldl _ (fun y l => feSend_time _ y) _ _).trans ?_)
    exact (due_time _ _).trans ((hn x).trans hv)

theorem feStrictOp_time (q : Ask) (d f : Nat) (regs : List Nat) (s : State) : OutKeepsTime s (feStrictOp q d f regs s) := by
  refine longOp_time (fourAtMost_time (withLanes_time fun ls => ordered_time fun u => withScope_time (fun note hn v => ?_) u)) s
  have hv := verifyLanes_time q ls v
  extract_lets x
  split
  · exact (takeTrap_time _ x).trans hv
  · split
    · exact (takeTrap_time _ x).trans hv
    · refine (finishLong_time _ _ _ _).trans ((time_foldl _ (fun y l => feServe_time _ _ y) _ _).trans ?_)
      refine (time_of_memorySide (memorySide_clearCovered _ _)).trans ((time_foldl _ (fun y l => feFill_time _ _ y) _ _).trans ?_)
      exact (hn x).trans hv

/-! ### Ranges, maintenance and paddocks (R190, R191, R207) -/

theorem readRange_time (q : Ask) (ls : List Reach) (s : State) : (readRange q ls s).1.time = s.time := by
  induction ls generalizing s with
  | nil => rfl
  | cons l r ih => exact (ih _).trans (loadBytes_time _ _ _ _ s)

theorem withRange_time {q : Ask} {f : Nat} {body : List Nat → List Byte → State → State} (h : ∀ u b, KeepsTime (body u b)) :
    KeepsTime (withRange q f body) := by
  refine withLanes_time fun ls => ordered_time fun s => ?_
  have hv := verifyLanes_time q ls s
  unfold rangeBody
  extract_lets x
  split
  · exact (takeTrap_time _ x).trans hv
  · have hr := readRange_time q ls x
    split
    rename_i y b e
    rw [e] at hr
    exact (h _ _ y).trans (hr.trans hv)

theorem maintainLine_time (o : Nat) (s : State) (k : Nat × Nat) : (maintainLine o s k).time = s.time := by
  unfold maintainLine
  extract_lets t c
  have ht : t.time = s.time := by
    show (if o % 2 = 1 then _ else s).time = s.time
    split
    · refine (time_of_memorySide (memorySide_lineClean _ _ _)).trans ?_
      split
      · exact time_of_memorySide (memorySide_foldLine _ _ s)
      · rfl
    · rfl
  split
  · exact (updLine_time _ _ _ _).trans ((setCore_time _ _ t).trans ht)
  · exact ht

theorem padPoke_time (id : Nat) (s : State) : (padPoke id s).time = s.time := by
  have hdues (g : Nat → Instr) (bs : List Nat) (t : State) : (bs.foldl (fun s b => due (g b) s) t).time = t.time :=
    time_foldl _ (fun s b => due_time (g b) s) bs t
  unfold padPoke
  split
  · rfl
  · split
    · rfl
    · exact (due_time _ _).trans ((hdues _ _ _).trans (hdues _ _ s))

theorem prunePins_time (s : State) : (prunePins s).time = s.time := time_of_memorySide (memorySide_clearPins _ s)

theorem installRecord_time (r : Nat) (signal : Option PadSignal) (s : State) : (installRecord r signal s).time = s.time := by
  unfold installRecord
  exact (padPoke_time _ _).trans (prunePins_time _)

theorem applyRecord_time (r : Nat) (acts : Nat → Bool) (signal : Option PadSignal) (s : State) : (applyRecord r acts signal s).1.time = s.time := by
  unfold applyRecord
  split
  · rfl
  · exact installRecord_time _ _ s

theorem execPaddock_time (g a r cc f : Nat) (s : State) : OutKeepsTime s (execPaddock g a r cc f s) := by
  unfold execPaddock
  extract_lets i m
  refine checked_time (fun u => ?_) s
  split
  · exact advance_time _ u
  · split
    · exact takeTrap_time _ u
    · split
      · exact waitFor_time _ u
      · refine withRange_time (fun us b v => ?_) u
        extract_lets x dom
        have h := applyRecord_time x (fun d => d == dom) none v
        split <;> rename_i e <;> rw [e] at h
        · exact (finishLong_time _ _ _ _).trans h
        · exact (finishLong_time _ _ _ _).trans h

theorem execLdb_time (g d sx r f : Nat) (s : State) : OutKeepsTime s (execLdb g d sx r f s) :=
  longOp_time (fun u => withRange_time (fun _ _ v => finishLong_time _ _ _ v) u) s

theorem execCache_time (g n sx r f o : Nat) (s : State) : OutKeepsTime s (execCache g n sx r f o s) :=
  longOp_time (fun u => withLanes_time (fun _ v => inOrder_time (fun w =>
    (finishLong_time _ _ _ _).trans (time_foldl _ (maintainLine_time o) _ w)) v) u) s

/-! ### Matrix instructions (R138, R143, R146, R151) -/

theorem withTile_time {t : Nat} {body : State → State} (h : KeepsTime body) : KeepsTime (withTile t body) := fun s => by
  unfold withTile
  extract_lets x
  split
  · exact h s
  · split
    · exact (h _).trans (setTile_time _ _ _ s)
    · exact blockAt_time _ s

theorem withB_time {m : Mask} {t fm src b rows : Nat} {body : Nat → (Nat → Nat → Nat) → (Nat → Nat → Nat) → Nat → State → State}
    (h : ∀ fmt code scale slot, KeepsTime (body fmt code scale slot)) : KeepsTime (withB m t fm src b rows body) := fun s => by
  unfold withB
  split
  · exact takeTrap_time _ s
  · exact withTile_time (waitFor_time _) s
  · exact withTile_time (h _ _ _ _) s

theorem addRows_time (t : Nat) (m : Mask) (terms : Nat → Nat → List RowTerm) (s : State) : (addRows t m terms s).time = s.time :=
  (raise_time _ _).trans (setTile_time _ _ _ s)

theorem mergeRegion_time (t : Nat) (s : State) : (mergeRegion t s).time = s.time :=
  (raise_time _ _).trans ((setTile_time _ _ _ _).trans (time_foldl _ (fun u c => setTile_time c t _ u) _ s))

theorem setLatch_time (ru a : Nat) (c : List Nat) (s : State) : (setLatch ru a c s).time = s.time := setCur_time _ s

theorem execMma_time (g ti a b ru src cc fm f : Nat) (s : State) : OutKeepsTime s (execMma g ti a b ru src cc fm f s) :=
  longOp_time (withB_time fun _ _ _ _ u => matrixOrder_time (fun v =>
    (finishLong_time _ _ _ _).trans ((setLatch_time _ _ _ _).trans (addRows_time _ _ _ v))) u) s

theorem execMmaSp_time (g ti a b ru pat src cc fm f : Nat) (s : State) : OutKeepsTime s (execMmaSp g ti a b ru pat src cc fm f s) :=
  longOp_time (withB_time fun _ _ _ _ u => matrixOrder_time (fun v =>
    (finishLong_time _ _ _ _).trans ((setLatch_time _ _ _ _).trans (addRows_time _ _ _ v))) u) s

theorem execAccRd_time (g d t f c : Nat) (s : State) : OutKeepsTime s (execAccRd g d t f c s) := by
  refine longOp_time (withTile_time fun u => ?_) s
  extract_lets x l r due_
  split
  · exact blockAt_time _ u
  · refine inOrder_time (fun v => ?_) u
    extract_lets w
    have hw : w.time = v.time := by
      show (if due_ = true then mergeRegion t v else v).time = v.time
      split
      · exact mergeRegion_time t v
      · rfl
    exact (finishLong_time _ _ _ _).trans ((raise_time _ _).trans ((setTile_time _ _ _ w).trans hw))

/-! ### Held instructions (R51, R187) -/

theorem execHeld_time (i : Instr) (s : State) : OutKeepsTime s (execHeld i s) := by
  unfold execHeld
  split
  · exact loadOp_time _ _ _ _ _ _ s
  · exact loadOp_time _ _ _ _ _ _ s
  · exact loadOp_time _ _ _ _ _ _ s
  · exact storeOp_time _ _ _ _ _ _ s
  · exact storeOp_time _ _ _ _ _ _ s
  · exact storeOp_time _ _ _ _ _ _ s
  · exact atomicOp_time _ _ _ _ _ _ _ _ _ _ s
  · exact atomicOp_time _ _ _ _ _ _ _ _ _ _ s
  · exact atomicOp_time _ _ _ _ _ _ _ _ _ _ s
  · exact reduceOp_time _ _ _ _ _ _ _ s
  · exact reduceOp_time _ _ _ _ _ _ _ s
  · unfold execStfe
    extract_lets m q q'
    split
    · exact feStrictOp_time _ _ _ _ s
    · exact feOp_time _ _ _ _ _ s
  · exact execLdb_time _ _ _ _ _ s
  · exact execCache_time _ _ _ _ _ _ s
  · exact execPaddock_time _ _ _ _ _ s
  · exact execMma_time _ _ _ _ _ _ _ _ _ s
  · exact execMmaSp_time _ _ _ _ _ _ _ _ _ _ s
  · exact execAccRd_time _ _ _ _ _ s
  · intro t ht
    rw [Host.Outcome.next.inj ht]

theorem performHeld_time (h : Held) (s : State) : (performHeld h s).time = s.time := by
  unfold performHeld
  extract_lets f w book t
  split
  · rename_i u hu
    have ht : u.time = s.time := execHeld_time h.ins t u hu
    extract_lets done v
    split
    · exact ht
    · exact ht
  · rfl

theorem performReady_time (core slot uid : Nat) (s : State) : (performReady core slot uid s).time = s.time := by
  rcases performReady_cases core slot uid s with h | ⟨x, -, -, -, -, -, -, -, h⟩
  · rw [h]
  · rw [h]
    exact performHeld_time x s

theorem settleFences_time (core slot : Nat) (s : State) : (settleFences core slot s).time = s.time := by
  refine time_foldl _ (fun u h => ?_) _ s
  split <;> rfl

/-- What a workgroup's held instructions do before its save takes no time. -/
theorem performAll_time (w : Wg) (s : State) : (performAll w s).time = s.time :=
  time_foldl _ (fun u f => time_foldl _ (fun v (h : Held) => (settleFences_time w.core f _).trans (performReady_time w.core f h.what.uid v)) _ u) _ s

end Sys2Proof.Proofs
end

section
/-! SUPPORT. The end of a drain and quanta (R256, R364 to R366), and the proof that workgroups come and go. -/

namespace Sys2Proof.Proofs

open Machine Laws

/-! ### The end of a drain, and quanta (R256, R364 to R366; log entry 44) -/

theorem drainOver_of_time {s t : State} (f : Fabric) (h : t.time = s.time) : drainOver t f = drainOver s f := by
  unfold drainOver
  rw [h]

/-- The save that ends a drain, where the control flock's workgroup stops. -/
def drainSave (k : Flock) (s : State) : State :=
  match (wgOf s k.launch k.wg).phase with
  | .stopping _ => saveWg k.launch k.wg s
  | _ => s

/-- A drain that is over, and that no resize keeps: commands complete, tokens land, stops trap or fault, and the save follows. -/
theorem exec_spatialDrainEnd {s : State} {core : Nat} {f g : Fabric} (hf : (coreAt s core).fabric = some f) (hover : drainOver s f = true) :
    let s0 := performAll (wgOf s (controlFlock s core f).launch (controlFlock s core f).wg) s
    awaitsResize s0 (wgOf s0 (controlFlock s core f).launch (controlFlock s core f).wg) = false →
    let ls := List.range f.ops.length
    let s1 := mapFabric core landTokens (ls.foldl (fun s l => streamCompletes core l s) s0)
    (coreAt s1 core).fabric = some g →
    let s2 := divideCmds core g (ls.foldl (stuckLane core g false) (ls.foldl (stuckLane core g true) s1))
    exec (.spatialDrainEnd core) s = .next (drainSave (controlFlock s2 core g) s2) := by
  intro s0 hr ls s1 hg s2
  have hover0 : drainOver s0 f = true := (drainOver_of_time f (performAll_time _ s)).trans hover
  have hgo : ¬ ((!drainOver s0 f) = true ∨ awaitsResize s0 (wgOf s0 (controlFlock s core f).launch (controlFlock s core f).wg) = true) := by
    rw [hover0, hr]
    decide
  show execSpatialDrainEnd core s = _
  unfold execSpatialDrainEnd
  rw [hf]
  simp only [hover, if_true]
  rw [if_neg (by simpa using hgo)]
  rw [show (coreAt (mapFabric core landTokens ((List.range f.ops.length).foldl (fun s l => streamCompletes core l s)
    (performAll (wgOf s (controlFlock s core f).launch (controlFlock s core f).wg) s))) core).fabric = some g from hg]
  rfl

theorem preemptFor_time (ns : Nat) (s : State) (l : Launch) : (preemptFor ns s l).time = s.time := by
  unfold preemptFor
  split
  · rfl
  · split
    · rfl
    · exact time_foldl _ (fun u (w : Wg) => time_of_scheduleSide (scheduleSide_stopWg 1 w.launch w.index u)) _ s

/-- The boundary before a quantum's, read from the state that earlier launches have left, is that of the quantum. -/
theorem foldl_preemptFor_time (ls : List Launch) {q : Nat} (s : State) (h : s.time / 100000 = q) :
    ls.foldl (fun s l => preemptFor (100000 * (s.time / 100000 - 1)) s l) s = ls.foldl (fun s l => preemptFor (100000 * (q - 1)) s l) s := by
  induction ls generalizing s with
  | nil => rfl
  | cons l r ih =>
    rw [List.foldl_cons, List.foldl_cons, h]
    exact ih _ ((preemptFor_time _ s l).symm ▸ h)

theorem exec_quantumBoundary {s : State} (h : s.quantum < s.time / 100000) :
    exec .quantumBoundary s = .next (((s.launches.filter Machine.running).foldl (fun r l => byPrio l r) []).foldl
      (fun s l => preemptFor (100000 * (s.time / 100000 - 1)) s l) { s with quantum := s.time / 100000 }) := by
  rw [foldl_preemptFor_time _ _ rfl]
  show execQuantumBoundary s = _
  unfold execQuantumBoundary
  extract_lets q t
  rw [if_pos h]

/-! ### Workgroups come and go -/

theorem find_of_stopping {s : State} {l k c : Nat} (h : (wgOf s l k).phase = .stopping c) : (findWg s l k).isSome = true := by
  cases hf : findWg s l k with
  | none => rw [wgOf_of_none hf] at h; cases h
  | some w => rfl

/-- Settles O52: the parts of an admission (workgroupAdmission_admits), what a completion leaves (workgroupCompletion_completes), that a
saved workgroup stays off its core through all that follows its save (leftCore_saveWg), and the branches that restores, drains and quanta
take; that what a drain performs takes no time (performAll_time) keeps the drain over. -/
theorem workgroupsComeAndGo : Obligations.WorkgroupsComeAndGo := by
  unfold Obligations.WorkgroupsComeAndGo
  refine ⟨fun s launch core place => ?_, fun s launch wg l hl => ?_, fun s launch wg c => ?_, fun s launch wg c => ?_,
    fun s u launch wg place h => ?_, fun s core f g hf hover => exec_spatialDrainEnd hf hover, fun s h => exec_quantumBoundary h⟩
  · intro l hnum hcore hlen hfree
    obtain ⟨t, ht, hwgs, hlaunch, hflocks, hother, hmem⟩ := workgroupAdmission_admits hcore hlen hfree
    refine ⟨t, ht, ⟨newWg s l core place, hwgs, hnum, rfl, rfl, rfl, rfl, rfl, rfl, rfl⟩, hlaunch, fun k p hp => ?_, hother, hmem⟩
    intro f
    obtain ⟨h1, h2⟩ := startFlock_starts (listed s l core place) (nextAdmission s l.next core l) l.next core k p
    rw [show f = startFlock (listed s l core place) (nextAdmission s l.next core l) l.next core k p from hflocks k p hp]
    exact ⟨h1.trans hnum, h2⟩
  · intro w hp hs hh
    exact workgroupCompletion_completes hl hp hs hh
  · intro w hp hc u
    exact ⟨performAll_idle, exec_workgroupSave hp hc⟩
  · intro hp t
    obtain ⟨h1, h2, h3⟩ := leftCore_saveWg (find_of_stopping hp)
    exact ⟨h1, h3, h2⟩
  · intro w hb
    refine ⟨exec_workgroupRestore hb, fun hsp u1 u2 b x i => ?_⟩
    intro l hpiece hread hlen himg hfits
    exact exec_spatialRestore hb hsp hpiece hread hlen himg hfits

end Sys2Proof.Proofs
end

section
/-! SUPPORT. Accumulator tiles: who holds a tile that is claimed, and the refutation of the statement about tiles that change hands. -/

namespace Sys2Proof.Proofs

open Machine Laws

/-! ### Control words and claims (R137, R138) -/

/-- The fields of a control word stand apart, and fill it. -/
theorem toNat_tileCtl (published merged narrow : Bool) (region holder : Nat) (held : Bool) :
    (tileCtl published merged narrow region holder held).toNat = published.toNat * 2 ^ 31 + merged.toNat * 2 ^ 30 + narrow.toNat * 2 ^ 29 +
      region % 32 * 2 ^ 24 + holder % 64 * 2 ^ 16 + held.toNat := by
  have flag (b : Bool) (n : Nat) : (if b = true then n else 0) = b.toNat * n := by cases b <;> simp
  have h1 := published.toNat_le
  have h2 := merged.toNat_le
  have h3 := narrow.toNat_le
  have h4 := held.toNat_le
  rw [tileCtl, BitVec.toNat_ofNat, flag, flag, flag, flag, Nat.mul_one, Nat.mod_eq_of_lt]
  omega

theorem held_tileCtl (published merged narrow : Bool) (region holder : Nat) (held : Bool) :
    bitAt (tileCtl published merged narrow region holder held).toNat 0 = held := by
  rw [toNat_tileCtl, bitAt]
  cases held <;> simp only [Bool.toNat_true, Bool.toNat_false, beq_eq_false_iff_ne, beq_iff_eq] <;> omega

/-- The holder's field has six bits. -/
theorem holder_tileCtl (published merged narrow : Bool) (region holder : Nat) (held : Bool) :
    bits (tileCtl published merged narrow region holder held).toNat 21 16 = holder % 64 := by
  have h := held.toNat_le
  rw [toNat_tileCtl, bits]
  omega

theorem claimed_names (l : Launch) (slot : Nat) (x : Tile) : tileHeld (claimed l slot x) = true ∧ tileHolder (claimed l slot x) = slot % 64 := by
  unfold claimed
  split <;> exact ⟨held_tileCtl .., holder_tileCtl ..⟩

/-- A claim makes a flock the holder where its slot is one that the field can name, and only there. -/
theorem holds_claimed_iff (l : Launch) (slot : Nat) {x : Tile} (h : claimable x = true) : holds (claimed l slot x) slot = true ↔ slot < 64 := by
  have hrel : (claimed l slot x).releasing = false := by
    simp only [claimable, Bool.and_eq_true, Bool.not_eq_true'] at h
    unfold claimed
    split
    · exact h.2
    · rfl
  obtain ⟨hheld, hholder⟩ := claimed_names l slot x
  simp only [holds, hheld, hholder, hrel, Bool.true_and, Bool.not_false, Bool.and_true, beq_iff_eq]
  omega

/-- A tile that the flock does not hold is claimed. -/
theorem tileAt_took {t : Nat} {s : State} (h : holds (tileAt s s.core t) s.slot = false) :
    tileAt (Safety.took t s) s.core t = claimed (curLaunch s) s.slot (tileAt s s.core t) := by
  rw [Safety.took, h, if_neg Bool.false_ne_true, tileAt_setTile, if_pos ⟨rfl, rfl⟩]

/-- A core with a flock in slot 64, all its threads on one path, and every tile free. -/
def beyondSlots : State :=
  setFlock 0 64 { emptyFlock with path0 := some (pathAt 0 (BitVec.allOnes 32)) } { State.reset with slot := 64 }

theorem beyondSlots_claims : active beyondSlots 7 ≠ 0 ∧ holds (tileAt beyondSlots beyondSlots.core 0) beyondSlots.slot = false ∧
    claimable (tileAt beyondSlots beyondSlots.core 0) = true := by decide +kernel

/-- Refutes O34: the statement has the issuing flock hold each tile that it claims, in every state, while the holder's field of a control
word has six bits (R137): a flock in slot 64, which no core has, claims the tile in the name of slot 0. Of a slot below 64 the clause holds
(holds_claimed_iff). -/
theorem not_tilesChangeHands : ¬ Obligations.TilesChangeHands := by
  unfold Obligations.TilesChangeHands
  rintro ⟨htiles, -⟩
  obtain ⟨hactive, hfree, hclaim⟩ := beyondSlots_claims
  obtain ⟨htake, -⟩ := htiles beyondSlots 7 0 hactive
  obtain ⟨hholds, -⟩ := htake (.inr hclaim)
  rw [tileAt_took hfree, holds_claimed_iff _ _ hclaim] at hholds
  exact absurd hholds (by decide)

end Sys2Proof.Proofs
end

section
/-! SUPPORT. Matrix instructions on a tile that the flock holds or can claim, and the proof of the statement about their products. -/

namespace Sys2Proof.Proofs

open Machine Laws

/-! ### The tile and the operand (R138, R141, R155) -/

/-- A tile that can be taken is taken, and the work goes on with it. -/
theorem withTile_took {t : Nat} (body : State → State) {s : State} (h : Safety.CanTake t s) : withTile t body s = body (Safety.took t s) := by
  unfold withTile Safety.took
  by_cases hh : holds (tileAt s s.core t) s.slot = true
  · simp only [hh, Bool.true_or, if_true]
  · have hc : claimable (tileAt s s.core t) = true := h.resolve_left hh
    simp only [hh, hc, Bool.not_true, Bool.and_false, Bool.or_false, Bool.false_eq_true, if_true, if_false]

theorem took_performing (t : Nat) (s : State) : (Safety.took t s).performing = s.performing := by
  unfold Safety.took
  split <;> rfl

theorem readB_filling {s : State} {m : Mask} {fm src b rows : Nat} (hsrc : src = 0) (h : (handleAt s s.core b).st = .filling) :
    readB s m fm src b rows = .waits := by
  simp only [readB, hsrc, h, if_true]

/-- What a product instruction does once its operand is read and its tile is taken. -/
abbrev Perform := Nat → (Nat → Nat → Nat) → (Nat → Nat → Nat) → Nat → State → State

/-- The shape that mma and mma.sp share: B is read, the tile is taken, and the products are added in the order of the flock (R141 to R143). -/
def productOp (i : Instr) (m : Mask) (f : Nat) (regs : List Nat) (ti fm src b rows ru a : Nat) (c : List Nat) (perform : Perform) :
    State → Out :=
  longOp i m f regs (withB m ti fm src b rows fun bfmt code scale slot s =>
    matrixOrder i f ru a c (matrixUse s m ti fm src b rows) (perform bfmt code scale slot) s)

section

variable {i : Instr} {m : Mask} {f ti fm src b rows ru a : Nat} {regs c : List Nat} {perform : Perform} {s : State}

theorem productOp_idle (h : Safety.Accepts i regs s) (hm : m = 0) :
    productOp i m f regs ti fm src b rows ru a c perform s = .next (advance (encode i).length s) := by
  subst hm
  exact longOp_idle i f regs _ s h

theorem productOp_fills (h : Safety.Passes i m f regs s) (hsrc : src = 0) (hb : (handleAt s s.core b).st = .filling)
    (ht : Safety.CanTake ti s) :
    productOp i m f regs ti fm src b rows ru a c perform s = .next (waitFor .issue (Safety.took ti s)) := by
  rw [productOp, longOp_passes _ _ _ _ _ _ h, withB, readB_filling hsrc hb]
  exact congrArg _ (withTile_took _ ht)

variable {bfmt slot : Nat} {code scale : Nat → Nat → Nat}

/-- An operand that is ready: the instruction takes its tile, and its place in the order of the flock. -/
theorem productOp_ready (h : Safety.Passes i m f regs s) (hb : readB s m fm src b rows = .ok bfmt code scale slot)
    (ht : Safety.CanTake ti s) :
    productOp i m f regs ti fm src b rows ru a c perform s =
      .next (matrixOrder i f ru a c (matrixUse (Safety.took ti s) m ti fm src b rows) (perform bfmt code scale slot) (Safety.took ti s)) := by
  rw [productOp, longOp_passes _ _ _ _ _ _ h, withB, hb]
  exact congrArg _ (withTile_took _ ht)

theorem productOp_held (h : Safety.Passes i m f regs s) (hb : readB s m fm src b rows = .ok bfmt code scale slot)
    (ht : Safety.CanTake ti s) (hp : s.performing = false)
    (hk : keptBehind (Safety.took ti s) (matrixUse (Safety.took ti s) m ti fm src b rows) = true) :
    productOp i m f regs ti fm src b rows ru a c perform s =
      .next (setLatch ru a c (holdBack i f (matrixUse (Safety.took ti s) m ti fm src b rows) (Safety.took ti s))) := by
  rw [productOp_ready h hb ht, matrixOrder, took_performing, hp, hk]
  rfl

theorem productOp_performed (h : Safety.Passes i m f regs s) (hb : readB s m fm src b rows = .ok bfmt code scale slot)
    (ht : Safety.CanTake ti s)
    (hk : s.performing = true ∨ keptBehind (Safety.took ti s) (matrixUse (Safety.took ti s) m ti fm src b rows) = false) :
    productOp i m f regs ti fm src b rows ru a c perform s = .next (perform bfmt code scale slot (Safety.took ti s)) := by
  have hgo : (s.performing || !keptBehind (Safety.took ti s) (matrixUse (Safety.took ti s) m ti fm src b rows)) = true := by
    simpa using hk
  rw [productOp_ready h hb ht, matrixOrder, took_performing, if_pos hgo]

/-- An instruction of this shape only moves on with no active thread; it waits for a handle that is filling, with its tile claimed; with B
ready it is held behind what keeps it waiting, or performs. -/
theorem product_completes (hi : exec i s = productOp i m f regs ti fm src b rows ru a c perform s) :
    let u := Safety.took ti s
    let use := matrixUse u m ti fm src b rows
    Safety.Idles i m regs s ∧
    (Safety.Passes i m f regs s → src = 0 → (handleAt s s.core b).st = .filling → Safety.CanTake ti s →
      exec i s = .next (waitFor .issue u)) ∧
    (Safety.Passes i m f regs s → readB s m fm src b rows = .ok bfmt code scale slot → Safety.CanTake ti s → s.performing = false →
      keptBehind u use = true → exec i s = .next (setLatch ru a c (holdBack i f use u))) ∧
    (Safety.Passes i m f regs s → readB s m fm src b rows = .ok bfmt code scale slot → Safety.CanTake ti s →
      s.performing = true ∨ keptBehind u use = false → exec i s = .next (perform bfmt code scale slot u)) :=
  ⟨fun h hm => hi.trans (productOp_idle h hm), fun h hsrc hb ht => hi.trans (productOp_fills h hsrc hb ht),
    fun h hb ht hp hk => hi.trans (productOp_held h hb ht hp hk), fun h hb ht hk => hi.trans (productOp_performed h hb ht hk)⟩

end

/-! ### mma and mma.sp (R143, R151) -/

/-- The value of B at row k and column n. -/
def bValue (s : State) (bfmt : Nat) (code scale : Nat → Nat → Nat) (slot k n : Nat) : FVal :=
  codeValue bfmt (code k n) (scale k n) (bookOf (curWg s) slot)

/-- mma adds, for each row, A's elements times the rows of B in order. -/
def performMma (g ti a b ru src cc fm f : Nat) (m : Mask) : Perform := fun bfmt code scale slot s =>
  finishLong (.mma g ti a b ru src cc fm f) f { noPending with tile := some ti, product := true }
    (setLatch ru a (scaleReg fm cc) (addRows ti m (fun t r => (List.range (depthOf fm)).map fun k =>
      (aValue s (aFormat fm bfmt) fm a cc t r k, fun n => some (bValue s bfmt code scale slot k n))) s))

/-- The row of B that kept value j of row 4t+r meets (R151). -/
def metRow (s : State) (pat cc t r j : Nat) : Nat :=
  j / patternN pat * patternM pat + (getV (cur s) t (cc + 2 * r + j / 8)).toNat / 16 ^ (j % 8) % 16 % patternM pat

/-- mma.sp adds A's kept values times the rows of B that they meet. -/
def performMmaSp (g ti a b ru pat src cc fm f : Nat) (m : Mask) : Perform := fun bfmt code scale slot s =>
  finishLong (.mmaSp g ti a b ru pat src cc fm f) f { noPending with tile := some ti, product := true }
    (setLatch ru a ((List.range 8).map (cc + ·)) (addRows ti m (fun t r => (List.range (depthOf fm)).map fun j =>
      (aValue s (aFormat fm bfmt) fm a cc t r j, fun n => some (bValue s bfmt code scale slot (metRow s pat cc t r j) n))) s))

theorem exec_mma (g ti a b ru src cc fm f : Nat) (s : State) : exec (.mma g ti a b ru src cc fm f) s =
    productOp (.mma g ti a b ru src cc fm f) (active s g) f (aRegs fm a cc) ti fm src b (depthOf fm) ru a (scaleReg fm cc)
      (performMma g ti a b ru src cc fm f (active s g)) s := rfl

theorem exec_mmaSp (g ti a b ru pat src cc fm f : Nat) (s : State) : exec (.mmaSp g ti a b ru pat src cc fm f) s =
    productOp (.mmaSp g ti a b ru pat src cc fm f) (active s g) f (aRegs fm a cc ++ (List.range 8).map (cc + ·)) ti fm src b
      (depthOf fm * patternM pat / patternN pat) ru a ((List.range 8).map (cc + ·))
      (performMmaSp g ti a b ru pat src cc fm f (active s g)) s := rfl

/-- Settles O36: mma and mma.sp are one shape (productOp), and what each performs is what the statement writes out. -/
theorem matrixProductsComplete : Obligations.MatrixProductsComplete := by
  unfold Obligations.MatrixProductsComplete
  constructor
  · intro s g ti a b ru src cc fm f bfmt slot code scale
    have h := product_completes (bfmt := bfmt) (slot := slot) (code := code) (scale := scale) (exec_mma g ti a b ru src cc fm f s)
    exact h
  · intro s g ti a b ru pat src cc fm f bfmt slot code scale
    have h := product_completes (bfmt := bfmt) (slot := slot) (code := code) (scale := scale) (exec_mmaSp g ti a b ru pat src cc fm f s)
    exact h

end Sys2Proof.Proofs
end

section
/-! SUPPORT. Term decomposition: what mma.dec does with the terms, residual and dropped entries of B, and the proof of the statement about it. -/

namespace Sys2Proof.Proofs

open Machine Laws

/-! ### mma.dec (R152 to R155) -/

theorem waitInFlock_waits {l : OpenOp} (body : State → State) {s : State} (h : waits (openOps s s.core s.slot) l = true) :
    waitInFlock l body s = waitFor .issue s := if_pos h

theorem waitInFlock_goes {l : OpenOp} (body : State → State) {s : State} (h : waits (openOps s s.core s.slot) l = false) :
    waitInFlock l body s = body s := if_neg (by rw [h]; exact Bool.false_ne_true)

/-- The code of stored entry q: one byte or two behind the bitmap (R152). -/
def storedCode (byte : Nat → Nat) (rows w q : Nat) : Nat :=
  byte (rows * 16 + q * (w / 8)) + if w = 16 then 256 * byte (rows * 16 + q * (w / 8) + 1) else 0

theorem storedCode_eq (byte : Nat → Nat) (rows w : Nat) : storedCode byte rows w = fun q =>
    if w = 16 then byte (rows * 16 + q * (w / 8)) + 256 * byte (rows * 16 + q * (w / 8) + 1) else byte (rows * 16 + q * (w / 8)) := by
  funext q
  unfold storedCode
  split <;> rfl

/-- The stored entries of B that are not zero. -/
def storedOf (fmt : Fmt) (rows : Nat) (byte : Nat → Nat) (marked : List (Nat × Nat)) : List DecEntry :=
  (storedEntries (storedCode byte rows (fmt.ebits + fmt.mbits + 1)) marked).filter fun e => e.code % signWeight fmt != 0

/-- Terms, residual and dropped entries (R153). -/
abbrev DecParts := List (List DecEntry) × List DecEntry × List DecEntry

/-- The terms, the residual and the dropped entries of B, with as many terms as s register cc + 1 allows, four at most (R153). -/
def partsOf (s : State) (fm pat cc lossy : Nat) (all : List DecEntry) : DecParts :=
  decompose (compressFmt fm) (patternN pat) (patternM pat) (depthOf fm) (min ((getS (cur s) (cc + 1)).toNat % 8) 4) (lossy == 1) all

/-- What the sum of row 4t+r takes: each term's rows in order, then the residual entries one by one (R154). -/
def decTerms (s : State) (fm a : Nat) (parts : DecParts) (t r : Nat) : List RowTerm :=
  (parts.1.flatMap fun es => (List.range (depthOf fm)).map fun k => (aValue s (aFormat fm 0) fm a 0 t r k, fun n =>
    (es.find? fun e => e.k == k && e.n == n).map fun e => fdecode (compressFmt fm) e.code)) ++
  parts.2.1.map fun e => (aValue s (aFormat fm 0) fm a 0 t r e.k, fun n => if n = e.n then some (fdecode (compressFmt fm) e.code) else none)

/-- mma.dec adds its terms and residual, and will write their counts. -/
def performDec (i : Instr) (m : Mask) (f ti a ru cc fm : Nat) (parts : DecParts) (s : State) : State :=
  finishLong i f
    { noPending with tile := some ti, product := true, sw := [(cc + 2, BitVec.ofNat 32 parts.1.length),
        (cc + 3, BitVec.ofNat 32 (parts.2.2.length * 65536 + parts.2.1.length))] }
    (setLatch ru a [64 + cc, 64 + cc + 1] (addRows ti m (decTerms s fm a parts) s))

/-- mma.dec with its operand read: entries dropped beyond the bound trap it, and else it performs on its tile (R153, R154). -/
def decideDec (i : Instr) (m : Mask) (f ti a ru cc fm : Nat) (all : List DecEntry) (parts : DecParts) (s : State) : State :=
  if parts.2.2 ≠ [] ∧ !boundHolds (compressFmt fm) (getS (cur s) cc).toNat all parts.2.2 then
    takeTrap (decompositionRec s m parts.1.length parts.2.2.length (getS (cur s) cc).toNat (droppedSum (compressFmt fm) parts.2.2)) s
  else withTile ti (performDec i m f ti a ru cc fm parts) s

section

variable {s : State} {g ti a b ru pat src cc lossy fm f : Nat}

theorem exec_mmaDec_waits (h : Safety.Passes (.mmaDec g ti a b ru pat src cc lossy fm f) (active s g) f (aRegs fm a 0) s)
    (hw : waits (openOps s s.core s.slot) { flockOp s mmaAct (active s g) with tile := some ti } = true) :
    exec (.mmaDec g ti a b ru pat src cc lossy fm f) s = .next (waitFor .issue s) := by
  show execMmaDec g ti a b ru pat src cc lossy fm f s = _
  rw [execMmaDec, longOp_passes _ _ _ _ _ _ h, waitInFlock_waits _ hw]

theorem exec_mmaDec_reads {byte : Nat → Nat} {marked : List (Nat × Nat)}
    (h : Safety.Passes (.mmaDec g ti a b ru pat src cc lossy fm f) (active s g) f (aRegs fm a 0) s)
    (hw : waits (openOps s s.core s.slot) { flockOp s mmaAct (active s g) with tile := some ti } = false)
    (hb : readRaw s (active s g) src b (depthOf fm) ((compressFmt fm).ebits + (compressFmt fm).mbits + 1) = .ok (byte, marked)) :
    exec (.mmaDec g ti a b ru pat src cc lossy fm f) s =
      .next (decideDec (.mmaDec g ti a b ru pat src cc lossy fm f) (active s g) f ti a ru cc fm
        (storedOf (compressFmt fm) (depthOf fm) byte marked)
        (partsOf s fm pat cc lossy (storedOf (compressFmt fm) (depthOf fm) byte marked)) s) := by
  show execMmaDec g ti a b ru pat src cc lossy fm f s = _
  rw [execMmaDec, longOp_passes _ _ _ _ _ _ h, waitInFlock_goes _ hw, hb, storedOf, storedCode_eq]
  rfl

end

/-- Settles O37: mma.dec waits at issue, or it reads B and decides on what it would drop (exec_mmaDec_reads, decideDec). -/
theorem termDecompositionCompletesOrTraps : Obligations.TermDecompositionCompletesOrTraps := by
  unfold Obligations.TermDecompositionCompletesOrTraps
  intro s g ti a b ru pat src cc lossy fm f byte marked i m rows fmt w use behind h
  refine ⟨exec_mmaDec_waits h, fun hw hb => ?_⟩
  intro stored all parts bound
  have hi : exec i s = .next (decideDec i m f ti a ru cc fm all parts s) := exec_mmaDec_reads h hw hb
  refine ⟨fun hkeep ht => ⟨decTerms (Safety.took ti s) fm a parts, fun t r => rfl, ?_⟩, fun hdrop hbound => ?_⟩
  · have hdec : ¬(parts.2.2 ≠ [] ∧ (!boundHolds fmt bound all parts.2.2) = true) := by
      rintro ⟨hd, hb'⟩
      rcases hkeep with hnone | hholds
      · exact hd hnone
      · rw [hholds] at hb'
        exact absurd hb' (by decide)
    rw [hi, decideDec, if_neg hdec, withTile_took _ ht]
    rfl
  · have hdec : parts.2.2 ≠ [] ∧ (!boundHolds fmt bound all parts.2.2) = true := ⟨hdrop, by rw [hbound]; rfl⟩
    rw [hi, decideDec, if_pos hdec]
    rfl

end Sys2Proof.Proofs
end

section
/-! SUPPORT. Exits and the retirement of flocks (R138, R274, R275), and the proof of the statement about them. -/

namespace Sys2Proof.Proofs

open Machine Laws

/-! ### exit (R274) -/

theorem place_foldl {α : Type} (f : State → α → State) (h : ∀ s a, (f s a).core = s.core ∧ (f s a).slot = s.slot) (l : List α)
    (s : State) : (l.foldl f s).core = s.core ∧ (l.foldl f s).slot = s.slot := by
  induction l generalizing s with
  | nil => exact ⟨rfl, rfl⟩
  | cons a r ih => exact ⟨(ih (f s a)).1.trans (h s a).1, (ih (f s a)).2.trans (h s a).2⟩

theorem barrierCheck_place (l k n : Nat) (s : State) : (barrierCheck l k n s).core = s.core ∧ (barrierCheck l k n s).slot = s.slot := by
  unfold barrierCheck
  extract_lets w
  split
  · exact place_foldl _ (fun s f => setFlockStack_place w.core f _ s) w.slots (updWg l k (fun w => { w with blocked := 0 }) s)
  · exact ⟨rfl, rfl⟩

/-- The checks of a workgroup's barriers leave the issuing flock the same one. -/
theorem barriersCheck_place (l k : Nat) (s : State) : (barriersCheck l k s).core = s.core ∧ (barriersCheck l k s).slot = s.slot :=
  place_foldl _ (fun s n => barrierCheck_place l k n s) _ s

/-- The flock once the threads of a mask have exited; the last of them leave their place for the record (R275). -/
def exitThreads (clk : Nat) (second : Bool) (p : Path) (m : Mask) (f : Flock) : Flock :=
  let f := restartCount clk { f with exited := f.exited ||| m }
  if f.exited = BitVec.allOnes 32 then { f with exitAt := some (p.pc, if second then 1 else 0, m) } else f

/-- The path that threads leave moves on without them; a slot that they empty is refilled (R274). -/
def leavePath (clk : Nat) (second : Bool) (p : Path) (m : Mask) (f : Flock) : Flock :=
  if p.mask &&& ~~~m = 0 then refill (withPath f second none) second
  else advancePath 1 clk second (withPath f second (some { p with mask := p.mask &&& ~~~m }))

/-- The state once the threads of a mask have left the issuing path, with the barriers of their workgroup checked. -/
def afterExit (p : Path) (m : Mask) (s : State) : State :=
  barriersCheck (cur s).launch (cur s).wg
    (setCurStack (leavePath (clockOf s s.core) s.second p m (exitThreads (clockOf s s.core) s.second p m (cur s))) s)

theorem afterExit_place (p : Path) (m : Mask) (s : State) : (afterExit p m s).core = s.core ∧ (afterExit p m s).slot = s.slot := by
  obtain ⟨hcore, hslot⟩ := barriersCheck_place (cur s).launch (cur s).wg
    (setCurStack (leavePath (clockOf s s.core) s.second p m (exitThreads (clockOf s s.core) s.second p m (cur s))) s)
  obtain ⟨hcore', hslot'⟩ := setFlockStack_place s.core s.slot
    (leavePath (clockOf s s.core) s.second p m (exitThreads (clockOf s s.core) s.second p m (cur s))) s
  exact ⟨hcore.trans hcore', hslot.trans hslot'⟩

/-- What follows the last exit of a flock: its round of a collective is checked, its tiles are freed, and it retires (R138, R199, R275). -/
def afterLastExit (l k core slot pcSlot pc : Nat) (m : Mask) (s : State) : State :=
  retireCheck core slot (slicesCheck l k (cur s).index pcSlot pc m core (freeTiles core slot s))

theorem exec_exitI {s : State} {g n : Nat} {p : Path} (hp : pathOf (cur s) s.second = some p) (ha : activeNeg s g n ≠ 0) :
    exec (.exitI g n) s = .next (if (cur s).exited ||| activeNeg s g n = BitVec.allOnes 32 then
      afterLastExit (cur s).launch (cur s).wg s.core s.slot (if s.second then 1 else 0) p.pc (activeNeg s g n) (afterExit p (activeNeg s g n) s)
      else afterExit p (activeNeg s g n) s) := by
  have hpath : curPath s = p := by rw [curPath, hp, Option.getD_some]
  obtain ⟨hcore, hslot⟩ := afterExit_place p (activeNeg s g n) s
  have here : afterLastExit (cur s).launch (cur s).wg s.core s.slot (if s.second then 1 else 0) p.pc (activeNeg s g n) =
      afterLastExit (cur s).launch (cur s).wg (afterExit p (activeNeg s g n) s).core (afterExit p (activeNeg s g n) s).slot
        (if s.second then 1 else 0) p.pc (activeNeg s g n) := by rw [hcore, hslot]
  show execExitI g n s = _
  rw [execExitI, checked_legal _ _ s rfl, if_neg ha, hpath, here]
  rfl

/-- The flock of exitThreads as one record. -/
theorem exitThreads_eq (clk : Nat) (second : Bool) (p : Path) (m : Mask) (f : Flock) : exitThreads clk second p m f =
    { f with
      swapBase := clk
      exited := f.exited ||| m
      exitAt := if (f.exited ||| m) == BitVec.allOnes 32 then some (p.pc, if second then 1 else 0, m) else f.exitAt } := by
  by_cases h : f.exited ||| m = BitVec.allOnes 32
  · simp only [exitThreads, restartCount, h, if_true, beq_self_eq_true]
  · simp only [exitThreads, restartCount, h, if_false, beq_eq_false_iff_ne.mpr h, Bool.false_eq_true]

/-! ### Retirement (R138, R275) -/

/-- A tile that the flock of a slot holds is released. -/
def releaseHeld (core slot : Nat) (s : State) (t : Nat) : State :=
  if tileHeld (tileAt s core t) && tileHolder (tileAt s core t) == slot then releaseTile core t s else s

theorem releaseHeld_cases (core slot t : Nat) (s : State) :
    (releaseHeld core slot s t = releaseTile core t s) ∨
    (releaseHeld core slot s t = s ∧ holds (tileAt s core t) slot = false) := by
  unfold releaseHeld
  by_cases h : (tileHeld (tileAt s core t) && tileHolder (tileAt s core t) == slot) = true
  · exact .inl (if_pos h)
  · refine .inr ⟨if_neg h, ?_⟩
    rw [holds, Bool.eq_false_of_not_eq_true h, Bool.false_and]

/-- A released tile is held by no flock. -/
theorem not_holds_releaseTile (core t slot : Nat) (s : State) : holds (tileAt (releaseTile core t s) core t) slot = false := by
  rw [releaseTile, tileAt_setTile, if_pos ⟨rfl, rfl⟩, holds, tileHeld, held_tileCtl, Bool.false_and, Bool.false_and]

theorem tileAt_releaseTile_ne (core : Nat) {t u : Nat} (s : State) (h : u ≠ t) : tileAt (releaseTile core t s) core u = tileAt s core u := by
  rw [releaseTile, tileAt_setTile, if_neg fun e => h e.2]

theorem not_holds_releaseHeld (core slot t : Nat) (s : State) : holds (tileAt (releaseHeld core slot s t) core t) slot = false := by
  rcases releaseHeld_cases core slot t s with he | ⟨he, hfree⟩
  · rw [he, not_holds_releaseTile]
  · rw [he, hfree]

/-- A tile that the flock does not hold stays so while others are released. -/
theorem not_holds_releaseHeld_of (core slot u : Nat) {t : Nat} {s : State} (h : holds (tileAt s core t) slot = false) :
    holds (tileAt (releaseHeld core slot s u) core t) slot = false := by
  by_cases hu : t = u
  · subst hu
    exact not_holds_releaseHeld core slot t s
  · rcases releaseHeld_cases core slot u s with he | ⟨he, -⟩
    · rw [he, tileAt_releaseTile_ne core s hu, h]
    · rw [he, h]

theorem not_holds_foldl_of (core slot : Nat) (l : List Nat) {t : Nat} {s : State} (h : holds (tileAt s core t) slot = false) :
    holds (tileAt (l.foldl (releaseHeld core slot) s) core t) slot = false := by
  induction l generalizing s with
  | nil => exact h
  | cons u r ih => exact ih (not_holds_releaseHeld_of core slot u h)

theorem not_holds_foldl (core slot : Nat) {l : List Nat} {t : Nat} (s : State) (ht : t ∈ l) :
    holds (tileAt (l.foldl (releaseHeld core slot) s) core t) slot = false := by
  induction l generalizing s with
  | nil => cases ht
  | cons u r ih =>
    rcases List.mem_cons.mp ht with rfl | hr
    · exact not_holds_foldl_of core slot r (not_holds_releaseHeld core slot t s)
    · exact ih _ hr

/-- Releases change no flock and no byte. -/
theorem releaseHeld_keeps (core slot t : Nat) (s : State) :
    (∀ c f, flockAt (releaseHeld core slot s t) c f = flockAt s c f) ∧ (releaseHeld core slot s t).mem = s.mem := by
  rcases releaseHeld_cases core slot t s with he | ⟨he, -⟩
  · rw [he]
    exact ⟨fun c f => flockAt_setTile _ _ _ s c f, setTile_mem _ _ _ s⟩
  · rw [he]
    exact ⟨fun _ _ => rfl, rfl⟩

theorem foldl_releaseHeld_keeps (core slot : Nat) (l : List Nat) (s : State) :
    (∀ c f, flockAt (l.foldl (releaseHeld core slot) s) c f = flockAt s c f) ∧ (l.foldl (releaseHeld core slot) s).mem = s.mem := by
  induction l generalizing s with
  | nil => exact ⟨fun _ _ => rfl, rfl⟩
  | cons u r ih =>
    obtain ⟨hf, hm⟩ := releaseHeld_keeps core slot u s
    obtain ⟨hf', hm'⟩ := ih (releaseHeld core slot s u)
    exact ⟨fun c f => (hf' c f).trans (hf c f), hm'.trans hm⟩

/-- The state once a retiring flock has let its tiles go. -/
def withoutTiles (core slot : Nat) (s : State) : State := (List.range 4).foldl (releaseHeld core slot) s

theorem retireFlock_eq (core slot : Nat) (s : State) : retireFlock core slot s =
    updWg (flockAt (withoutTiles core slot s) core slot).launch (flockAt (withoutTiles core slot s) core slot).wg
      (fun w => { w with
        slots := setErase w.slots slot
        gone := smapPut w.gone (flockAt (withoutTiles core slot s) core slot).index (flockAt (withoutTiles core slot s) core slot) })
      (setFlock core slot emptyFlock (withoutTiles core slot s)) := rfl

theorem flockAt_retireFlock (core slot : Nat) (s : State) (c f : Nat) :
    flockAt (retireFlock core slot s) c f = if c = core ∧ f = slot then emptyFlock else flockAt s c f := by
  rw [retireFlock_eq, flockAt_updWg, flockAt_setFlock, withoutTiles, (foldl_releaseHeld_keeps core slot _ s).1]

theorem tileAt_setFlock (c f : Nat) (x : Flock) (s : State) (d t : Nat) : tileAt (setFlock c f x s) d t = tileAt s d t := by
  rw [tileAt, coreAt_setFlock, tileAt]

theorem tileAt_retireFlock (core slot : Nat) (s : State) (t : Nat) :
    tileAt (retireFlock core slot s) core t = tileAt (withoutTiles core slot s) core t := tileAt_setFlock core slot _ _ core t

theorem mem_retireFlock (core slot : Nat) (s : State) : (retireFlock core slot s).mem = s.mem := by
  rw [retireFlock_eq, updWg_mem, setFlock_mem, withoutTiles, (foldl_releaseHeld_keeps core slot _ s).2]

theorem exec_flockRetirement {s : State} {core slot : Nat} (hl : (flockAt s core slot).launch ≠ 0)
    (hx : (flockAt s core slot).exited = BitVec.allOnes 32) (hp : (flockAt s core slot).pending = [])
    (hc : ∀ x, (coreAt s core).fabric = some x → x.control ≠ slot) : exec (.flockRetirement core slot) s =
      .next (completeCheck (flockAt s core slot).launch (flockAt s core slot).wg
        (barriersCheck (flockAt s core slot).launch (flockAt s core slot).wg (retireFlock core slot s))) := by
  have hcontrol : (coreAt s core).fabric.any (fun x => x.control == slot) = false := by
    cases hf : (coreAt s core).fabric with
    | none => rfl
    | some x => exact beq_eq_false_iff_ne.mpr (hc x hf)
  simp only [exec, execFlockRetirement, hcontrol, hl, hx, hp, ne_eq, not_true_eq_false, Bool.false_eq_true, false_and, or_self, if_false]

/-- Settles O44: exec_exitI gives both outcomes of an exit, and retireFlock empties its slot and lets each tile go. -/
theorem exitsRetireTheirFlock : Obligations.ExitsRetireTheirFlock := by
  unfold Obligations.ExitsRetireTheirFlock
  constructor
  · intro s g n p hp ha m clk all f h u
    have hf : exitThreads clk s.second p m (cur s) = f := exitThreads_eq clk s.second p m (cur s)
    have hu : afterExit p m s = u := by rw [afterExit, hf]; rfl
    have hi := exec_exitI hp ha
    rw [hu] at hi
    exact ⟨fun hall => hi.trans (congrArg _ (if_neg (beq_eq_false_iff_ne.mp hall))),
      fun hall => hi.trans (congrArg _ (if_pos (beq_iff_eq.mp hall)))⟩
  · intro s core slot f hl hx hpend hc u
    refine ⟨exec_flockRetirement hl hx hpend hc, ?_, fun c k hne => ?_, fun t ht => ?_, ?_⟩
    · exact (flockAt_retireFlock core slot s core slot).trans (if_pos ⟨rfl, rfl⟩)
    · exact (flockAt_retireFlock core slot s c k).trans (if_neg fun e => hne.elim (· e.1) (· e.2))
    · rw [tileAt_retireFlock]
      exact not_holds_foldl core slot s (List.mem_range.mpr ht)
    · exact mem_retireFlock core slot s

end Sys2Proof.Proofs
end

section
/-! SUPPORT. What the bytes of memory read as under a key after writes (R164, R182, R338), and the proof that a store changes its bytes alone. -/

namespace Sys2Proof.Proofs

open Machine Laws

/-! ### Bytes and sectors -/

theorem length_leBytes (n x : Nat) : (leBytes n x).length = n := by
  induction n generalizing x with
  | zero => rfl
  | succ n ih => rw [leBytes, List.length_cons, ih]

/-- Byte k of a number is its digit k to the base 256. -/
theorem getD_leBytes {n k : Nat} (x : Nat) (h : k < n) : (leBytes n x).getD k 0 = BitVec.ofNat 8 (x / 256 ^ k) := by
  induction n generalizing x k with
  | zero => omega
  | succ n ih =>
    rw [leBytes]
    cases k with
    | zero => simp
    | succ k => rw [List.getD_cons_succ, ih _ (by omega), Nat.div_div_eq_div_mul, pow_succ']

theorem length_upFrom (a n : Nat) : (upFrom a n).length = n := by simp [upFrom]

theorem mem_upFrom (a n k : Nat) : k ∈ upFrom a n ↔ a ≤ k ∧ k < a + n := by
  rw [upFrom, ← List.range'_eq_map_range, List.mem_range'_1]

theorem getD_map_upFrom {α : Type} (f : Nat → α) (d : α) (a : Nat) {n k : Nat} (h : k < n) : ((upFrom a n).map f).getD k d = f (a + k) := by
  simp [upFrom, List.getD_eq_getElem?_getD, h]

theorem le_sectorOf_iff (sec a : Nat) : sec ≤ sectorOf a ↔ 32 * sec ≤ a := by
  rw [sectorOf, Nat.le_div_iff_mul_le (by decide), Nat.mul_comm]

theorem sectorOf_le_iff (sec a : Nat) : sectorOf a ≤ sec ↔ a < 32 * sec + 32 := by
  rw [sectorOf, ← Nat.lt_succ_iff, Nat.div_lt_iff_lt_mul (by decide), Nat.succ_mul, Nat.mul_comm]

/-- A sector is 32 bytes. -/
theorem sectorOf_eq_iff (a sec : Nat) : sectorOf a = sec ↔ 32 * sec ≤ a ∧ a < 32 * sec + 32 := by
  rw [le_antisymm_iff, le_sectorOf_iff, sectorOf_le_iff, and_comm]

/-- The sectors of a range are those of its bytes. -/
theorem mem_sectorsOf (loc n sec : Nat) : sec ∈ sectorsOf loc n ↔ ∃ a, loc ≤ a ∧ a < loc + n ∧ sectorOf a = sec := by
  unfold sectorsOf
  split
  · next h =>
    subst h
    exact iff_of_false List.not_mem_nil fun ⟨_, h1, h2, _⟩ => Nat.not_lt.mpr h1 h2
  · next h =>
    have hle : sectorOf loc ≤ sectorOf (loc + n - 1) := Nat.div_le_div_right (Nat.le_sub_one_of_lt (Nat.lt_add_of_pos_right (Nat.pos_of_ne_zero h)))
    rw [mem_upFrom, ← Nat.add_assoc, Nat.add_sub_cancel' hle, Nat.lt_succ_iff, le_sectorOf_iff, sectorOf_le_iff]
    constructor
    · rintro ⟨hl, hu⟩
      have hend : max loc (32 * sec) < loc + n := max_lt (Nat.lt_add_of_pos_right (Nat.pos_of_ne_zero h))
        (Nat.lt_of_le_pred (Nat.add_pos_right loc (Nat.pos_of_ne_zero h)) hu)
      exact ⟨max loc (32 * sec), le_max_left .., hend,
        (sectorOf_eq_iff ..).mpr ⟨le_max_right .., max_lt hl (Nat.lt_add_of_pos_right (by decide))⟩⟩
    · rintro ⟨a, h1, h2, ha⟩
      obtain ⟨hlo, hhi⟩ := (sectorOf_eq_iff ..).mp ha
      exact ⟨h1.trans_lt hhi, Nat.le_sub_one_of_lt (hlo.trans_lt h2)⟩

/-! ### Fields that the memory side keeps -/

/-- The memory side changes no paddock and no key, and does not move on from the flock. -/
theorem memorySide_keeps {s t : State} (h : MemorySide s t) : t.paddocks = s.paddocks ∧ t.keys = s.keys ∧ t.core = s.core ∧ t.slot = s.slot := by
  obtain ⟨⟨k, hd, po, du, e⟩, -, -⟩ := h
  rw [e]
  exact ⟨rfl, rfl, rfl, rfl⟩

theorem paddocks_of_memorySide {s t : State} (h : MemorySide s t) : t.paddocks = s.paddocks := (memorySide_keeps h).1

theorem keys_of_memorySide {s t : State} (h : MemorySide s t) : t.keys = s.keys := (memorySide_keeps h).2.1

theorem core_of_memorySide {s t : State} (h : MemorySide s t) : t.core = s.core := (memorySide_keeps h).2.2.1

theorem slot_of_memorySide {s t : State} (h : MemorySide s t) : t.slot = s.slot := (memorySide_keeps h).2.2.2

theorem leafMaterial_of_memorySide {s t : State} (h : MemorySide s t) (x : Nat) : leafMaterial t x = leafMaterial s x := by
  rw [leafMaterial, keys_of_memorySide h, leafMaterial]

/-- Poisoning a sector changes no byte, no key and no line. -/
theorem poisonSector_eq (kind unit owner : Nat) (s : State) (sec : Nat) :
    ∃ p m, poisonSector kind unit owner s sec = { s with poison := p, mgmt := m } := by
  unfold poisonSector errEntry errEntryFor
  split
  · exact ⟨s.poison, s.mgmt, rfl⟩
  · split
    · exact ⟨_, _, rfl⟩
    · exact ⟨_, _, rfl⟩

/-! ### What is read under a key (R338) -/

/-- A byte reads as it did where its sector's key and bytes are what they were. -/
theorem memUnder_congr {s t : State} (key : Option (BitVec 512)) {a : Nat} (hk : sectorKey t (sectorOf a) = sectorKey s (sectorOf a))
    (hm : ∀ b, sectorOf b = sectorOf a → memGet t.mem b = memGet s.mem b) : memUnder t key a = memUnder s key a := by
  have hl : memGets t.mem (32 * sectorOf a) 32 = memGets s.mem (32 * sectorOf a) 32 := by
    refine List.map_congr_left fun b hb => hm b ?_
    exact (sectorOf_eq_iff ..).mpr ((mem_upFrom ..).mp hb)
  have hf : foreignSector t key (sectorOf a) = foreignSector s key (sectorOf a) := by rw [foreignSector, hk, foreignSector]
  have hw : wrongPlain t key (sectorOf a) = wrongPlain s key (sectorOf a) := by rw [wrongPlain, hk, hl, wrongPlain]
  rw [memUnder, hf, hw, hm a rfl, memUnder]

theorem memUnder_same {s t : State} (hm : t.mem = s.mem) (hk : t.sectorKeys = s.sectorKeys) (key : Option (BitVec 512)) (a : Nat) :
    memUnder t key a = memUnder s key a := memUnder_congr key (by rw [sectorKey, hk, sectorKey]) fun _ _ => by rw [hm]

theorem memUnder_own {s : State} {key : Option (BitVec 512)} {a : Nat} (h : foreignSector s key (sectorOf a) = false) :
    memUnder s key a = memGet s.mem a := by rw [memUnder, h, if_neg Bool.false_ne_true]

/-- A sector that is readied for a write under a key takes that key, with the bytes that the key reads there. -/
theorem claimSector_eq (key : Option (BitVec 512)) (loc n : Nat) (s : State) (sec : Nat) : ∃ p m, claimSector key loc n s sec =
    { s with
      poison := p, mgmt := m, checks := smapSet none s.checks sec none
      mem := if foreignSector s key sec then memPuts s.mem (32 * sec) ((upFrom (32 * sec) 32).map (memUnder s key)) else s.mem
      sectorKeys := if foreignSector s key sec then smapSet none s.sectorKeys sec key else s.sectorKeys } := by
  obtain ⟨p, m, h⟩ : ∃ p m, (if !coversSector loc n sec && sectorFails s key sec then
      poisonSector 3 0xFFFF (locOwner s (32 * sec)) s sec else s) = { s with poison := p, mgmt := m } := by
    split
    · exact poisonSector_eq _ _ _ s sec
    · exact ⟨s.poison, s.mgmt, rfl⟩
  refine ⟨p, m, ?_⟩
  have hf : foreignSector { s with poison := p, mgmt := m } key sec = foreignSector s key sec := rfl
  have hu : memUnder { s with poison := p, mgmt := m } key = memUnder s key := rfl
  rw [claimSector, h]
  cases hs : foreignSector s key sec
  · simp only [hf, hs, Bool.false_eq_true, if_false]
  · simp only [hf, hs, hu, if_true]

theorem claimSector_lines (key : Option (BitVec 512)) (loc n : Nat) (s : State) (sec : Nat) : (claimSector key loc n s sec).lines = s.lines := by
  obtain ⟨p, m, h⟩ := claimSector_eq key loc n s sec
  rw [h]

theorem not_keysDiffer_self (key : Option (BitVec 512)) : keysDiffer key key = false := by simp [keysDiffer]

theorem foreignSector_claimSector (key : Option (BitVec 512)) (loc n : Nat) (s : State) (sec k : Nat) :
    foreignSector (claimSector key loc n s sec) key k = (foreignSector s key k && k != sec) := by
  obtain ⟨p, m, h⟩ := claimSector_eq key loc n s sec
  have hk : sectorKey (claimSector key loc n s sec) k = if foreignSector s key sec = true ∧ k = sec then key else sectorKey s k := by
    rw [h, sectorKey, sectorKey]
    by_cases hs : foreignSector s key sec = true
    · simp [hs]
    · simp [hs]
  rw [foreignSector, hk]
  by_cases hc : foreignSector s key sec = true ∧ k = sec
  · simp [hc, not_keysDiffer_self]
  · rw [if_neg hc]
    by_cases hks : k = sec
    · subst hks
      have : foreignSector s key k = false := by simpa using hc
      rw [this]
      exact this
    · simp [hks, foreignSector]

/-- It reads as before under that key. -/
theorem memUnder_claimSector (key : Option (BitVec 512)) (loc n : Nat) (s : State) (sec a : Nat) :
    memUnder (claimSector key loc n s sec) key a = memUnder s key a := by
  obtain ⟨p, m, h⟩ := claimSector_eq key loc n s sec
  cases hs : foreignSector s key sec
  · rw [hs] at h
    exact memUnder_same (by rw [h]; rfl) (by rw [h]; rfl) key a
  · rw [hs, if_pos rfl, if_pos rfl] at h
    have hm (b : Nat) : memGet (claimSector key loc n s sec).mem b = if sectorOf b = sec then memUnder s key b else memGet s.mem b := by
      rw [h]
      show memGet (memPuts s.mem (32 * sec) _) b = _
      rw [memGet_memPuts, List.length_map, length_upFrom]
      rw [if_congr (sectorOf_eq_iff b sec).symm rfl rfl]
      refine ite_congr rfl (fun hb => ?_) fun _ => rfl
      obtain ⟨h1, h2⟩ := (sectorOf_eq_iff ..).mp hb
      rw [getD_map_upFrom _ _ _ (Nat.sub_lt_left_of_lt_add h1 h2), Nat.add_sub_cancel' h1]
    by_cases ha : sectorOf a = sec
    · rw [memUnder_own (by rw [foreignSector_claimSector, ha]; simp), hm, if_pos ha]
    · refine memUnder_congr key ?_ fun b hb => by rw [hm, if_neg (by rw [hb]; exact ha)]
      rw [h, sectorKey, sectorKey]
      simp [ha]

/-- Readying sectors under a key, each for whatever range: all of them then stand under that key, and read under it as before. -/
theorem foldl_claimSector (key : Option (BitVec 512)) (r : Nat → Nat × Nat) (secs : List Nat) (s : State) :
    let t := secs.foldl (fun s sec => claimSector key (r sec).1 (r sec).2 s sec) s
    (∀ a, memUnder t key a = memUnder s key a) ∧ (∀ k, foreignSector t key k = (foreignSector s key k && !secs.contains k)) ∧
      t.lines = s.lines := by
  induction secs generalizing s with
  | nil => simp
  | cons sec secs ih =>
    obtain ⟨hm, hf, hl⟩ := ih (claimSector key (r sec).1 (r sec).2 s sec)
    refine ⟨fun a => (hm a).trans (memUnder_claimSector ..), fun k => ?_, hl.trans (claimSector_lines ..)⟩
    rw [List.foldl_cons, hf, foreignSector_claimSector, List.contains_cons, Bool.not_or, Bool.and_assoc]
    rfl

/-- Bytes written under a key are what that key reads there, and it reads every other byte as before. -/
theorem memUnder_writeUnder (key : Option (BitVec 512)) (loc : Nat) (d : List Byte) (s : State) (a : Nat) :
    memUnder (writeUnder key loc d s) key a = if loc ≤ a ∧ a < loc + d.length then d.getD (a - loc) 0 else memUnder s key a := by
  obtain ⟨hm, hf, -⟩ := foldl_claimSector key (fun _ => (loc, d.length)) (sectorsOf loc d.length) s
  rw [writeUnder]
  generalize List.foldl _ s (sectorsOf loc d.length) = u at hm hf ⊢
  by_cases hs : sectorOf a ∈ sectorsOf loc d.length
  · have hu : foreignSector u key (sectorOf a) = false := by rw [hf]; simp [hs]
    rw [← hm a, memUnder_own hu, ← memGet_memPuts]
    exact memUnder_own hu
  · have hout (b : Nat) (hb : sectorOf b = sectorOf a) : ¬(loc ≤ b ∧ b < loc + d.length) := fun h =>
      hs ((mem_sectorsOf _ _ _).mpr ⟨b, h.1, h.2, hb⟩)
    rw [if_neg (hout a rfl), ← hm a]
    exact memUnder_congr key rfl fun b hb => by rw [memGet_memPuts, if_neg (hout b hb)]

@[simp] theorem writeUnder_lines (key : Option (BitVec 512)) (loc : Nat) (d : List Byte) (s : State) : (writeUnder key loc d s).lines = s.lines :=
  (foldl_claimSector key (fun _ => (loc, d.length)) (sectorsOf loc d.length) s).2.2

/-! ### Stores to pages that no paddock caches (R164, R182) -/

/-- A page whose home holds its bytes itself, under a key. -/
def homedUnder (s : State) (key : Option (BitVec 512)) (x : Nat) : Prop := leafHome x ≠ 2 ∧ leafMaterial s x = key

theorem homedUnder_of_memorySide {s t : State} (h : MemorySide s t) {key : Option (BitVec 512)} {x : Nat} (hx : homedUnder s key x) :
    homedUnder t key x := ⟨hx.1, (leafMaterial_of_memorySide h x).trans hx.2⟩

theorem storeBytes_homed {s : State} {key : Option (BitVec 512)} {x : Nat} (core : Option Nat) (va : Nat) (d : List Byte)
    (h : homedUnder s key x) : storeBytes core x va d s = writeUnder key (leafLoc x va) d (markDirty x va s) := by
  have hk : leafMaterial (markDirty x va s) x = key := h.2
  rw [storeBytes, if_pos h.1, hk]

/-- A store writes its bytes, and reads every other byte as before. -/
theorem memUnder_storeBytes {s : State} {key : Option (BitVec 512)} {x : Nat} (core : Option Nat) (va : Nat) (d : List Byte)
    (h : homedUnder s key x) (a : Nat) : memUnder (storeBytes core x va d s) key a =
      if leafLoc x va ≤ a ∧ a < leafLoc x va + d.length then d.getD (a - leafLoc x va) 0 else memUnder s key a := by
  rw [storeBytes_homed core va d h, memUnder_writeUnder]
  rfl

/-- Readying what a store covers changes no byte. -/
theorem memUnder_renewSectors {s : State} {key : Option (BitVec 512)} {x : Nat} (covered : Nat → Bool) (va n : Nat)
    (h : homedUnder s key x) (a : Nat) : memUnder (renewSectors covered x va n s) key a = memUnder s key a := by
  unfold renewSectors
  extract_lets loc base t
  have ht : t = s := if_neg h.1
  rw [ht]
  clear_value base
  clear ht t
  generalize List.filter _ (sectorsOf loc n) = secs
  induction secs generalizing s with
  | nil => rfl
  | cons sec secs ih =>
    have hc : (if leafHome x = 2 then claimHeld (leafPad x) base (32 * sec) 32 s sec else claimSector (leafMaterial s x) (32 * sec) 32 s sec) =
        claimSector key (32 * sec) 32 s sec := by rw [if_neg h.1, h.2]
    rw [List.foldl_cons, hc, ih (homedUnder_of_memorySide (memorySide_claimSector ..) h)]
    exact memUnder_claimSector ..

section

variable {n : Nat} {key : Option (BitVec 512)} {value : Nat → Nat}

/-- Every element of a store that is not dropped lies in a page whose home holds its bytes itself, under the key. -/
def lanesHomed (s : State) (key : Option (BitVec 512)) (ls : List Reach) : Prop := ∀ l ∈ ls, l.dropped = false → homedUnder s key l.leaf

theorem lanesHomed_tail {s t : State} (h : MemorySide s t) {l : Reach} {ls : List Reach} (hl : lanesHomed s key (l :: ls)) :
    lanesHomed t key ls := fun x hx hd => homedUnder_of_memorySide h (hl x (List.mem_cons_of_mem l hx) hd)

/-- A byte lies outside the element of a thread, n bytes long. -/
def offLane (n a : Nat) (l : Reach) : Prop := a < leafLoc l.leaf l.va ∨ leafLoc l.leaf l.va + n ≤ a

/-- One element readied for a store: what it covers is not verified. -/
def renewLane (n : Nat) (all : List Reach) (s : State) (l : Reach) : State :=
  if l.dropped then s else renewSectors (rangesCover (lanePlaces n all)) l.leaf l.va n s

/-- One element stored. -/
def storeLane (n : Nat) (value : Nat → Nat) (s : State) (l : Reach) : State :=
  if l.dropped then s else storeBytes (some s.core) l.leaf l.va (leBytes n (value l.t)) s

theorem writeLanes_eq (n : Nat) (value : Nat → Nat) (ls : List Reach) (s : State) : writeLanes n value ls s =
    let t := ls.foldl (storeLane n value) (ls.foldl (renewLane n ls) s)
    clearCovered (lanePlaces n ls) (leaseStamps (some t.core) (laneLeases t ls) t) := rfl

theorem memorySide_renewLane (all : List Reach) (s : State) (l : Reach) : MemorySide s (renewLane n all s l) := by
  unfold renewLane
  split
  · exact .refl s
  · exact memorySide_renewSectors _ _ _ _ s

theorem memorySide_storeLane (s : State) (l : Reach) : MemorySide s (storeLane n value s l) := by
  unfold storeLane
  split
  · exact .refl s
  · exact memorySide_storeBytes _ _ _ _ s

theorem memUnder_foldl_renewLane (all : List Reach) {ls : List Reach} {s : State} (h : lanesHomed s key ls) (a : Nat) :
    memUnder (ls.foldl (renewLane n all) s) key a = memUnder s key a := by
  induction ls generalizing s with
  | nil => rfl
  | cons l ls ih =>
    rw [List.foldl_cons, ih (lanesHomed_tail (memorySide_renewLane all s l) h), renewLane]
    cases hd : l.dropped
    · exact memUnder_renewSectors _ _ _ (h l List.mem_cons_self hd) a
    · rfl

/-- A byte that an element names is the value's, least significant first. -/
theorem memUnder_storeLane {s : State} {l : Reach} (h : homedUnder s key l.leaf) (hd : l.dropped = false) {k : Nat} (hk : k < n) :
    memUnder (storeLane n value s l) key (leafLoc l.leaf l.va + k) = BitVec.ofNat 8 (value l.t / 256 ^ k) := by
  rw [storeLane, hd, if_neg Bool.false_ne_true, memUnder_storeBytes _ _ _ h, length_leBytes,
    if_pos ⟨Nat.le_add_right .., Nat.add_lt_add_left hk _⟩, Nat.add_sub_cancel_left,
    getD_leBytes _ hk]

/-- A byte outside every element keeps what it reads as. -/
theorem memUnder_foldl_storeLane {ls : List Reach} {s : State} (h : lanesHomed s key ls) {a : Nat}
    (ha : ∀ l ∈ ls, l.dropped = false → offLane n a l) : memUnder (ls.foldl (storeLane n value) s) key a = memUnder s key a := by
  induction ls generalizing s with
  | nil => rfl
  | cons l ls ih =>
    rw [List.foldl_cons, ih (lanesHomed_tail (memorySide_storeLane s l) h) fun x hx => ha x (List.mem_cons_of_mem l hx), storeLane]
    cases hd : l.dropped
    · have hoff := ha l List.mem_cons_self hd
      rw [if_neg Bool.false_ne_true, memUnder_storeBytes _ _ _ (h l List.mem_cons_self hd), length_leBytes, if_neg]
      exact fun hin => hoff.elim (Nat.not_lt.mpr hin.1) (Nat.not_le.mpr hin.2)
    · rfl

/-- No element of such a store lies in a lease line. -/
theorem laneLeases_homed (t : State) {s : State} {ls : List Reach} (h : lanesHomed s key ls) : laneLeases t ls = [] := by
  have hnone : ∀ l ∈ ls.filter fun l => !l.dropped, leaseLine t l.leaf l.va = none := fun l hl => by
    rw [List.mem_filter, Bool.not_eq_true'] at hl
    exact if_neg fun hc => (h l hl.1 hl.2).1 hc.1
  rw [laneLeases]
  generalize List.filter _ ls = live at hnone
  induction live with
  | nil => rfl
  | cons l live ih =>
    rw [List.foldl_cons, hnone l List.mem_cons_self]
    exact ih fun x hx => hnone x (List.mem_cons_of_mem l hx)

theorem memUnder_writeLanes {s : State} {ls : List Reach} (h : lanesHomed s key ls) (a : Nat) :
    memUnder (writeLanes n value ls s) key a = memUnder (ls.foldl (storeLane n value) (ls.foldl (renewLane n ls) s)) key a := by
  rw [writeLanes_eq]
  extract_lets t
  rw [laneLeases_homed t h]
  rfl

theorem lanesHomed_renewed (all : List Reach) {s : State} {ls : List Reach} (h : lanesHomed s key ls) :
    lanesHomed (all.foldl (renewLane n all) s) key ls := fun l hl hd =>
  homedUnder_of_memorySide (memorySide_foldl _ (memorySide_renewLane all) all s) (h l hl hd)

end

/-- Settles O27: the elements are stored one after another, each writes its bytes alone (memUnder_storeLane, memUnder_foldl_storeLane), and
what comes before and after writes none. -/
theorem storesChangeTheirBytesAlone : Obligations.StoresChangeTheirBytesAlone := by
  unfold Obligations.StoresChangeTheirBytesAlone
  intro s n key value ls h
  have hs : lanesHomed s key ls := h
  have hr := lanesHomed_renewed (n := n) ls hs
  refine ⟨fun a ha => ?_, fun before after l hls hd hafter k hk => ?_⟩
  · rw [memUnder_writeLanes hs, memUnder_foldl_storeLane hr ha, memUnder_foldl_renewLane ls hs]
  · rw [memUnder_writeLanes hs]
    generalize ls.foldl (renewLane n ls) s = u at hr
    subst hls
    rw [List.foldl_append, List.foldl_cons]
    have hb : MemorySide u (before.foldl (storeLane n value) u) := memorySide_foldl _ memorySide_storeLane before u
    have hrest : lanesHomed (before.foldl (storeLane n value) u) key (l :: after) := fun x hx hxd =>
      homedUnder_of_memorySide hb (hr x (List.mem_append_right before hx) hxd)
    rw [memUnder_foldl_storeLane (lanesHomed_tail (memorySide_storeLane _ l) hrest),
      memUnder_storeLane (hrest l List.mem_cons_self hd) hd hk]
    intro x hx hxd
    rcases hafter x hx hxd with hle | hle
    · exact .inl ((Nat.add_lt_add_left hk _).trans_le hle)
    · exact .inr (hle.trans (Nat.le_add_right ..))

end Sys2Proof.Proofs
end

section
/-! SUPPORT. Held lines: what a load, a fold of partials and a store make of them (R164, R171, R181, R221, R226), and the proof of the statement about them. -/

namespace Sys2Proof.Proofs

open Machine Laws

/-! ### What paddock records say, wherever the memory side changes -/

section

variable {s t : State} (h : MemorySide s t) (pad : Nat)

include h

theorem padRcd_of_memorySide : padRcd t pad = padRcd s pad := by rw [padRcd, paddocks_of_memorySide h]; rfl

theorem padMode_of_memorySide : padMode t pad = padMode s pad := by rw [padMode, padRcd_of_memorySide h, padMode]

theorem padPolicy_of_memorySide : padPolicy t pad = padPolicy s pad := by rw [padPolicy, padRcd_of_memorySide h, padPolicy]

theorem lineBase_of_memorySide (loc : Nat) : lineBase t pad loc = lineBase s pad loc := by
  rw [lineBase, padLine, padRcd_of_memorySide h, lineBase, padLine]

end

/-! ### Finding lines -/

/-- A change of a line that leaves its paddock and its base. -/
def KeepsPlace (f : Line → Line) : Prop := ∀ l, (f l).pad = l.pad ∧ (f l).base = l.base

theorem findLine_updLine {f : Line → Line} (hf : KeepsPlace f) (pad base : Nat) (s : State) :
    findLine (updLine pad base f s) pad base = (findLine s pad base).map f :=
  find_updFirst _ f (fun l hl => by rwa [(hf l).1, (hf l).2]) s.lines

theorem findLine_updLine_ne {f : Line → Line} (hf : KeepsPlace f) {pad base p b : Nat} (h : p ≠ pad ∨ b ≠ base) (s : State) :
    findLine (updLine pad base f s) p b = findLine s p b := by
  refine find_updFirst_ne _ _ f (fun l hl => ?_) s.lines
  rw [Bool.and_eq_true, beq_iff_eq, beq_iff_eq] at hl
  rw [(hf l).1, (hf l).2, hl.1, hl.2]
  rcases h with h | h <;> simp [h.symm]

theorem findLine_lines {s t : State} (h : t.lines = s.lines) (pad base : Nat) : findLine t pad base = findLine s pad base := by
  rw [findLine, h, findLine]

theorem fillLine_held {s : State} {pad base : Nat} {l : Line} (key : Option (BitVec 512)) (h : findLine s pad base = some l) :
    fillLine pad base key s = s := by rw [fillLine, h]

/-- What the last sharer acknowledgement makes of a line (R221). -/
def settled (base : Nat) (l : Line) : Line :=
  if l.st = .updating then { l with st := if l.copies = [] then .unshared else .shared, sharers := l.sharers &&& sharersOf base l.copies } else l

theorem settleLine_eq (pad base : Nat) (s : State) : settleLine pad base s = updLine pad base (settled base) s := rfl

/-- Settling changes a line's state and sharers alone. -/
theorem settled_eq (base : Nat) (l : Line) : ∃ st sh, settled base l = { l with st := st, sharers := sh } := by
  unfold settled
  split
  · exact ⟨_, _, rfl⟩
  · exact ⟨l.st, l.sharers, rfl⟩

theorem keepsPlace_settled (base : Nat) : KeepsPlace (settled base) := fun l => by
  obtain ⟨st, sh, h⟩ := settled_eq base l
  rw [h]
  exact ⟨rfl, rfl⟩

/-- A line that is held is ready once it is settled. -/
theorem readyLine_held {s : State} {pad base : Nat} {l : Line} (x : Nat) (h : findLine s pad base = some l) :
    readyLine x pad base s = updLine pad base (settled base) s := by rw [readyLine, fillLine_held _ h, settleLine_eq]

/-! ### What a load keeps (R164, R181) -/

/-- Memory is as it was, and every line that was held is held with its data. -/
def KeepsBytes (s t : State) : Prop :=
  t.mem = s.mem ∧ ∀ pad base l, findLine s pad base = some l → ∃ l', findLine t pad base = some l' ∧ l'.data = l.data

theorem KeepsBytes.refl (s : State) : KeepsBytes s s := ⟨rfl, fun _ _ l h => ⟨l, h, rfl⟩⟩

theorem KeepsBytes.trans {s t u : State} (h : KeepsBytes s t) (k : KeepsBytes t u) : KeepsBytes s u := by
  refine ⟨k.1.trans h.1, fun pad base l hl => ?_⟩
  obtain ⟨l', hl', hd⟩ := h.2 pad base l hl
  obtain ⟨l'', hl'', hd'⟩ := k.2 pad base l' hl'
  exact ⟨l'', hl'', hd'.trans hd⟩

theorem keepsBytes_lines {s t : State} (hm : t.mem = s.mem) (hl : t.lines = s.lines) : KeepsBytes s t :=
  ⟨hm, fun pad base l h => ⟨l, (findLine_lines hl pad base).trans h, rfl⟩⟩

theorem keepsBytes_updLine {f : Line → Line} (hf : KeepsPlace f) (hd : ∀ l, (f l).data = l.data) (pad base : Nat) (s : State) :
    KeepsBytes s (updLine pad base f s) := by
  refine ⟨rfl, fun p b l hl => ?_⟩
  by_cases h : p ≠ pad ∨ b ≠ base
  · exact ⟨l, (findLine_updLine_ne hf h s).trans hl, rfl⟩
  · obtain ⟨rfl, rfl⟩ : p = pad ∧ b = base := by simpa [not_or] using h
    exact ⟨f l, by rw [findLine_updLine hf, hl]; rfl, hd l⟩

/-- Dropping a line leaves every other. -/
theorem findLine_dropLine_ne {pad base p b : Nat} (h : p ≠ pad ∨ b ≠ base) (s : State) :
    findLine (dropLine pad base s) p b = findLine s p b := by
  have hne (l : Line) (hl : (l.pad == p && l.base == b) = true) : (l.pad == pad && l.base == base) = false := by
    rw [Bool.and_eq_true, beq_iff_eq, beq_iff_eq] at hl
    rw [hl.1, hl.2, Bool.and_eq_false_iff, beq_eq_false_iff_ne, beq_eq_false_iff_ne]
    exact h
  rw [findLine, dropLine, List.find?_filter, findLine]
  congr 1
  funext l
  cases hl : l.pad == p && l.base == b
  · simp
  · simp [hne l hl]

/-- Putting a line in its place leaves every other. -/
theorem findLine_putLine_ne {l : Line} {p b : Nat} (h : p ≠ l.pad ∨ b ≠ l.base) (s : State) :
    findLine (putLine l s) p b = findLine s p b := by
  have hl : ¬(l.pad == p && l.base == b) = true := by
    rw [Bool.and_eq_true, beq_iff_eq, beq_iff_eq, eq_comm, @eq_comm _ l.base]
    exact not_and_or.mpr h
  exact (List.find?_cons_of_neg (p := fun l : Line => l.pad == p && l.base == b) hl).trans (findLine_dropLine_ne h s)

theorem keepsBytes_fillLine (pad base : Nat) (key : Option (BitVec 512)) (s : State) : KeepsBytes s (fillLine pad base key s) := by
  cases h : findLine s pad base with
  | some l => rw [fillLine_held key h]; exact .refl s
  | none =>
    rw [fillLine, h]
    refine ⟨rfl, fun p b l hl => ⟨l, ?_, rfl⟩⟩
    have hne : p ≠ pad ∨ b ≠ base := by
      by_contra hc
      obtain ⟨rfl, rfl⟩ : p = pad ∧ b = base := by simpa [not_or] using hc
      rw [h] at hl
      exact absurd hl (by simp)
    exact (findLine_putLine_ne (l := filledLine s pad base key) hne s).trans hl

theorem keepsBytes_readyLine (x pad base : Nat) (s : State) : KeepsBytes s (readyLine x pad base s) := by
  refine (keepsBytes_fillLine pad base (leafMaterial s x) s).trans ?_
  refine keepsBytes_updLine (keepsPlace_settled base) (fun l => ?_) pad base _
  obtain ⟨st, sh, h⟩ := settled_eq base l
  rw [h]

theorem keepsBytes_setPts (c : Nat) (x : BitVec 16) (caught : Bool) (s : State) : KeepsBytes s (setPts c x caught s) :=
  keepsBytes_lines rfl rfl

theorem keepsBytes_catchUp (c : Nat) (h : BitVec 16) (s : State) : KeepsBytes s (catchUp c h s) := by
  unfold catchUp
  split
  · exact .refl s
  · exact keepsBytes_setPts _ _ _ s

theorem findLine_map {f : Line → Line} (hf : KeepsPlace f) (s : State) (pad base : Nat) :
    findLine { s with lines := s.lines.map f } pad base = (findLine s pad base).map f := by
  rw [findLine, List.find?_map, findLine]
  congr 2
  funext l
  rw [Function.comp_apply, (hf l).1, (hf l).2]

theorem keepsBytes_map {f : Line → Line} (hf : KeepsPlace f) (hd : ∀ l, (f l).data = l.data) (s : State) :
    KeepsBytes s { s with lines := s.lines.map f } :=
  ⟨rfl, fun pad base l hl => ⟨f l, by rw [findLine_map hf, hl]; rfl, hd l⟩⟩

theorem keepsBytes_homeSweep (slice : Nat) (h : BitVec 16) (s : State) : KeepsBytes s (homeSweep slice h s) := by
  refine keepsBytes_map (fun l => ?_) (fun l => ?_) s
  · split <;> exact ⟨rfl, rfl⟩
  · split <;> rfl

theorem keepsBytes_setHomeClock (base : Nat) (h : BitVec 16) (s : State) : KeepsBytes s (setHomeClock base h s) := by
  unfold setHomeClock
  extract_lets slice old t
  have ht : KeepsBytes s t := keepsBytes_lines rfl rfl
  split
  · exact ht.trans (keepsBytes_homeSweep slice h t)
  · exact ht

theorem keepsBytes_homeRead (c pad base : Nat) (s : State) : KeepsBytes s (homeRead c pad base s) := by
  unfold homeRead
  split
  · exact .refl s
  · extract_lets r t h u v
    have ht : KeepsBytes s t := by
      refine keepsBytes_updLine ?_ ?_ pad base s
      · exact fun _ => ⟨rfl, rfl⟩
      · exact fun _ => rfl
    have hv : KeepsBytes u v := keepsBytes_lines rfl rfl
    exact (ht.trans (keepsBytes_setHomeClock base h t)).trans (hv.trans (keepsBytes_catchUp c h v))

theorem keepsBytes_leaseRead (c pad base : Nat) (s : State) : KeepsBytes s (leaseRead c pad base s) := by
  unfold leaseRead
  extract_lets t
  have ht : KeepsBytes s t := by
    unfold t
    split
    · exact .refl s
    · exact keepsBytes_homeRead c pad base s
  split
  · exact ht.trans (keepsBytes_setPts _ _ _ t)
  · exact ht

theorem keepsBytes_shareLine (c pad base : Nat) (s : State) : KeepsBytes s (shareLine c pad base s) := by
  refine keepsBytes_updLine ?_ ?_ pad base s
  · exact fun _ => ⟨rfl, rfl⟩
  · exact fun _ => rfl

/-- What a load does to a line that is ready, by its paddock's mode. -/
def reachLine (core : Option Nat) (pad base : Nat) (s : State) : State :=
  match padMode s pad, core with
  | 0, some c => shareLine c pad base s
  | 1, some c => leaseRead c pad base s
  | 2, _ => foldLine pad base s
  | _, _ => s

theorem loadBytes_held {x : Nat} (h : leafHome x = 2) (core : Option Nat) (va n : Nat) (s : State) : (loadBytes core x va n s).1 =
    reachLine core (leafPad x) (lineBase s (leafPad x) (leafLoc x va))
      (readyLine x (leafPad x) (lineBase s (leafPad x) (leafLoc x va)) s) := by
  unfold loadBytes
  extract_lets loc pad base t u copy
  rw [if_neg (not_not.mpr h)]
  cases copy <;> rfl

theorem reachLine_mem (core : Option Nat) (pad base : Nat) (s : State) : (reachLine core pad base s).mem = s.mem := by
  unfold reachLine
  split
  · rfl
  · exact (keepsBytes_leaseRead _ _ _ s).1
  · rfl
  · rfl

theorem keepsBytes_reachLine {s : State} {pad : Nat} (h : padMode s pad ≠ 2) (core : Option Nat) (base : Nat) :
    KeepsBytes s (reachLine core pad base s) := by
  unfold reachLine
  split
  · exact keepsBytes_shareLine _ _ _ s
  · exact keepsBytes_leaseRead _ _ _ s
  · contradiction
  · exact .refl s

theorem loadBytes_homed {x : Nat} (h : leafHome x ≠ 2) (core : Option Nat) (va n : Nat) (s : State) :
    loadBytes core x va n s = (s, (upFrom (leafLoc x va) n).map (memUnder s (leafMaterial s x))) := if_pos h

/-- No load changes memory. -/
theorem loadBytes_mem (core : Option Nat) (x va n : Nat) (s : State) : (loadBytes core x va n s).1.mem = s.mem := by
  by_cases h : leafHome x = 2
  · rw [loadBytes_held h, reachLine_mem, (keepsBytes_readyLine ..).1]
  · rw [loadBytes_homed h]

/-- A load of a line that no partials are folded into keeps the data of every line. -/
theorem keepsBytes_loadBytes {s : State} {x : Nat} (h : leafHome x = 2) (hm : padMode s (leafPad x) ≠ 2) (core : Option Nat) (va n : Nat) :
    KeepsBytes s (loadBytes core x va n s).1 := by
  rw [loadBytes_held h]
  refine (keepsBytes_readyLine x (leafPad x) (lineBase s (leafPad x) (leafLoc x va)) s).trans (keepsBytes_reachLine ?_ core _)
  rwa [padMode_of_memorySide (memorySide_readyLine ..)]

/-! ### The fold of partials (R226) -/

theorem leNat_leBytes (n x : Nat) : leNat (leBytes n x) = x % 256 ^ n := by
  induction n generalizing x with
  | zero => simp [leBytes, leNat, Nat.mod_one]
  | succ n ih =>
    rw [leBytes, leNat, ih, BitVec.toNat_ofNat, pow_succ' 256]
    exact (Nat.mod_mul ..).symm

/-- Piece k of lists of one length put together. -/
theorem piece_flatMap {α β : Type} {f : α → List β} {n : Nat} (hf : ∀ a, (f a).length = n) (l : List α) (k : Nat) (hk : k < l.length) :
    ((l.flatMap f).drop (n * k)).take n = f l[k] := by
  induction l generalizing k with
  | nil => exact absurd hk (Nat.not_lt_zero k)
  | cons a l ih =>
    rw [List.flatMap_cons]
    cases k with
    | zero => rw [Nat.mul_zero, List.drop_zero, List.take_append_of_le_length (hf a).ge, ← hf a, List.take_length]; rfl
    | succ k =>
      rw [show n * (k + 1) = (f a).length + n * k by rw [hf a, Nat.mul_succ, Nat.add_comm], List.drop_length_add_append]
      exact ih k (Nat.lt_of_succ_lt_succ hk)

/-- The identity of R226, written out. -/
theorem combineIdentity_eq (op : Nat) (float : Bool) : combineIdentity op float =
    if op = 0 then 0 else if float then (if op = 1 then 0x7F800000 else 0xFF800000) else if op = 1 then 0x7FFFFFFF else 0x80000000 := rfl

theorem combineIdentity_lt (op : Nat) (float : Bool) : combineIdentity op float < 2 ^ 32 := by
  rw [combineIdentity_eq]
  repeat' split
  all_goals decide

/-- One word of a line after a core's partial is folded in. -/
theorem word_foldPartial (op : Nat) (float : Bool) {data : List Byte} (part : SMap Word) {k : Nat} (h : 4 * k + 4 ≤ data.length) :
    leNat (((foldPartial op float data part).drop (4 * k)).take 4) = combineOp op float (leNat ((data.drop (4 * k)).take 4))
      ((smapFind part (4 * k)).getD (BitVec.ofNat 32 (combineIdentity op float))).toNat % 2 ^ 32 := by
  have hk : k < (List.range (data.length / 4)).length := by
    rw [List.length_range, ← Nat.succ_le_iff, Nat.le_div_iff_mul_le (by decide), Nat.succ_mul, Nat.mul_comm]
    exact h
  rw [foldPartial, piece_flatMap (fun _ => length_leBytes 4 _) _ k hk, List.getElem_range, leNat_leBytes]
  rfl

/-- A line once its partials are folded in. -/
def folded (op : Nat) (float : Bool) (l : Line) : Line :=
  if l.partials = [] then l
  else { l with data := l.partials.foldl (fun d e => foldPartial op float d e.2) l.data, dirty := true, partials := [] }

theorem foldLine_eq (pad base : Nat) (s : State) :
    foldLine pad base s = updLine pad base (folded (padCombineOp s pad) (padCombineFloat s pad)) s := rfl

theorem folded_eq (op : Nat) (float : Bool) (l : Line) : ∃ b, folded op float l =
    { l with data := l.partials.foldl (fun d e => foldPartial op float d e.2) l.data, dirty := b, partials := [] } := by
  rcases l with ⟨pad, base, data, dirty, key, checks, st, copies, sharers, wts, rts, _ | ⟨e, r⟩⟩
  · exact ⟨dirty, rfl⟩
  · exact ⟨true, rfl⟩

theorem keepsPlace_folded (op : Nat) (float : Bool) : KeepsPlace (folded op float) := fun l => by
  obtain ⟨b, h⟩ := folded_eq op float l
  rw [h]
  exact ⟨rfl, rfl⟩

theorem reachLine_combine {s : State} {pad : Nat} (h : padMode s pad = 2) (core : Option Nat) (base : Nat) :
    reachLine core pad base s = foldLine pad base s := by
  unfold reachLine
  rw [h]
  rfl

theorem loadBytes_combine {s : State} {x : Nat} (h : leafHome x = 2) (hm : padMode s (leafPad x) = 2) (core : Option Nat) (va n : Nat) :
    let base := lineBase s (leafPad x) (leafLoc x va)
    let t := foldLine (leafPad x) base (readyLine x (leafPad x) base s)
    loadBytes core x va n s = (t, lineBytes t (leafPad x) (leafLoc x va) n) := by
  intro base t
  have hr : padMode (readyLine x (leafPad x) base s) (leafPad x) = 2 := by rwa [padMode_of_memorySide (memorySide_readyLine ..)]
  have ht : padMode t (leafPad x) = 2 := by rwa [padMode_of_memorySide (memorySide_foldLine ..)]
  unfold loadBytes
  extract_lets loc pad b u v copy
  have hv : v = t := reachLine_combine hr core base
  have hcopy : copy = none := by
    show (match padMode v pad, core with | 1, some c => copyOf v c pad b | _, _ => none) = none
    rw [hv, show padMode t pad = 2 from ht]
    rfl
  rw [if_neg (not_not.mpr h), hcopy, hv]

/-- A load of a held combine-mode line folds every partial in, and delivers what then stands there. -/
theorem loadBytes_folds {s : State} {x va : Nat} {l : Line} (h : leafHome x = 2) (hm : padMode s (leafPad x) = 2)
    (hl : findLine s (leafPad x) (lineBase s (leafPad x) (leafLoc x va)) = some l) (core : Option Nat) (n : Nat) :
    ∃ l', findLine (loadBytes core x va n s).1 (leafPad x) (lineBase s (leafPad x) (leafLoc x va)) = some l' ∧ l'.partials = [] ∧
      (loadBytes core x va n s).2 = (l'.data.drop (leafLoc x va - lineBase s (leafPad x) (leafLoc x va))).take n ∧
      l'.data = l.partials.foldl (fun d e => foldPartial (padCombineOp s (leafPad x)) (padCombineFloat s (leafPad x)) d e.2) l.data := by
  rw [loadBytes_combine h hm, readyLine_held x hl, foldLine_eq]
  generalize hb : lineBase s (leafPad x) (leafLoc x va) = base at hl
  have hop : padCombineOp (updLine (leafPad x) base (settled base) s) (leafPad x) = padCombineOp s (leafPad x) := rfl
  have hfl : padCombineFloat (updLine (leafPad x) base (settled base) s) (leafPad x) = padCombineFloat s (leafPad x) := rfl
  rw [hop, hfl]
  generalize padCombineOp s (leafPad x) = op
  generalize padCombineFloat s (leafPad x) = float
  obtain ⟨st, sh, hset⟩ := settled_eq base l
  obtain ⟨b, hfold⟩ := folded_eq op float { l with st := st, sharers := sh }
  have hfind : findLine (updLine (leafPad x) base (folded op float) (updLine (leafPad x) base (settled base) s)) (leafPad x) base =
      some { l with
        st := st, sharers := sh, dirty := b, partials := []
        data := l.partials.foldl (fun d e => foldPartial op float d e.2) l.data } := by
    rw [findLine_updLine (keepsPlace_folded op float), findLine_updLine (keepsPlace_settled base), hl, Option.map_some, hset,
      Option.map_some, hfold]
  refine ⟨_, hfind, rfl, ?_, rfl⟩
  have hbase : lineBase (updLine (leafPad x) base (folded op float) (updLine (leafPad x) base (settled base) s)) (leafPad x)
      (leafLoc x va) = base := hb
  simp only [lineBytes, lineData, hbase, hfind]
  rfl

/-! ### A store to a held line (R171, R221) -/

theorem length_overlay {l d : List Byte} {off : Nat} (h : off + d.length ≤ l.length) : (overlay l off d).length = l.length := by
  rw [overlay, List.length_append, List.length_append, List.length_take, List.length_drop, Nat.min_eq_left ((Nat.le_add_right ..).trans h),
    Nat.add_sub_cancel' h]

theorem getD_overlay {l d : List Byte} {off : Nat} (h : off + d.length ≤ l.length) (k : Nat) :
    (overlay l off d).getD k 0 = if off ≤ k ∧ k < off + d.length then d.getD (k - off) 0 else l.getD k 0 := by
  have ht : (l.take off).length = off := by rw [List.length_take, Nat.min_eq_left ((Nat.le_add_right ..).trans h)]
  rw [overlay, List.append_assoc]
  rw [List.getD_eq_getElem?_getD, List.getD_eq_getElem?_getD, List.getD_eq_getElem?_getD]
  rcases Nat.lt_or_ge k off with h1 | h1
  · rw [List.getElem?_append_left (h1.trans_eq ht.symm), List.getElem?_take, if_pos h1, if_neg fun hk => Nat.not_le.mpr h1 hk.1]
  · obtain ⟨j, rfl⟩ := Nat.exists_eq_add_of_le h1
    rw [List.getElem?_append_right (ht.trans_le h1), ht, Nat.add_sub_cancel_left]
    rcases Nat.lt_or_ge j d.length with h2 | h2
    · rw [List.getElem?_append_left h2, if_pos ⟨h1, Nat.add_lt_add_left h2 off⟩]
    · rw [List.getElem?_append_right h2, List.getElem?_drop, if_neg fun hk => Nat.not_lt.mpr h2 (Nat.lt_of_add_lt_add_left hk.2),
        Nat.add_assoc, Nat.add_sub_cancel' h2]

/-- Lines other than one are as they were. -/
def KeepsOthers (pad base : Nat) (s t : State) : Prop := ∀ p b, (p ≠ pad ∨ b ≠ base) → findLine t p b = findLine s p b

theorem KeepsOthers.trans {pad base : Nat} {s t u : State} (h : KeepsOthers pad base s t) (k : KeepsOthers pad base t u) :
    KeepsOthers pad base s u := fun p b hp => (k p b hp).trans (h p b hp)

theorem keepsOthers_updLine {f : Line → Line} (hf : KeepsPlace f) (pad base : Nat) (s : State) :
    KeepsOthers pad base s (updLine pad base f s) :=
  fun _ _ h => findLine_updLine_ne hf h s

theorem keepsOthers_lines {s t : State} (h : t.lines = s.lines) (pad base : Nat) : KeepsOthers pad base s t := fun p b _ => findLine_lines h p b

/-- Readying a held line's sectors changes no byte, and of the lines the check values of that line alone. -/
theorem claimHeld_keeps {s : State} {pad base : Nat} {l : Line} (h : findLine s pad base = some l) (loc n sec : Nat) :
    let t := claimHeld pad base loc n s sec
    t.mem = s.mem ∧ KeepsOthers pad base s t ∧ ∃ c, findLine t pad base = some { l with checks := c } := by
  intro t
  have hc : KeepsPlace fun l => { l with checks := smapSet none l.checks sec none } := fun _ => ⟨rfl, rfl⟩
  cases hf : lineFails l sec
  · have ht : t = s := by simp [t, claimHeld, h, hf]
    rw [ht]
    exact ⟨rfl, fun _ _ _ => rfl, l.checks, h⟩
  · obtain ⟨p, m, hp⟩ : ∃ p m, (if coversSector loc n sec then s else poisonSector 3 0xFFFF (granuleOwner s (32 * sec)) s sec) =
        { s with poison := p, mgmt := m } := by
      split
      · exact ⟨s.poison, s.mgmt, rfl⟩
      · exact poisonSector_eq _ _ _ s sec
    have ht : t = updLine pad base (fun l => { l with checks := smapSet none l.checks sec none }) { s with poison := p, mgmt := m } := by
      simp [t, claimHeld, h, hf, hp]
    rw [ht]
    refine ⟨rfl, (keepsOthers_lines rfl pad base).trans (keepsOthers_updLine hc pad base _), smapSet none l.checks sec none, ?_⟩
    have hp : findLine { s with poison := p, mgmt := m } pad base = some l := h
    rw [findLine_updLine hc, hp]
    rfl

theorem foldl_claimHeld_keeps (loc n : Nat) (secs : List Nat) {s : State} {pad base : Nat} {l : Line} (h : findLine s pad base = some l) :
    let t := secs.foldl (claimHeld pad base loc n) s
    t.mem = s.mem ∧ KeepsOthers pad base s t ∧ ∃ c, findLine t pad base = some { l with checks := c } := by
  induction secs generalizing s l with
  | nil => exact ⟨rfl, fun _ _ _ => rfl, l.checks, h⟩
  | cons sec secs ih =>
    obtain ⟨hm, ho, c, hc⟩ := claimHeld_keeps h loc n sec
    obtain ⟨hm', ho', c', hc'⟩ := ih hc
    exact ⟨hm'.trans hm, ho.trans ho', c', hc'⟩

/-- A store into a held line: its bytes, its mark and its check values change, and no other line; memory does under write-through alone. -/
theorem lineStore_keeps {s : State} {pad loc : Nat} {l : Line} (d : List Byte) (h : findLine s pad (lineBase s pad loc) = some l) :
    let t := lineStore pad loc d s
    (padPolicy s pad = 0 → t.mem = s.mem) ∧ KeepsOthers pad (lineBase s pad loc) s t ∧ ∃ c, findLine t pad (lineBase s pad loc) = some
      { l with checks := c, data := overlay l.data (loc - lineBase s pad loc) d, dirty := l.dirty || (padPolicy s pad == 0) } := by
  intro t
  obtain ⟨hm, ho, c, hc⟩ := foldl_claimHeld_keeps loc d.length (sectorsOf loc d.length) h
  have hside : MemorySide s ((sectorsOf loc d.length).foldl (claimHeld pad (lineBase s pad loc) loc d.length) s) :=
    memorySide_foldl _ (memorySide_claimHeld pad (lineBase s pad loc) loc d.length) _ s
  have ht : t = lineStore pad loc d s := rfl
  unfold lineStore at ht
  extract_lets base u v at ht
  have hp : padPolicy u pad = padPolicy s pad := padPolicy_of_memorySide hside pad
  have hpv : padPolicy v pad = padPolicy s pad := hp
  rw [hpv] at ht
  have hf : KeepsPlace fun l => { l with data := overlay l.data (loc - base) d, dirty := l.dirty || (padPolicy u pad == 0) } :=
    fun _ => ⟨rfl, rfl⟩
  have hv : findLine v pad base = some
      { l with checks := c, data := overlay l.data (loc - base) d, dirty := l.dirty || (padPolicy s pad == 0) } := by
    rw [show v = updLine pad base _ u from rfl, findLine_updLine hf, hc, Option.map_some, hp]
  have htv : t.lines = v.lines := by
    rw [ht, hv]
    split
    · exact writeUnder_lines ..
    · rfl
  refine ⟨fun h0 => ?_, (ho.trans (keepsOthers_updLine hf pad base u)).trans (keepsOthers_lines htv pad base), c, ?_⟩
  · rw [ht, h0, if_neg (by decide)]
    exact hm
  · exact (findLine_lines htv pad base).trans hv

/-- What a store makes of a line that had not been unshared (R221). -/
def updated (l : Line) : Line := if l.st = .unshared then l else { l with st := .updating }

theorem updated_eq (l : Line) : ∃ st, updated l = { l with st := st } := by
  unfold updated
  split
  · exact ⟨l.st, rfl⟩
  · exact ⟨_, rfl⟩

theorem keepsPlace_updated : KeepsPlace updated := fun l => by
  obtain ⟨st, h⟩ := updated_eq l
  rw [h]
  exact ⟨rfl, rfl⟩

/-- A store to a page of a paddock is a store into its line, whose sharers an update-mode paddock then updates. -/
theorem storeBytes_cached {x : Nat} (h : leafHome x = 2) (core : Option Nat) (va : Nat) (d : List Byte) (s : State) :
    let pad := leafPad x
    let base := lineBase s pad (leafLoc x va)
    let t := lineStore pad (leafLoc x va) d (readyLine x pad base (markDirty x va s))
    storeBytes core x va d s = t ∨ storeBytes core x va d s = updLine pad base updated t := by
  intro pad base t
  unfold storeBytes
  extract_lets loc u pad' base'
  rw [if_neg (not_not.mpr h)]
  split
  · exact .inr rfl
  · exact .inl rfl

/-- A store to a held line changes the bytes that it names, and marks a write-back line dirty, whose memory keeps its bytes (R171, R221). -/
theorem storeBytes_held {s : State} {x va : Nat} {l : Line} (h : leafHome x = 2)
    (hl : findLine s (leafPad x) (lineBase s (leafPad x) (leafLoc x va)) = some l) (core : Option Nat) (d : List Byte) :
    let pad := leafPad x
    let base := lineBase s pad (leafLoc x va)
    let t := storeBytes core x va d s
    (padPolicy s pad = 0 → t.mem = s.mem) ∧ KeepsOthers pad base s t ∧ ∃ c st sh, findLine t pad base = some
      { l with
        st := st, sharers := sh, checks := c, data := overlay l.data (leafLoc x va - base) d
        dirty := l.dirty || (padPolicy s pad == 0) } := by
  intro pad base t
  obtain ⟨st, sh, hset⟩ := settled_eq base l
  have hr : readyLine x pad base (markDirty x va s) = updLine pad base (settled base) (markDirty x va s) := readyLine_held x hl
  have hfind : findLine (readyLine x pad base (markDirty x va s)) pad base = some { l with st := st, sharers := sh } := by
    rw [hr, findLine_updLine (keepsPlace_settled base), show findLine (markDirty x va s) pad base = some l from hl, Option.map_some, hset]
  have hside : MemorySide s (readyLine x pad base (markDirty x va s)) :=
    (memorySide_markDirty x va s).trans (memorySide_readyLine x pad base _)
  have hb : lineBase (readyLine x pad base (markDirty x va s)) pad (leafLoc x va) = base := lineBase_of_memorySide hside pad _
  have hp : padPolicy (readyLine x pad base (markDirty x va s)) pad = padPolicy s pad := padPolicy_of_memorySide hside pad
  have hready : KeepsOthers pad base s (readyLine x pad base (markDirty x va s)) := by
    rw [hr]
    exact keepsOthers_updLine (keepsPlace_settled base) pad base (markDirty x va s)
  have hmem : (readyLine x pad base (markDirty x va s)).mem = s.mem := by rw [hr]; rfl
  obtain ⟨hm, ho, c, hc⟩ := lineStore_keeps (loc := leafLoc x va) d (by rw [hb]; exact hfind)
  rw [hb, hp] at hc
  rw [hb] at ho
  rw [hp] at hm
  rcases storeBytes_cached h core va d s with ht | ht
  · have ht' : t = lineStore pad (leafLoc x va) d (readyLine x pad base (markDirty x va s)) := ht
    rw [ht']
    exact ⟨fun h0 => (hm h0).trans hmem, hready.trans ho, c, st, sh, hc⟩
  · have ht' : t = updLine pad base updated (lineStore pad (leafLoc x va) d (readyLine x pad base (markDirty x va s))) := ht
    rw [ht']
    refine ⟨fun h0 => (hm h0).trans hmem, (hready.trans ho).trans (keepsOthers_updLine keepsPlace_updated pad base _), c, ?_⟩
    rw [findLine_updLine keepsPlace_updated, hc, Option.map_some]
    generalize overlay l.data (leafLoc x va - base) d = data
    obtain ⟨st', hst⟩ := updated_eq { l with st := st, sharers := sh, checks := c, data := data, dirty := l.dirty || (padPolicy s pad == 0) }
    exact ⟨st', sh, congrArg some hst⟩

/-- Settles O28: what a load keeps (keepsBytes_loadBytes), the fold of partials (loadBytes_folds, word_foldPartial), and a store into a held
line (storeBytes_held). -/
theorem loadsAndStoresReachTheirHome : Obligations.LoadsAndStoresReachTheirHome := by
  unfold Obligations.LoadsAndStoresReachTheirHome
  refine ⟨fun s core x va n => ?_, fun op float data part k h => ?_, ?_⟩
  · refine ⟨loadBytes_mem core x va n s, fun hx hm => (keepsBytes_loadBytes hx hm core va n).2, fun hx => ?_, ?_⟩
    · rw [loadBytes_homed hx]
      exact ⟨rfl, by rw [List.length_map, length_upFrom], fun k hk => getD_map_upFrom _ _ _ hk⟩
    · intro l base hx hm hl
      exact loadBytes_folds hx hm hl core n
  · rw [word_foldPartial op float part h]
    cases hp : smapFind part (4 * k) with
    | some w => rfl
    | none =>
      rw [Option.getD_none, BitVec.toNat_ofNat, Nat.mod_eq_of_lt (combineIdentity_lt op float), combineIdentity_eq]
  · intro s core x va d l pad base hx hl hfit t
    obtain ⟨hm, ho, c, st, sh, hc⟩ := storeBytes_held hx hl core d
    refine ⟨⟨_, hc, length_overlay hfit, getD_overlay hfit⟩, ho, fun h0 => ⟨hm h0, _, hc, ?_⟩⟩
    rw [h0]
    exact Bool.or_true _

end Sys2Proof.Proofs
end

section
/-! SUPPORT. Accesses whose checks pass, in order and with nothing poisoned (R48, R187, R215, R228, R370), and the proof that paddock applies its record. -/

namespace Sys2Proof.Proofs

open Machine Laws

/-! ### Accesses whose checks pass -/

section

variable {q : Ask} {f : Nat} {op : Op} {ls : List Reach} {s s1 : State}

theorem withLanes_ok (body : List Reach → State → State) (h : checkLanes q s = (s1, .ok ls)) : withLanes q body s = body ls s1 := by
  rw [withLanes, h]

/-- An access that earlier ones keep waiting is held. -/
theorem ordered_held (body : State → State) (h : ¬ Safety.InOrder q op ls s) :
    ordered q f op ls body s = holdBack q.ins f (askOp q op ls s) s := by
  rcases inOrder_cases q.ins f (askOp q op ls s) body s with ⟨hgo, -⟩ | ⟨-, -, hheld⟩
  · exact absurd hgo h
  · exact hheld

/-- An access that none keeps waiting is performed at once. -/
theorem ordered_performed (body : State → State) (h : Safety.InOrder q op ls s) : ordered q f op ls body s = body s := by
  rcases inOrder_cases q.ins f (askOp q op ls s) body s with ⟨-, hgo⟩ | ⟨hp, hk, -⟩
  · exact hgo
  · rcases h with h | h
    · rw [hp] at h; exact absurd h Bool.false_ne_true
    · rw [hk] at h; exact absurd h.symm Bool.false_ne_true

/-- Where the scope checker finds no conflict, an access goes on, and makes its records (R228). -/
theorem withScope_ordered {scope : Nat} {acq rel writing : Bool} (body : (State → State) → State → State)
    (h : Safety.Ordered s scope acq rel writing ls) :
    withScope q scope acq rel writing ls body s = body (Safety.noted s scope acq rel writing ls) s := by
  have hnone : (Safety.orderUnits s scope acq rel writing ls).filterMap (syncConflict s (issuer s) scope acq rel) = [] :=
    List.filterMap_eq_nil_iff.mpr h
  unfold withScope
  extract_lets units
  rw [show units.filterMap (syncConflict s (issuer s) scope acq rel) = [] from hnone]
  rfl

/-- A range that holds no poison is read (R370). -/
theorem rangeBody_reads (body : List Byte → State → State) (h : poisonTrap q (verifyLanes q ls s) ls = none) :
    rangeBody q body ls s = body (readRange q ls (verifyLanes q ls s)).2 (readRange q ls (verifyLanes q ls s)).1 := by
  unfold rangeBody
  extract_lets t
  rw [show poisonTrap q t ls = none from h]

/-- A range whose checks pass is read at its turn, or the instruction is held. -/
theorem withRange_ok (body : List Nat → List Byte → State → State) (h : checkLanes q s = (s1, .ok ls)) :
    (¬ Safety.InOrder q (loadAct false) ls s1 → withRange q f body s = holdBack q.ins f (askOp q (loadAct false) ls s1) s1) ∧
    (Safety.InOrder q (loadAct false) ls s1 → poisonTrap q (verifyLanes q ls s1) ls = none → withRange q f body s =
      body (laneUnits ls) (readRange q ls (verifyLanes q ls s1)).2 (readRange q ls (verifyLanes q ls s1)).1) := by
  rw [withRange, withLanes_ok _ h]
  exact ⟨fun ho => ordered_held _ ho, fun ho hp => by rw [ordered_performed _ ho, rangeBody_reads _ hp]⟩

end

/-! ### paddock (R169, R207) -/

/-- What a paddock instruction does with the record that it has read: a refusal's status, or the resize that it begins. -/
def paddockBody (i : Instr) (f cc : Nat) (u : List Nat) (b : List Byte) (s : State) : State :=
  match applyRecord (leNat b) (fun d => d == (curLaunch s).dom) none s with
  | (s, some st) => finishLong i f { noPending with sw := [(cc, BitVec.ofNat 32 st)], units := u } s
  | (s, none) => finishLong i f { noPending with sw := [(cc, 0)], pad := some (recId (leNat b)), units := u } s

theorem paddockBody_refused {s : State} {b : List Byte} {st : Nat} (i : Instr) (f cc : Nat) (u : List Nat)
    (h : recRefusal s (fun d => d == (curLaunch s).dom) (leNat b) = some st) :
    paddockBody i f cc u b s = finishLong i f { noPending with sw := [(cc, BitVec.ofNat 32 st)], units := u } s := by
  rw [paddockBody, applyRecord, h]

theorem paddockBody_applied {s : State} {b : List Byte} (i : Instr) (f cc : Nat) (u : List Nat)
    (h : recRefusal s (fun d => d == (curLaunch s).dom) (leNat b) = none) :
    paddockBody i f cc u b s =
      finishLong i f { noPending with sw := [(cc, 0)], pad := some (recId (leNat b)), units := u } (installRecord (leNat b) none s) := by
  rw [paddockBody, applyRecord, h]

/-- A paddock instruction with an active thread: its flock's privilege comes first, then its completion flag. -/
theorem exec_paddock {s : State} {g a r cc f : Nat} (hm : active s g ≠ 0) : exec (.paddock g a r cc f) s = .next
    (if !(curLaunch s).priv then takeTrap (trapRec s 0x04 (active s g) [(0, 1, 0x6D)]) s
    else if flagFull s f then waitFor .issue s
    else withRange { askRange (.paddock g a r cc f) (active s g) r 8 (getS (cur s) a).toNat 8 .read rcdRead with formats := some [0, 4] } f
      (paddockBody (.paddock g a r cc f) f cc) s) := by
  show execPaddock g a r cc f s = _
  unfold execPaddock
  extract_lets i m
  rw [checked_legal m _ s (i := i) rfl, if_neg hm]
  rfl

/-- Settles O41: privilege first (exec_paddock), then the record in the order of its flock (withRange_ok), then its refusal or its resize. -/
theorem paddockInstructionCompletes : Obligations.PaddockInstructionCompletes := by
  unfold Obligations.PaddockInstructionCompletes
  intro s g a r cc f i m q hm
  refine ⟨fun hp => ?_, fun hp hf s1 ls hc => ?_⟩
  · rw [exec_paddock hm, hp]
    rfl
  · have hi : exec i s = .next (withRange q f (paddockBody i f cc) s) := by
      rw [exec_paddock hm, hp, hf]
      rfl
    obtain ⟨hheld, hgoes⟩ := withRange_ok (f := f) (paddockBody i f cc) hc
    refine ⟨fun ho => hi.trans (congrArg _ (hheld ho)), fun ho hpoison => ?_⟩
    intro out x acts
    rw [hi, hgoes ho hpoison]
    exact ⟨fun st hst => congrArg _ (paddockBody_refused i f cc _ hst), fun hst => congrArg _ (paddockBody_applied i f cc _ hst)⟩

end Sys2Proof.Proofs
end

section
/-! SUPPORT. Full-empty words, the requests to them and their instructions (R165, R187, R188, R215, R261, R370), and the proof of the statement about them. -/

namespace Sys2Proof.Proofs

open Machine Laws

/-! ### What a request finds at its word (R165, R370) -/

section

variable {r : FeReq} {s : State}

/-- A request to a poisoned word, or one whose check value fails, is not performed (R370). -/
theorem feTry_bad (h : feBad r s = true) : feTry r s = some (fePoison r (feVerify r.loc s)) := by
  rw [feTry, if_pos h]

theorem feTry_load (h : feBad r s = false) (hk : r.kind = 0) (hf : isFull s r.loc = true) :
    feTry r s = some (feDeliver r (some (BitVec.ofNat 32 (leNat (memGets s.mem r.loc 4)))) s) := by
  simp only [feTry, h, hk, hf, Bool.false_eq_true, if_true, if_false]

theorem feTry_take (h : feBad r s = false) (hk : r.kind = 1) (hf : isFull s r.loc = true) :
    feTry r s = some (feDeliver r (some (BitVec.ofNat 32 (leNat (memGets s.mem r.loc 4)))) { s with feFull := setErase s.feFull (r.loc / 4) }) := by
  simp only [feTry, h, hk, hf, Bool.false_eq_true, if_true, if_false]

/-- A load finds an empty word wanting. -/
theorem feTry_load_empty (h : feBad r s = false) (hk : r.kind < 2) (hf : isFull s r.loc = false) : feTry r s = none := by
  rcases Nat.le_one_iff_eq_zero_or_eq_one.mp (Nat.le_of_lt_succ hk) with hk | hk <;>
    simp only [feTry, h, hk, hf, Bool.false_eq_true, if_false]

theorem feTry_store (h : feBad r s = false) (hk : 2 ≤ r.kind) :
    feTry r s = if isFull s r.loc then none else some (feDeliver r none (feFill r.loc r.data s)) := by
  unfold feTry
  rw [h, if_neg Bool.false_ne_true]
  split
  · next h0 => exact absurd (h0 ▸ hk) (by decide)
  · next h1 => exact absurd (h1 ▸ hk) (by decide)
  · rfl

end

/-- A served request's value goes to its flock, and nothing else changes but the schedule. -/
theorem feDeliver_keeps (r : FeReq) (v : Option Word) (s : State) : (feDeliver r v s).mem = s.mem ∧ (feDeliver r v s).feFull = s.feFull ∧
    (feDeliver r v s).sectorKeys = s.sectorKeys := by
  rw [feDeliver]
  exact ⟨due_mem .., due_feFull .., due_sectorKeys ..⟩

/-- A word taken is empty. -/
theorem not_contains_setErase (l : List Nat) (k : Nat) : (setErase l k).contains k = false := by simp [setErase]

theorem contains_setInsert (l : List Nat) (k : Nat) : (setInsert l k).contains k = true := by simp [mem_setInsert]

/-- A word filled holds its datum, and every other byte reads as before. -/
theorem memUnder_feFill (loc : Nat) (v : Word) (s : State) (a : Nat) : memUnder (feFill loc v s) none a =
    if loc ≤ a ∧ a < loc + 4 then BitVec.ofNat 8 (v.toNat / 256 ^ (a - loc)) else memUnder s none a := by
  rw [show memUnder (feFill loc v s) none a = memUnder (writeUnder none loc (leBytes 4 v.toNat) s) none a from rfl, memUnder_writeUnder,
    length_leBytes]
  exact ite_congr rfl (fun h => getD_leBytes _ (Nat.sub_lt_left_of_lt_add h.1 h.2)) fun _ => rfl

theorem memUnder_feDeliver (r : FeReq) (v : Option Word) (s : State) (a : Nat) : memUnder (feDeliver r v s) none a = memUnder s none a :=
  memUnder_same (feDeliver_keeps r v s).1 (feDeliver_keeps r v s).2.2 none a

/-- What a good request finds, and what it leaves. -/
theorem feTry_finds (r : FeReq) (s : State) :
    let full := s.feFull.contains (r.loc / 4)
    feBad r s = false →
    (r.kind = 0 → full = true → ∃ t, feTry r s = some t ∧ t.feFull = s.feFull ∧ t.mem = s.mem) ∧
    (r.kind = 1 → full = true → ∃ t, feTry r s = some t ∧ t.feFull.contains (r.loc / 4) = false ∧ t.mem = s.mem) ∧
    (r.kind < 2 → full = false → feTry r s = none) ∧
    (2 ≤ r.kind → full = true → feTry r s = none) ∧
    (2 ≤ r.kind → full = false → ∃ t, feTry r s = some t ∧ t.feFull.contains (r.loc / 4) = true ∧
      (∀ k < 4, memUnder t none (r.loc + k) = BitVec.ofNat 8 (r.data.toNat / 256 ^ k)) ∧
      ∀ a, a < r.loc ∨ r.loc + 4 ≤ a → memUnder t none a = memUnder s none a) := by
  intro full good
  refine ⟨fun hk hf => ⟨_, feTry_load good hk hf, ?_⟩, fun hk hf => ⟨_, feTry_take good hk hf, ?_⟩, fun hk hf => feTry_load_empty good hk hf,
    fun hk hf => ?_, fun hk hf => ?_⟩
  · obtain ⟨hm, he, -⟩ := feDeliver_keeps r (some (BitVec.ofNat 32 (leNat (memGets s.mem r.loc 4)))) s
    exact ⟨he, hm⟩
  · obtain ⟨hm, he, -⟩ := feDeliver_keeps r (some (BitVec.ofNat 32 (leNat (memGets s.mem r.loc 4))))
      { s with feFull := setErase s.feFull (r.loc / 4) }
    exact ⟨by rw [he]; exact not_contains_setErase .., hm⟩
  · exact (feTry_store good hk).trans (if_pos hf)
  · have hne : ¬ isFull s r.loc = true := by rw [show isFull s r.loc = false from hf]; exact Bool.false_ne_true
    refine ⟨feDeliver r none (feFill r.loc r.data s), (feTry_store good hk).trans (if_neg hne), ?_, fun k hk => ?_, fun a ha => ?_⟩
    · rw [(feDeliver_keeps ..).2.1]
      exact contains_setInsert ..
    · rw [memUnder_feDeliver, memUnder_feFill, if_pos ⟨Nat.le_add_right .., Nat.add_lt_add_left hk _⟩, Nat.add_sub_cancel_left]
    · rw [memUnder_feDeliver, memUnder_feFill, if_neg fun hin => ha.elim (Nat.not_lt.mpr hin.1) (Nat.not_le.mpr hin.2)]

/-! ### Waiting at the slice and at the core (R165, R215) -/

/-- A request that cannot be served waits at its word under a token, or returns to its core where its slice has none. -/
theorem feArrive_waits {r : FeReq} {s : State} (h : feTry r s = none) : feArrive r s =
    if (s.feQueue.countP fun x => homeSlice x.loc == homeSlice r.loc) < 1024 then { s with feQueue := s.feQueue ++ [r] }
    else { s with feRetry := s.feRetry ++ [r] } := by
  rw [feArrive, feTake, h]
  dsimp only
  split <;> rfl

/-- Full-empty accesses of one thread stay in order (R187, R215). -/
theorem keeps_feAsOp (x r : FeReq) : keeps (feAsOp x).op (feAsOp r).op = true := by
  by_cases hx : x.kind < 2 <;> by_cases hr : r.kind < 2 <;> simp [keeps, feAsOp, hx, hr] <;> omega

theorem inMask_feAsOp (r : FeReq) (t : Nat) : inMask (feAsOp r).mask t = true ↔ t < 32 ∧ t = r.thread := by
  rw [inMask_eq, show (feAsOp r).mask = ((1 <<< r.thread : Nat) : Mask) from rfl, getLsbD_threadBit, Bool.and_eq_true, decide_eq_true_eq,
    decide_eq_true_eq]

/-- Two masks meet in a thread. -/
theorem and_ne_zero_iff (a b : Mask) : a &&& b ≠ 0 ↔ ∃ t, inMask a t = true ∧ inMask b t = true := by
  refine ⟨fun h => ?_, ?_⟩
  · by_contra hc
    refine h (BitVec.eq_of_getLsbD_eq fun t _ => ?_)
    have hd : (inMask a t && inMask b t) = false := by
      rw [Bool.and_eq_false_iff, ← Bool.not_eq_true, ← Bool.not_eq_true, ← not_and_or]
      exact fun hab => hc ⟨t, hab⟩
    exact (inMask_and a b t).trans (hd.trans BitVec.getLsbD_zero.symm)
  · rintro ⟨t, ha, hb⟩ h
    have ht : inMask (a &&& b) t = true := by rw [inMask_and, ha, hb]; rfl
    rw [h, inMask_eq] at ht
    exact absurd (BitVec.getLsbD_zero.symm.trans ht) Bool.false_ne_true

/-- What keeps a full-empty request: an earlier operation of its thread that is kept before it, or that touches its word. -/
theorem blocks_feAsOp (e : OpenOp) (r : FeReq) : blocks e (feAsOp r) = true ↔ r.thread < 32 ∧ e.uid < r.uid ∧ inMask e.mask r.thread = true ∧
    (keeps e.op (feAsOp r).op = true ∨ touches e (feAsOp r) r.thread = true) := by
  have hflock : keepsFlock e (feAsOp r) = false := by
    have hact : (feAsOp r).op.act ≠ .mma := by unfold feAsOp; dsimp only; split <;> decide
    have hscratch : (feAsOp r).op.scratch = false := rfl
    have htile : (feAsOp r).tile = none := rfl
    cases ht : e.tile <;> simp [keepsFlock, hact, hscratch, htile, ht]
  have hmask : (e.mask &&& (feAsOp r).mask != 0) = true ↔ r.thread < 32 ∧ inMask e.mask r.thread = true := by
    rw [bne_iff_ne, and_ne_zero_iff]
    constructor
    · rintro ⟨t, he, hr⟩
      obtain ⟨ht, rfl⟩ := (inMask_feAsOp r t).mp hr
      exact ⟨ht, he⟩
    · exact fun ⟨ht, he⟩ => ⟨r.thread, he, (inMask_feAsOp r _).mpr ⟨ht, rfl⟩⟩
  have htouch : (lanes.any fun t => inMask e.mask t && inMask (feAsOp r).mask t && touches e (feAsOp r) t) = true ↔
      r.thread < 32 ∧ inMask e.mask r.thread = true ∧ touches e (feAsOp r) r.thread = true := by
    simp only [List.any_eq_true, Bool.and_eq_true, lanes, List.mem_range, inMask_feAsOp]
    constructor
    · rintro ⟨t, ht, ⟨he, -, rfl⟩, hx⟩
      exact ⟨ht, he, hx⟩
    · exact fun ⟨ht, he, hx⟩ => ⟨r.thread, ht, ⟨he, ht, rfl⟩, hx⟩
  rw [blocks, hflock, Bool.false_or, Bool.and_eq_true, decide_eq_true_eq, Bool.or_eq_true, Bool.and_eq_true, hmask, htouch]
  rw [and_comm (a := keeps e.op (feAsOp r).op = true), and_assoc, ← and_or_left, ← and_or_left]
  exact and_left_comm

/-- A request has to wait at its core. -/
def feWaits (s : State) (r : FeReq) : Prop :=
  (r.thread < 32 ∧ ∃ e ∈ openOps s r.core r.slot, e.uid < r.uid ∧ inMask e.mask r.thread = true ∧
    (keeps e.op (feAsOp r).op = true ∨ touches e (feAsOp r) r.thread = true)) ∨
  ∃ x ∈ s.feRetry, x.uid = r.uid ∧ x.loc = r.loc ∧ x.thread < r.thread

theorem feBefore_iff (s : State) (r : FeReq) : feBefore s r = true ↔ feWaits s r := by
  rw [feBefore, Bool.or_eq_true, waits_iff, feWaits]
  refine or_congr ?_ ?_
  · simp only [blocks_feAsOp]
    exact ⟨fun ⟨e, he, ht, h⟩ => ⟨ht, e, he, h⟩, fun ⟨ht, e, he, h⟩ => ⟨e, he, ht, h⟩⟩
  · simp only [List.any_eq_true, Bool.and_eq_true, beq_iff_eq, decide_eq_true_eq, and_assoc]

theorem feSend_waits {s : State} {r : FeReq} (h : feWaits s r) : feSend r s = { s with feRetry := s.feRetry ++ [r] } := by
  rw [feSend, if_pos ((feBefore_iff s r).mpr h)]

theorem feSend_arrives {s : State} {r : FeReq} (h : ¬ feWaits s r) : feSend r s = feArrive r s := by
  rw [feSend, if_neg fun hc => h ((feBefore_iff s r).mp hc)]

/-- A request behind an unserved one of its thread waits. -/
theorem feWaits_of_earlier {s : State} {r x : FeReq} (hx : x ∈ s.feQueue ++ s.feRetry) (hc : x.core = r.core) (hs : x.slot = r.slot)
    (ht : x.thread = r.thread) (hu : x.uid < r.uid) (h : r.thread < 32) : feWaits s r := by
  refine .inl ⟨h, feAsOp x, List.mem_append_left _ (List.mem_map_of_mem (List.mem_filter.mpr ⟨hx, by simp [hc, hs]⟩)), hu,
    (inMask_feAsOp x _).mpr ⟨h, ht.symm⟩, .inl (keeps_feAsOp x r)⟩

/-! ### ldfe and stfe (R187, R188, R261) -/

theorem memorySide_verifyLanes (q : Ask) (ls : List Reach) (s : State) : MemorySide s (verifyLanes q ls s) := by
  refine memorySide_foldl _ (fun s l => ?_) ls s
  split
  · exact .refl s
  · extract_lets t
    split
    · exact (memorySide_verifyElement _ _ _ s).trans (memorySide_verifyElement _ _ _ t)
    · exact memorySide_verifyElement _ _ _ s

theorem fourAtMost_waits {s : State} (body : State → State) (h : 4 ≤ (cur s).pending.countP (·.fe.isSome)) :
    fourAtMost body s = waitFor .issue s := if_pos h

theorem fourAtMost_goes {s : State} (body : State → State) (h : (cur s).pending.countP (·.fe.isSome) < 4) : fourAtMost body s = body s :=
  if_neg (Nat.not_le.mpr h)

/-- The request of an element, with its flock's register d as its datum. -/
def feRequest (u : State) (core slot kind d : Nat) (l : Reach) : FeReq :=
  { uid := u.fresh, loc := leafLoc l.leaf l.va, va := l.va, core := core, slot := slot, thread := l.t, kind := kind, data := getV (cur u) l.t d }

/-- Sends a request for each element that is not dropped. -/
def sendAll (u : State) (core slot kind d : Nat) (ls : List Reach) (s : State) : State :=
  (ls.filter fun l => !l.dropped).foldl (fun s l => feSend (feRequest u core slot kind d l) s) s

section

variable {q : Ask} {kind d f : Nat} {regs : List Nat} {ls : List Reach} {s s1 : State}

theorem feOp_idle (h : Safety.Accepts q.ins regs s) (hm : q.m = 0) : feOp q kind d f regs s = .next (advance (encode q.ins).length s) := by
  rw [feOp, hm]
  exact longOp_idle q.ins f regs _ s h

theorem feOp_fifth (h : Safety.Passes q.ins q.m f regs s) (h4 : 4 ≤ (cur s).pending.countP (·.fe.isSome)) :
    feOp q kind d f regs s = .next (waitFor .issue s) := by
  rw [feOp, longOp_passes _ _ _ _ _ _ h, fourAtMost_waits _ h4]

/-- A full-empty instruction whose checks pass issues, and sends its requests. -/
theorem feOp_sends (h : Safety.Passes q.ins q.m f regs s) (h4 : (cur s).pending.countP (·.fe.isSome) < 4)
    (hc : checkLanes q s = (s1, .ok ls)) (ho : Safety.Ordered s1 4 (kind != 2) (kind == 2) true ls)
    (hp : poisonTrap q (verifyLanes q ls s1) ls = none) :
    ∃ p, p.fe.isSome = true ∧ p.units = laneUnits ls ∧
      p.vw = (if kind = 2 then [] else (ls.filter (·.dropped)).map fun l => (vKey d l.t, 0)) ∧
      feOp q kind d f regs s = .next (advance (encode q.ins).length (sendAll (verifyLanes q ls s1) s1.core s1.slot kind d ls
        (issueLong f p (Safety.noted s1 4 (kind != 2) (kind == 2) true ls (verifyLanes q ls s1))))) := by
  have hside := memorySide_verifyLanes q ls s1
  rw [feOp, longOp_passes _ _ _ _ _ _ h, fourAtMost_goes _ h4, withLanes_ok _ hc, withScope_ordered _ ho]
  dsimp only
  rw [hp, ← core_of_memorySide hside, ← slot_of_memorySide hside]
  exact ⟨_, rfl, rfl, rfl, rfl⟩

theorem feStrictOp_idle (h : Safety.Accepts q.ins regs s) (hm : q.m = 0) :
    feStrictOp q d f regs s = .next (advance (encode q.ins).length s) := by
  rw [feStrictOp, hm]
  exact longOp_idle q.ins f regs _ s h

theorem feStrictOp_fifth (h : Safety.Passes q.ins q.m f regs s) (h4 : 4 ≤ (cur s).pending.countP (·.fe.isSome)) :
    feStrictOp q d f regs s = .next (waitFor .issue s) := by
  rw [feStrictOp, longOp_passes _ _ _ _ _ _ h, fourAtMost_waits _ h4]

theorem feStrictOp_held (h : Safety.Passes q.ins q.m f regs s) (h4 : (cur s).pending.countP (·.fe.isSome) < 4)
    (hc : checkLanes q s = (s1, .ok ls)) (ho : ¬ Safety.InOrder q stfeAct ls s1) :
    feStrictOp q d f regs s = .next (holdBack q.ins f (askOp q stfeAct ls s1) s1) := by
  rw [feStrictOp, longOp_passes _ _ _ _ _ _ h, fourAtMost_goes _ h4, withLanes_ok _ hc, ordered_held _ ho]

/-- The strict form in its order, with every word empty: it fills them all, and serves what waited there (R188). -/
theorem feStrictOp_fills (h : Safety.Passes q.ins q.m f regs s) (h4 : (cur s).pending.countP (·.fe.isSome) < 4)
    (hc : checkLanes q s = (s1, .ok ls)) (ho : Safety.Ordered s1 4 false true true ls)
    (hp : poisonTrap q (verifyLanes q ls s1) ls = none) (hi : Safety.InOrder q stfeAct ls s1)
    (hb : strictBad (verifyLanes q ls s1) ls = none) :
    let live := ls.filter fun l => !l.dropped
    let filled := clearCovered (lanePlaces 4 ls) (live.foldl (fun x l => feFill (leafLoc l.leaf l.va) (getV (cur x) l.t d) x)
      (Safety.noted s1 4 false true true ls (verifyLanes q ls s1)))
    feStrictOp q d f regs s = .next (Safety.issued q.ins f { noPending with fe := some noFe, units := laneUnits ls }
      (live.foldl (fun x l => feServe x.feQueue.length (leafLoc l.leaf l.va) x) filled)) := by
  intro live filled
  rw [feStrictOp, longOp_passes _ _ _ _ _ _ h, fourAtMost_goes _ h4, withLanes_ok _ hc, ordered_performed _ hi, withScope_ordered _ ho]
  dsimp only
  rw [hp]
  dsimp only
  rw [hb]
  rfl

end

/-- What ldfe asks for. -/
def ldfeAsk (s : State) (g d a r f t c : Nat) : Ask :=
  { askLanes (.ldfe g d a r f t c) (active s g) r (indexOf s false a 0) 4 (c == 1) true false (if t = 1 then .atomic else .read)
      (if t = 1 then fun k => rcdRead k && rcdAtomic k else rcdRead) false with fullEmpty := true }

/-- What stfe asks for. -/
def stfeAsk (s : State) (g d a r f t c : Nat) : Ask :=
  { askLanes (.stfe g d a r f t c) (active s g) r (indexOf s false a 0) 4 (c == 1) true false .write rcdWrite false with fullEmpty := true }

theorem exec_ldfe (g d a r f t c : Nat) (s : State) :
    exec (.ldfe g d a r f t c) s = feOp (ldfeAsk s g d a r f t c) t d f [d, a] s := rfl

theorem exec_stfe (g d a r f c : Nat) (s : State) :
    exec (.stfe g d a r f 0 c) s = feOp (stfeAsk s g d a r f 0 c) 2 d f [d, a] s := rfl

theorem exec_stfe_strict (g d a r f c : Nat) (s : State) :
    exec (.stfe g d a r f 1 c) s = feStrictOp (stfeAsk s g d a r f 1 c) d f [d, a] s := rfl

/-- Settles O30: what a request finds (feTry_finds), where it waits (feArrive_waits, feBefore_iff), and the two shapes of the instructions
(feOp_sends, feStrictOp_fills). -/
theorem fullEmptyRequestsAndInstructionsComplete : Obligations.FullEmptyRequestsAndInstructionsComplete := by
  unfold Obligations.FullEmptyRequestsAndInstructionsComplete
  refine ⟨fun s r => ?_, fun s g d a r f t c ht h4 i hi hpass => ?_, fun s s1 g d a r f t c ls ht h4 => ⟨?_, ?_⟩⟩
  · intro full good
    have hfinds (h : good) := feTry_finds r s h
    refine ⟨fun h => feTry_bad (by simpa [good] using h), fun h => (hfinds h).1, fun h => (hfinds h).2.1, fun h => (hfinds h).2.2.1,
      fun h => (hfinds h).2.2.2.1, fun h => (hfinds h).2.2.2.2, fun h hn => by rw [feArrive_waits h, if_pos hn],
      fun h hn => by rw [feArrive_waits h, if_neg (Nat.not_lt.mpr hn)], ?_⟩
    intro mine waits
    refine ⟨?_, feSend_waits, feSend_arrives⟩
    rintro ⟨x, hx, hc, hs, ht, hu⟩ h
    exact feWaits_of_earlier hx hc hs ht hu h
  · rcases Nat.le_one_iff_eq_zero_or_eq_one.mp (Nat.le_of_lt_succ ht) with rfl | rfl <;> rcases List.mem_pair.mp hi with rfl | rfl
    · exact feOp_fifth hpass h4
    · exact feOp_fifth hpass h4
    · exact feOp_fifth hpass h4
    · exact feStrictOp_fifth hpass h4
  · intro i q
    refine ⟨fun ha hm => feOp_idle ha hm, fun hpass hc ho hp => ?_⟩
    intro s2
    have hk : (t != 2) = true ∧ (t == 2) = false := ⟨bne_iff_ne.mpr (Nat.ne_of_lt ht), beq_eq_false_iff_ne.mpr (Nat.ne_of_lt ht)⟩
    obtain ⟨p, h1, h2, h3, h⟩ := feOp_sends (q := q) (kind := t) (d := d) hpass h4 hc (by rw [hk.1, hk.2]; exact ho) hp
    rw [hk.1, hk.2] at h
    rw [if_neg (Nat.ne_of_lt ht)] at h3
    exact ⟨p, h1, h2, h3, h⟩
  · intro i q
    have hcases : t = 0 ∨ t = 1 := Nat.le_one_iff_eq_zero_or_eq_one.mp (Nat.le_of_lt_succ ht)
    refine ⟨fun ha hm => ?_, fun hpass hc ho hp => ?_⟩
    · rcases hcases with rfl | rfl
      · exact feOp_idle (q := q) ha hm
      · exact feStrictOp_idle (q := q) ha hm
    · intro s2
      refine ⟨?_, ?_, ?_⟩
      · rintro rfl
        exact feOp_sends (q := q) (kind := 2) (d := d) hpass h4 hc ho hp
      · rintro rfl hi
        exact feStrictOp_held (q := q) hpass h4 hc hi
      · rintro rfl hi hb
        exact feStrictOp_fills (q := q) hpass h4 hc ho hp hi hb

end Sys2Proof.Proofs
end

section
/-! SUPPORT. The memory system's own events: returned requests, lines, resizes and clocks (R165, R171, R173 to R175, R221, R225). -/

namespace Sys2Proof.Proofs

open Machine Laws

/-! ### Returned requests (R165) -/

theorem exec_fullEmptyReissue {s : State} {uid : Nat} {r : FeReq}
    (h : s.feRetry.find? (fun r => r.uid == uid && !feBefore s r) = some r) :
    exec (.fullEmptyReissue uid) s = .next ((feTake r { s with feRetry := s.feRetry.erase r }).getD s) := by
  show execFullEmptyReissue uid s = _
  rw [execFullEmptyReissue, h]

/-! ### Lines that settle and lines that are evicted (R171, R221) -/

/-- The last acknowledgement settles an updating line, and touches no other. -/
theorem exec_updateSharerAck {s : State} {pad base : Nat} {l : Line} (h : findLine s pad base = some l) (hst : l.st = .updating) :
    ∃ t, exec (.updateSharerAck pad base) s = .next t ∧ findLine t pad base = some { l with
        st := if l.copies = [] then .unshared else .shared, sharers := l.sharers &&& sharersOf base l.copies } ∧
      KeepsOthers pad base s t ∧ t = { s with lines := t.lines } := by
  refine ⟨updLine pad base (settled base) s, rfl, ?_, keepsOthers_updLine (keepsPlace_settled base) pad base s, rfl⟩
  rw [findLine_updLine (keepsPlace_settled base), h, Option.map_some, settled, if_pos hst]

theorem findLine_dropLine (pad base : Nat) (s : State) : findLine (dropLine pad base s) pad base = none := by
  rw [findLine, dropLine, List.find?_filter, List.find?_eq_none]
  intro l _
  cases l.pad == pad && l.base == base <;> simp

theorem keepsOthers_dropLine (pad base : Nat) (s : State) : KeepsOthers pad base s (dropLine pad base s) :=
  fun _ _ h => findLine_dropLine_ne h s

/-- A line cleaned stays, clean, and a dirty one has written its bytes home. -/
theorem lineClean_keeps {s : State} {pad base : Nat} {l : Line} (h : findLine s pad base = some l) :
    let t := lineClean pad base s
    t.mem = (if l.dirty then (writeUnder l.key base l.data s).mem else s.mem) ∧ KeepsOthers pad base s t ∧
      findLine t pad base = some { l with dirty := false } := by
  intro t
  have hf : KeepsPlace fun l => { l with dirty := false } := fun _ => ⟨rfl, rfl⟩
  cases hd : l.dirty
  · have ht : t = s := by simp [t, lineClean, h, hd]
    rw [ht, h]
    exact ⟨rfl, fun _ _ _ => rfl, by rw [← hd]⟩
  · have ht : t = updLine pad base (fun l => { l with dirty := false }) { writeUnder l.key base l.data s with
        checks := l.checks.foldl (fun m e => smapSet none m e.1 e.2) (writeUnder l.key base l.data s).checks } := by
      simp [t, lineClean, h, hd]
    have hl := writeUnder_lines l.key base l.data s
    generalize writeUnder l.key base l.data s = w at ht hl ⊢
    rw [ht]
    refine ⟨rfl, (keepsOthers_lines (by exact hl) pad base).trans (keepsOthers_updLine hf pad base _), ?_⟩
    rw [findLine_updLine hf, findLine_lines (s := s) (by exact hl), h]
    rfl

/-- A line that is not updating is evicted: dirty data goes home, and partials keep its place. -/
theorem exec_paddockLineEviction {s : State} {pad base : Nat} {l : Line} (h : findLine s pad base = some l) (hst : l.st ≠ .updating) :
    ∃ t, exec (.paddockLineEviction pad base) s = .next t ∧
      findLine t pad base = (if l.partials = [] then none else some { l with dirty := false }) ∧ KeepsOthers pad base s t ∧
      t.mem = if l.dirty then (writeUnder l.key base l.data s).mem else s.mem := by
  obtain ⟨hm, ho, hf⟩ := lineClean_keeps h
  have hi : exec (.paddockLineEviction pad base) s =
      .next (if l.partials ≠ [] then lineClean pad base s else dropLine pad base (lineClean pad base s)) := by
    show execPaddockLineEviction pad base s = _
    simp only [execPaddockLineEviction, h, if_neg hst]
  by_cases hp : l.partials = []
  · rw [if_neg (not_not.mpr hp)] at hi
    exact ⟨_, hi, by rw [if_pos hp]; exact findLine_dropLine .., ho.trans (keepsOthers_dropLine pad base _), hm⟩
  · rw [if_pos hp] at hi
    exact ⟨_, hi, by rw [if_neg hp]; exact hf, ho, hm⟩

/-! ### Resizes (R173 to R175) -/

theorem updPad_eq {s : State} {pad : Nat} {p : Paddock} (f : Paddock → Paddock) (h : smapFind s.paddocks pad = some p) :
    updPad pad f s = { s with paddocks := smapPut s.paddocks pad (f p) } := by rw [updPad, h]

/-- A resize changed, with everything else as it was. -/
theorem updResize_changes {s : State} {pad : Nat} {p : Paddock} {z : Resize} (f : Resize → Resize) (h : smapFind s.paddocks pad = some p)
    (hz : p.resize = some z) : updResize pad f s = { s with paddocks := (updResize pad f s).paddocks } ∧
      smapFind (updResize pad f s).paddocks pad = some { p with resize := some (f z) } := by
  rw [updResize, updPad_eq _ h]
  refine ⟨rfl, ?_⟩
  show smapFind (smapPut _ _ _) _ = _
  rw [find_put, if_pos rfl, hz, Option.map_some]

theorem memorySide_moveLine (pad base : Nat) (s : State) : MemorySide s (moveLine pad base s) := by
  have h := (memorySide_settleLine pad base s).trans ((memorySide_foldLine pad base _).trans (memorySide_lineClean pad base _))
  unfold moveLine
  extract_lets t stays
  split
  · exact h
  · exact h.trans (memorySide_lines t _)

theorem memorySide_moveFor (pad base : Nat) (z : Resize) (s : State) : MemorySide s (moveFor pad base z s) := by
  unfold moveFor
  extract_lets t
  have ht : MemorySide s t := by
    unfold t
    split
    · exact memorySide_moveLine pad base s
    · split
      · exact memorySide_foldLine pad base s
      · exact .refl s
  split
  · exact ht.trans (memorySide_moveLine 0 base t)
  · exact ht

section

variable {s : State} {pad : Nat} {p : Paddock} {z : Resize} (h : smapFind s.paddocks pad = some p) (hz : p.resize = some z)

include h hz

theorem exec_paddockLineMove {x : Nat} (hx : x ∈ z.departing ++ z.folding ++ z.zero) :
    ∃ t, exec (.paddockLineMove pad x) s = .next (padPoke pad t) ∧ t = { moveFor pad x z s with paddocks := t.paddocks } ∧
      smapFind t.paddocks pad = some { p with resize := some { z with
        departing := setErase z.departing x, folding := setErase z.folding x, zero := setErase z.zero x } } := by
  have hm : smapFind (moveFor pad x z s).paddocks pad = some p := by rw [paddocks_of_memorySide (memorySide_moveFor ..), h]
  obtain ⟨he, hf⟩ := updResize_changes (fun z => { z with
    departing := setErase z.departing x, folding := setErase z.folding x, zero := setErase z.zero x }) hm hz
  refine ⟨_, ?_, he, hf⟩
  show execPaddockLineMove pad x s = _
  rw [execPaddockLineMove, h, Option.bind_some, hz]
  exact congrArg _ (if_pos (List.contains_iff_mem.mpr hx))

theorem exec_paddockShareArrival {x : Nat} (hx : x ∈ z.arriving) (hw : windowInBank s z x = false)
    (h0 : ∀ b ∈ z.zero, takesZero (padRcd s pad) x b = false) :
    ∃ t, exec (.paddockShareArrival pad x) s = .next (due (.paddockResizeComplete pad) t) ∧ t = { s with paddocks := t.paddocks } ∧
      smapFind t.paddocks pad = some { p with resize := some { z with arriving := setErase z.arriving x } } := by
  obtain ⟨he, hf⟩ := updResize_changes (fun z => { z with arriving := setErase z.arriving x }) h hz
  have hzero : z.zero.any (takesZero (padRcd s pad) x) = false := List.any_eq_false.mpr fun b hb => by simp [h0 b hb]
  refine ⟨_, ?_, he, hf⟩
  show execPaddockShareArrival pad x s = _
  rw [execPaddockShareArrival, h, Option.bind_some, hz]
  exact congrArg _ (if_pos ⟨List.contains_iff_mem.mpr hx, by rw [hw]; rfl, by rw [hzero]; rfl⟩)

end

theorem paddocks_foldl {α : Type} (f : State → α → State) (h : ∀ s a, (f s a).paddocks = s.paddocks) (l : List α) (s : State) :
    (l.foldl f s).paddocks = s.paddocks := by
  induction l generalizing s with
  | nil => rfl
  | cons a r ih => exact (ih (f s a)).trans (h s a)

theorem queueError_paddocks (q code : Nat) (s : State) : (queueError q code s).paddocks = s.paddocks := by
  unfold queueError
  split
  · rfl
  · rename_i x _
    have h := paddocks_of_memorySide (memorySide_deviceWrite 0 true (s.mgmt.qTable + 64 * q + 32) (leBytes 1 code ++ leBytes 7 x.rd) s)
    split
    rename_i e
    rw [e] at h
    exact h

theorem signalDone_paddocks (q dom va status cause index done : Nat) (s : State) :
    (signalDone q dom va status cause index done s).paddocks = s.paddocks := by
  unfold signalDone
  extract_lets body
  split
  · rfl
  · have hw := memorySide_deviceWrite dom true (va + 8) body s
    split <;> rename_i e <;> rw [e] at hw
    · exact (queueError_paddocks q 3 _).trans (paddocks_of_memorySide hw)
    · rename_i u
      have hr := hw.trans (memorySide_deviceReadNat dom true va 8 u)
      split <;> rename_i e <;> rw [e] at hr
      · exact (queueError_paddocks q 3 _).trans (paddocks_of_memorySide hr)
      · rename_i v x
        have hz := hr.trans (memorySide_deviceWrite dom true va (leBytes 8 ((x + 2 ^ 64 - 1) % 2 ^ 64)) v)
        split <;> rename_i e <;> rw [e] at hz
        · exact (queueError_paddocks q 3 _).trans (paddocks_of_memorySide hz)
        · exact paddocks_of_memorySide hz

theorem packetDone_paddocks (q seq : Nat) (s : State) : (packetDone q seq s).paddocks = s.paddocks := by
  unfold packetDone
  split
  · rfl
  · exact due_paddocks _ _

theorem autoSwitch_paddocks (s : State) : (autoSwitch s).paddocks = s.paddocks := by
  unfold autoSwitch
  extract_lets on
  split
  · rfl
  · split <;> rfl

theorem padDelivered_paddocks (pad : Nat) (s : State) : (padDelivered pad s).paddocks = s.paddocks := by
  refine paddocks_foldl _ (fun s k => paddocks_foldl _ (fun s e => ?_) _ s) _ s
  split
  · rfl
  · extract_lets f g t
    have ht : t.paddocks = s.paddocks := due_paddocks _ _
    split
    · exact (due_paddocks _ _).trans ht
    · exact ht

/-- The paddocks once a resize has ended: one that is deleted goes, any other stands as its record says (R173, R175). -/
def resizeOver (pad : Nat) (p : Paddock) (s : State) : State :=
  if p.deleting then { s with paddocks := smapDel s.paddocks pad }
  else updPad pad (fun p => { p with resize := none, withdrawn := stillWithdrawn p }) s

/-- Who delivered the record is told of its end (R169). -/
def tellResize (pad : Nat) (signal : Option PadSignal) (s : State) : State :=
  match signal with
  | some x => packetDone x.queue x.seq (signalDone x.queue x.dom x.va 0 0 0 0 s)
  | none => padDelivered pad s

theorem tellResize_paddocks (pad : Nat) (signal : Option PadSignal) (s : State) : (tellResize pad signal s).paddocks = s.paddocks := by
  cases signal with
  | some x => exact (packetDone_paddocks _ _ _).trans (signalDone_paddocks _ _ _ _ _ _ _ s)
  | none => exact padDelivered_paddocks pad s

theorem find_resizeOver {s : State} {pad : Nat} {p : Paddock} (h : smapFind s.paddocks pad = some p) :
    smapFind (resizeOver pad p s).paddocks pad =
      if p.deleting then none else some { p with resize := none, withdrawn := stillWithdrawn p } := by
  unfold resizeOver
  split
  · show smapFind (smapDel _ _) _ = _
    rw [find_del, if_pos rfl]
  · rw [updPad_eq _ h]
    show smapFind (smapPut _ _ _) _ = _
    rw [find_put, if_pos rfl]

/-- A resize of which nothing is left to move ends (R175). -/
theorem exec_paddockResizeComplete {s : State} {pad : Nat} {p : Paddock} {z : Resize} (h : smapFind s.paddocks pad = some p)
    (hz : p.resize = some z) (hd : z.departing = []) (hf : z.folding = []) (h0 : z.zero = []) (ha : z.arriving = []) :
    exec (.paddockResizeComplete pad) s = .next (tellResize pad z.signal (autoSwitch (resizeOver pad p s))) := by
  have hnone : ¬(z.departing ≠ [] ∨ z.folding ≠ [] ∨ z.zero ≠ [] ∨ z.arriving ≠ []) := by simp [hd, hf, h0, ha]
  show execPaddockResizeComplete pad s = _
  rw [execPaddockResizeComplete, h]
  dsimp only
  rw [hz]
  exact congrArg _ (if_neg hnone)

theorem find_resizeComplete {s : State} {pad : Nat} {p : Paddock} (signal : Option PadSignal) (h : smapFind s.paddocks pad = some p) :
    smapFind (tellResize pad signal (autoSwitch (resizeOver pad p s))).paddocks pad =
      if p.deleting then none else some { p with resize := none, withdrawn := stillWithdrawn p } := by
  rw [tellResize_paddocks, autoSwitch_paddocks, find_resizeOver h]

/-! ### Clocks (R225) -/

theorem coreAt_setPts (c : Nat) (x : BitVec 16) (caught : Bool) (s : State) :
    (∃ ls, coreAt (setPts c x caught s) c = { coreAt s c with pts := x, leases := ls }) ∧
      ∀ d, d ≠ c → coreAt (setPts c x caught s) d = coreAt s d := by
  rw [setPts]
  refine ⟨?_, fun d hd => by rw [coreAt_setCore, if_neg hd]⟩
  rw [coreAt_setCore, if_pos rfl]
  split
  · exact ⟨_, rfl⟩
  · exact ⟨(coreAt s c).leases, rfl⟩

/-- A core's clock ticks by itself: its timestamp and its count of ticks move on by one. -/
theorem exec_autoTick {s : State} {core : Nat} (hon : s.autoOn = true) (ho : 0 < owedTicks s core) : ∃ t, exec (.autoTick core) s = .next t ∧
    (coreAt t core).pts = (coreAt s core).pts + 1 ∧ (coreAt t core).autoTicks = (coreAt s core).autoTicks + 1 ∧
    (∀ c, c ≠ core → coreAt t c = coreAt s c) ∧ t = { s with cores := t.cores } := by
  obtain ⟨⟨ls, hc⟩, ho'⟩ := coreAt_setPts core ((coreAt s core).pts + 1) false s
  have hi : exec (.autoTick core) s = .next (setCore core
      { coreAt (setPts core ((coreAt s core).pts + 1) false s) core with
        autoTicks := (coreAt (setPts core ((coreAt s core).pts + 1) false s) core).autoTicks + 1 }
      (setPts core ((coreAt s core).pts + 1) false s)) := by
    show execAutoTick core s = _
    rw [execAutoTick, if_pos ⟨hon, ho⟩]
  refine ⟨_, hi, ?_, ?_, fun c hne => ?_, rfl⟩
  · rw [coreAt_setCore, if_pos rfl, hc]
  · rw [coreAt_setCore, if_pos rfl, hc]
  · rw [coreAt_setCore, if_neg hne, ho' c hne]

end Sys2Proof.Proofs
end

section
/-! SUPPORT. Home changes: where a page's bytes stand after one (R229, R338), and the proof of the statement about lines, paddocks and pages. -/

namespace Sys2Proof.Proofs

open Machine Laws

/-! ### Sparse entries moved from one range to another -/

theorem inRange_iff (a n k : Nat) : inRange a n k = true ↔ a ≤ k ∧ k < a + n := by
  rw [inRange, Bool.and_eq_true, decide_eq_true_eq, decide_eq_true_eq]

theorem find_none_of_not_mem {α : Type} {m : SMap α} {k : Nat} (h : k ∉ m.map (·.1)) : smapFind m k = none := by
  induction m with
  | nil => rfl
  | cons e r ih =>
    obtain ⟨j, v⟩ := e
    rw [List.map_cons, List.mem_cons, not_or] at h
    rw [smapFind, if_neg (Ne.symm h.1), ih h.2]

/-- Entries of one range listed at their places in another: there a key reads as at its old place, where that was listed. -/
theorem find_foldl_put {α : Type} {a b n : Nat} (l : SMap α) (hl : ∀ e ∈ l, inRange a n e.1 = true) (hd : (l.map (·.1)).Nodup) (m : SMap α)
    (k : Nat) : smapFind (l.foldl (fun m e => smapPut m (e.1 - a + b) e.2) m) k =
      (if inRange b n k then smapFind l (k - b + a) else none).or (smapFind m k) := by
  induction l generalizing m with
  | nil => simp [smapFind]
  | cons e r ih =>
    obtain ⟨j, v⟩ := e
    obtain ⟨hj, hn⟩ := (inRange_iff ..).mp (hl (j, v) List.mem_cons_self)
    obtain ⟨i, rfl⟩ := Nat.exists_eq_add_of_le hj
    rw [List.map_cons, List.nodup_cons] at hd
    rw [List.foldl_cons, ih (fun e he => hl e (List.mem_cons_of_mem _ he)) hd.2, find_put, smapFind, Nat.add_sub_cancel_left]
    by_cases hb : inRange b n k = true
    · obtain ⟨e, rfl⟩ := Nat.exists_eq_add_of_le ((inRange_iff ..).mp hb).1
      rw [if_pos hb, if_pos hb, Nat.add_sub_cancel_left, Nat.add_comm e a]
      by_cases hei : e = i
      · subst hei
        rw [find_none_of_not_mem hd.1, if_pos (Nat.add_comm b e), if_pos rfl]
        rfl
      · rw [if_neg fun h => hei (Nat.add_left_cancel (h.trans (Nat.add_comm i b))), if_neg fun h => hei (Nat.add_left_cancel h).symm]
    · rw [if_neg hb, if_neg hb, if_neg]
      rintro rfl
      rw [Nat.add_comm i b] at hb
      exact hb ((inRange_iff ..).mpr ⟨Nat.le_add_right .., Nat.add_lt_add_left (Nat.lt_of_add_lt_add_left hn) b⟩)

/-- What a key reads as after entries have been copied from one range over another. -/
theorem get_copyKeys {α : Type} (d : α) (a b n : Nat) {m : SMap α} (h : (m.map (·.1)).Nodup) (k : Nat) :
    smapGet d (copyKeys a b n m) k = if inRange b n k then smapGet d m (k - b + a) else smapGet d m k := by
  have hr : ∀ e ∈ m.filter fun e => inRange a n e.1, inRange a n e.1 = true := fun e he => (List.mem_filter.mp he).2
  have hd : ((m.filter fun e => inRange a n e.1).map (·.1)).Nodup := h.sublist (List.filter_sublist.map _)
  rw [smapGet, copyKeys, find_foldl_put _ hr hd, find_filter (inRange a n), find_filter fun k => !inRange b n k]
  by_cases hb : inRange b n k = true
  · have hk := (inRange_iff ..).mp hb
    have ha : inRange a n (k - b + a) = true := by
      rw [Nat.add_comm, inRange_iff]
      exact ⟨Nat.le_add_right .., Nat.add_lt_add_left (Nat.sub_lt_left_of_lt_add hk.1 hk.2) a⟩
    simp only [hb, ha, if_true, Bool.not_true, Bool.false_eq_true, if_false, Option.or_none, smapGet]
  · rw [Bool.not_eq_true] at hb
    simp only [hb, Bool.not_false, Bool.false_eq_true, if_true, if_false, Option.none_or, smapGet]

theorem nodup_of_wf {m : List Host.Cell} (h : Memory.wf m = true) : (m.map (·.1)).Nodup :=
  ((wf_iff 0 m).mp h).1.imp fun h => Nat.ne_of_lt h

/-! ### The bytes of a page that moves (R229, R338) -/

/-- The sectors of a list, read from one place and written at another, one after another. -/
def putSectors (a b : Nat) (old : Nat → Byte) (ks : List Nat) (m : List Host.Cell) : List Host.Cell :=
  ks.foldl (fun m k => memPuts m (32 * k - a + b) ((upFrom (32 * k) 32).map old)) m

/-- At its new place a byte of these sectors is what it was read as, and any other byte is what it was. -/
theorem memGet_putSectors {a : Nat} (b : Nat) (old : Nat → Byte) {ks : List Nat} (hk : ∀ k ∈ ks, a ≤ 32 * k) (m : List Host.Cell) (e : Nat) :
    memGet (putSectors a b old ks m) (b + e) = if sectorOf (a + e) ∈ ks then old (a + e) else memGet m (b + e) := by
  induction ks generalizing m with
  | nil => rfl
  | cons k ks ih =>
    obtain ⟨j, hj⟩ := Nat.exists_eq_add_of_le (hk k List.mem_cons_self)
    have hiff : (j + b ≤ b + e ∧ b + e < j + b + 32) ↔ sectorOf (a + e) = k := by
      rw [sectorOf_eq_iff, hj, Nat.add_comm j b, Nat.add_le_add_iff_left, Nat.add_assoc, Nat.add_lt_add_iff_left, Nat.add_le_add_iff_left,
        Nat.add_assoc, Nat.add_lt_add_iff_left]
    have hstep : memGet (memPuts m (32 * k - a + b) ((upFrom (32 * k) 32).map old)) (b + e) =
        if sectorOf (a + e) = k then old (a + e) else memGet m (b + e) := by
      rw [memGet_memPuts, List.length_map, length_upFrom, hj, Nat.add_sub_cancel_left, if_congr hiff rfl rfl]
      refine ite_congr rfl (fun h => ?_) fun _ => rfl
      obtain ⟨h1, h2⟩ := hiff.mpr h
      rw [getD_map_upFrom _ _ _ (Nat.sub_lt_left_of_lt_add h1 h2), Nat.add_comm j b, Nat.add_sub_add_left]
      rw [Nat.add_comm j b, Nat.add_le_add_iff_left] at h1
      rw [Nat.add_assoc, Nat.add_sub_cancel' h1]
    refine (ih (fun j hj => hk j (List.mem_cons_of_mem _ hj)) _).trans ?_
    rw [hstep]
    by_cases hin : sectorOf (a + e) ∈ ks
    · rw [if_pos hin, if_pos (List.mem_cons_of_mem _ hin)]
    · have hhead : sectorOf (a + e) ∈ k :: ks ↔ sectorOf (a + e) = k := by rw [List.mem_cons, or_iff_left hin]
      rw [if_neg hin]
      exact (if_congr hhead rfl rfl).symm

theorem memGet_putSectors_below (a : Nat) {b c : Nat} (h : c < b) (old : Nat → Byte) (ks : List Nat) (m : List Host.Cell) :
    memGet (putSectors a b old ks m) c = memGet m c := by
  induction ks generalizing m with
  | nil => rfl
  | cons k ks ih =>
    refine (ih _).trans ?_
    rw [memGet_memPuts, if_neg fun hr => Nat.not_le.mpr h ((Nat.le_add_left ..).trans hr.1)]

/-- The foreign sectors of a page, by the bytes that lie in them. -/
theorem sectorOf_mem_foreignSectors (s : State) (key : Option (BitVec 512)) (i j o : Nat) :
    sectorOf o ∈ foreignSectors s key (32 * i) (32 * j) ↔ (32 * i ≤ o ∧ o < 32 * i + 32 * j) ∧ foreignSector s key (sectorOf o) = true := by
  rw [foreignSectors, List.mem_filter, mem_upFrom, Nat.mul_div_cancel_left i (by decide), Nat.mul_div_cancel_left j (by decide),
    le_sectorOf_iff, ← Nat.mul_add, ← Nat.not_le, ← Nat.not_le, le_sectorOf_iff]

theorem le_of_mem_foreignSectors {s : State} {key : Option (BitVec 512)} {i n k : Nat} (h : k ∈ foreignSectors s key (32 * i) n) :
    32 * i ≤ 32 * k := by
  rw [foreignSectors, List.mem_filter, mem_upFrom, Nat.mul_div_cancel_left i (by decide)] at h
  exact Nat.mul_le_mul_left 32 h.1.1

theorem moveBytes_eq (a b n : Nat) (key : Option (BitVec 512)) (s : State) :
    moveBytes a b n key s = putSectors a b (memUnder s key) (foreignSectors s key a n) (copyKeys a b n s.mem) := rfl

/-- A page's bytes after a move: at the new place what the key read at the old one, and every other byte as it was. -/
theorem memGet_moveBytes {s : State} (hw : Memory.wf s.mem = true) (key : Option (BitVec 512)) (i j b : Nat) :
    (∀ e < 32 * j, memGet (moveBytes (32 * i) b (32 * j) key s) (b + e) = memUnder s key (32 * i + e)) ∧
    ∀ c, c < b ∨ b + 32 * j ≤ c → memGet (moveBytes (32 * i) b (32 * j) key s) c = memGet s.mem c := by
  have hcopy (c : Nat) : memGet (copyKeys (32 * i) b (32 * j) s.mem) c =
      if inRange b (32 * j) c then memGet s.mem (c - b + 32 * i) else memGet s.mem c := get_copyKeys 0 _ b _ (nodup_of_wf hw) c
  have hput := memGet_putSectors (a := 32 * i) b (memUnder s key) (ks := foreignSectors s key (32 * i) (32 * j))
    (fun _ hk => le_of_mem_foreignSectors hk) (copyKeys (32 * i) b (32 * j) s.mem)
  have hmem (e : Nat) := sectorOf_mem_foreignSectors s key i j (32 * i + e)
  rw [moveBytes_eq]
  refine ⟨fun e he => ?_, fun c hc => ?_⟩
  · rw [hput, hcopy, if_pos ((inRange_iff ..).mpr ⟨Nat.le_add_right .., Nat.add_lt_add_left he b⟩), Nat.add_sub_cancel_left, Nat.add_comm e]
    cases hf : foreignSector s key (sectorOf (32 * i + e))
    · rw [if_neg fun h => Bool.false_ne_true (hf.symm.trans ((hmem e).mp h).2), memUnder_own hf]
    · rw [if_pos ((hmem e).mpr ⟨⟨Nat.le_add_right .., Nat.add_lt_add_left he _⟩, hf⟩)]
  · have hout : ¬ inRange b (32 * j) c = true := by
      rw [inRange_iff, not_and_or, Nat.not_le, Nat.not_lt]
      exact hc
    rcases hc with hc | hc
    · rw [memGet_putSectors_below _ hc, hcopy, if_neg hout]
    · obtain ⟨e, rfl⟩ := Nat.exists_eq_add_of_le ((Nat.le_add_right ..).trans hc)
      have he := Nat.add_le_add_iff_left.mp hc
      rw [hput, if_neg fun h => Nat.not_lt.mpr he (Nat.add_lt_add_iff_left.mp ((hmem e).mp h).1.2), hcopy, if_neg hout]

/-- A page of a leaf begins with a sector, and has whole sectors. -/
theorem dvd_leafLoc {x va : Nat} (h : va % pageSize (leafSize x) = 0) : 32 ∣ leafLoc x va := by
  have hbase : 32 ∣ Config.bankBase := by decide
  have hbank (k off : Nat) (ho : 32 ∣ off) : 32 ∣ Config.bankLoc k off :=
    Nat.dvd_add (Nat.dvd_add hbase (Dvd.dvd.mul_left (a := 32) (b := 262144) (by decide) k)) ho
  have hframe (k : Nat) : 32 ∣ k * 65536 + 0 := Nat.dvd_add (Dvd.dvd.mul_left (by decide) k) (Nat.dvd_zero 32)
  unfold leafLoc
  rw [h]
  split
  · exact hbank _ _ (Nat.dvd_zero 32)
  · split
    · exact hbank _ _ (hframe _)
    · exact hframe _

theorem dvd_pageSize (code : Nat) : 32 ∣ pageSize code := by
  unfold pageSize
  split
  · decide
  · split <;> decide

theorem raiseClocks_mem (ts : List (Nat × BitVec 16)) (s : State) : (raiseClocks ts s).mem = s.mem := by
  unfold raiseClocks
  induction ts generalizing s with
  | nil => rfl
  | cons t ts ih => exact (ih _).trans (keepsBytes_setHomeClock _ _ s).1

theorem moveLines_mem (x y a b n : Nat) (old : List Line) (s : State) : (moveLines x y a b n old s).mem = s.mem := by
  unfold moveLines
  exact raiseClocks_mem _ _

theorem movePresence_mem (x y dom va a b n : Nat) (s : State) : (movePresence x y dom va a b n s).mem = s.mem := rfl

/-- With no line held, the memory after a move is what the move makes of the page's bytes. -/
theorem movePage_mem {s : State} (h : s.lines = []) (x y dom va : Nat) : (movePage x y dom va s).mem =
    moveBytes (leafLoc x va) (leafLoc y va) (pageSize (leafSize x)) (leafMaterial s x) s := by
  unfold movePage
  rw [h]
  exact (moveLines_mem ..).trans (movePresence_mem ..)

/-- A home change whose page is mapped moves it, installs its leaf, drops its translations and completes its packet (R229). -/
theorem exec_homeChangeComplete {s : State} {dom va x pa : Nat} {h : HomeChange}
    (hh : s.homeChanges.find? (fun h => h.dom == dom && h.va == va) = some h)
    (hx : leafOf { s with homeChanges := s.homeChanges.filter fun k => !(k.dom == dom && k.va == va) } dom va = some (x, pa)) :
    let v := physWrite pa (leBytes 16 h.leaf.toNat)
      (movePage x h.leaf.toNat dom va { s with homeChanges := s.homeChanges.filter fun k => !(k.dom == dom && k.va == va) })
    exec (.homeChangeComplete dom va) s = .next (packetDone h.queue h.seq (signalDone h.queue h.qdom h.signal 0 0 0 0
      { v with tlb := v.tlb.filter fun e => !(e.dom == dom && inRange va (pageSize (leafSize x)) e.va) })) := by
  intro v
  show execHomeChangeComplete dom va s = _
  rw [execHomeChangeComplete, hh]
  dsimp only
  rw [hx]

/-- Settles O49: each event by its rule (exec_fullEmptyReissue to exec_autoTick, exec_homeChangeComplete), and a moved page's bytes by
memGet_moveBytes. -/
theorem linesPaddocksAndPagesMoveOn : Obligations.LinesPaddocksAndPagesMoveOn := by
  unfold Obligations.LinesPaddocksAndPagesMoveOn
  refine ⟨⟨fun s uid r hr => exec_fullEmptyReissue hr, fun s pad base l hl => ⟨exec_updateSharerAck hl, exec_paddockLineEviction hl⟩,
    fun s pad x p z hp hz => ?_, fun s core => exec_autoTick⟩, fun s dom va x pa h hh => ?_, fun s x y dom va hw hl hsize hva => ?_⟩
  · refine ⟨exec_paddockLineMove hp hz, exec_paddockShareArrival hp hz, fun hd hf h0 ha => ?_⟩
    exact ⟨_, exec_paddockResizeComplete hp hz hd hf h0 ha, find_resizeComplete z.signal hp⟩
  · intro u hx
    exact exec_homeChangeComplete hh hx
  · intro t
    obtain ⟨i, hi⟩ := dvd_leafLoc hva
    obtain ⟨j, hj⟩ := dvd_pageSize (leafSize x)
    have ht : t.mem = moveBytes (leafLoc x va) (leafLoc y va) (pageSize (leafSize x)) (leafMaterial s x) s := movePage_mem hl x y dom va
    rw [ht, hi, hj]
    exact memGet_moveBytes hw (leafMaterial s x) i j (leafLoc y va)

end Sys2Proof.Proofs
end
